-- ==== Sys2Proof/Word.lean ====
section
/-! DEFINITION. The word types of the Filpinar LX9 (00 R2: bit 0 is the least significant bit). -/

namespace Sys2Proof

/-- A byte: one location of the ordering machine (07). -/
abbrev W8 := BitVec 8
/-- A half word. -/
abbrev W16 := BitVec 16
/-- An instruction word, a lane register, a 32-bit control register. -/
abbrev W32 := BitVec 32
/-- A uniform register, a latch entry of one lane, a management register. -/
abbrev W64 := BitVec 64
/-- A virtual address, `va<56:0>` (01 Table 1-9). -/
abbrev Va := BitVec 57

/-- Bits `<hi:lo>` of a number, inclusive (00 R2). -/
def bits (x hi lo : Nat) : Nat := (x / 2 ^ lo) % 2 ^ (hi + 1 - lo)

/-- Bit `n` of a number. -/
def bitAt (x n : Nat) : Bool := (x / 2 ^ n) % 2 = 1

/-- The low 32 bits of a 64-bit value. -/
def lo32 (x : W64) : W32 := x.setWidth 32

/-- The high 32 bits of a 64-bit value. -/
def hi32 (x : W64) : W32 := (x >>> 32).setWidth 32

/-- The 64-bit value of a register pair: the first register holds bits `<31:0>` (01 R16). -/
def pair64 (lo hi : W32) : W64 := hi ++ lo

end Sys2Proof
end

