-- ==== Sys2Proof/Config.lean ====
section
/-! DEFINITION. What the package fixes, and the free values: constants with no body, so that no
statement can rest on a value the manual leaves open. -/

namespace Sys2Proof

/-- C-dies of the package (00 Table 0-1). -/
def nDies : Nat := 4
/-- Cores of one C-die (00 Table 0-1). -/
def coresPerDie : Nat := 96
/-- Cores of the package; executor numbers 0 to 383. -/
def nCores : Nat := 384
/-- Sequencers of one stack (23 R399); executor numbers from 384 up. -/
def seqPerStack : Nat := 16
/-- Bytes of a coherence line (07). -/
def lineBytes : Nat := 128
/-- The load window of 07 R120, in ticks of the die clock. -/
def loadWindow : Nat := 4096
/-- Bytes of one stack (17 R305). -/
def stackBytes : Nat := 0xC00000000

namespace Config

/-- A value the manual leaves open, fresh for each counter value: the value of a poisoned accumulator
row (14 R274), the bytes of an aborted collective's destination (25 R421), a power reading
(26 Table 26-9). DESIGN CHOICE, log entry 3. -/
opaque freeValue : Nat → W64

/-- What an enclosure of 4,096 bits would have to leave open in `fexp2`, `flog2`, `fsin`, `fcos`.
The manual fixes the result (09 R173); the model leaves it free there. Log entry 9. -/
opaque undecidedFunction : Nat → Nat

/-- SHA-384 of a byte string (26 R436): the standard's function, not written out. Log entry 10. -/
opaque sha384 : List W8 → List W8

/-- Whether an ECDSA P-384 signature over a digest is valid under a key (26 R436, R438). Log entry 10. -/
opaque ecdsaValid : (key digest sig : List W8) → Bool

/-- The hub's ECDSA P-384 signature with a private key, as SPDM 1.3 uses it (26 R440). Log entry 10. -/
opaque ecdsaSign : (key digest : List W8) → List W8

/-- The hub's ECDHE share and session secret from its entropy and the requester's share (26 R440). Log entry 10. -/
opaque ecdheShare : (entropy : W64) → (peer : List W8) → List W8

/-- Key derivation of the alias key from the fused secret and the firmware digest (26 R439). Log entry 10. -/
opaque deriveKey : (secret digest : List W8) → List W8

/-- The bytes of the boot ROM's measurement (26 Table 26-8, block 1). Log entry 10. -/
opaque bootRomImage : List W8

/-- Fused at manufacture: the root-key hash, the device secret and the serial (26 R434, R438, R439,
Table 26-9). The manual gives no value. Log entry 6. -/
opaque rootKeyHash : List W8
/-- See `rootKeyHash`. -/
opaque deviceSecret : List W8
/-- See `rootKeyHash`. -/
opaque deviceSerial : BitVec 128

/-- The firmware image that slot A holds from manufacture (26 R434, R436): the manual does not give it. Log entry 6. -/
opaque bootImage : List W8

/-- The answer of the CXL table access of 25 R408: CXL's own table, not given by the manual. Log entry 10. -/
opaque cxlTable : Nat → List W8

/-- The bytes of an SPDM 1.3 response of a kind with its fields (26 R440): the standard's encoding, not given by the manual.
Log entry 10. -/
opaque spdmMessage : (kind : Nat) → (fields : List (List W8)) → List W8

/-- The slice that the device designates nearest a cluster (17 R316): the manual does not name it. Log entry 85. -/
opaque nearSlice : (die cluster : Nat) → Fin 128

/-- The die on which the port ends that a channel of a core of another package arrives at (07 R130): the manual does not
place the ports. Log entry 16. -/
opaque arrivalDie : (core pkg : Nat) → Fin 4

end Config
end Sys2Proof
end

