-- ==== Sys2Proof/Syntax.lean ====
section
/-! DEFINITION. Every instruction and every step of the device that the opcode table lists (06, 95): one
constructor each. An encoded instruction holds its modifier word, if any, and the fields of its layout
(05). A step of the device or of an outside party holds what the outside or the device's own choice
supplies. -/

namespace Sys2Proof

/-- The modifier word (05 R91, R92, Tables 5-2 and 5-3), its fields as the word holds them. Layout 1 has
no ST and no RND, and those slots are absent (31 and 0); layout 0 has no X. -/
structure ModW where
  /-- L: layout 1, which carries X. -/
  l1 : Bool
  /-- TY, 31 absent. -/
  ty : BitVec 5
  /-- ST, 31 absent. -/
  st : BitVec 5
  /-- RND, 0 absent. -/
  rnd : BitVec 3
  /-- ORD, 0 absent. -/
  ord : BitVec 4
  /-- SCO, 0 absent. -/
  sco : BitVec 3
  /-- FL. -/
  fl : BitVec 2
  /-- X: a 7-bit operand field. -/
  x : BitVec 7
  /-- X last-use. -/
  xlu : Bool
  deriving DecidableEq, Repr

/-- ALU layout (05 Table 5-4). -/
structure Alu where
  vd : BitVec 6
  nw : Bool
  a : BitVec 7
  alu : Bool
  b : BitVec 7
  blu : Bool
  deriving DecidableEq, Repr

/-- ALU-imm layout (05 R100). -/
structure AluI where
  vd : BitVec 6
  nw : Bool
  a : BitVec 7
  alu : Bool
  imm : BitVec 8
  deriving DecidableEq, Repr

/-- MEM layout of loads, stores, `pref` and `stk.ldring` (05 Table 5-8). -/
structure Mem where
  vd : BitVec 6
  nw : Bool
  a : BitVec 7
  alu : Bool
  d : BitVec 8
  deriving DecidableEq, Repr

/-- C-cond and U-cond (05 Tables 5-9, 5-10). -/
structure CCond where
  n : Bool
  p : BitVec 3
  off : BitVec 19
  deriving DecidableEq, Repr

/-- C-far and U-far (05 Tables 5-9, 5-10). -/
structure CFar where
  off : BitVec 23
  deriving DecidableEq, Repr

/-- C-reg (05 Table 5-9). -/
structure CReg where
  a : BitVec 7
  alu : Bool
  deriving DecidableEq, Repr

/-- C-none, and `fence`, whose field bits are all 0 (05 Tables 5-8, 5-9). -/
structure C0 where
  deriving DecidableEq, Repr

/-- S-reg (05 Table 5-10). -/
structure SReg where
  sd : BitVec 6
  sa : BitVec 6
  sb : BitVec 6
  deriving DecidableEq, Repr

/-- S-mem (05 Table 5-10). -/
structure SMem where
  sd : BitVec 6
  sa : BitVec 6
  d : BitVec 11
  deriving DecidableEq, Repr

/-- S-imm (05 Table 5-10). -/
structure SImm where
  sd : BitVec 6
  imm : BitVec 16
  deriving DecidableEq, Repr

/-- U-loop (05 Table 5-10). -/
structure ULoop where
  s : BitVec 6
  off : BitVec 17
  deriving DecidableEq, Repr

/-- MX (05 Table 5-10): tile, handle, two uniform registers and the mode bits. -/
structure Mx where
  t : BitVec 4
  w : BitVec 3
  sa : BitVec 6
  sb : BitVec 6
  m : BitVec 4
  deriving DecidableEq, Repr

/-- TH (05 Table 5-10). -/
structure Th where
  sa : BitVec 6
  sb : BitVec 6
  sc : BitVec 6
  k : BitVec 5
  deriving DecidableEq, Repr

/-- SY (05 Table 5-10). -/
structure Sy where
  sa : BitVec 6
  sb : BitVec 6
  imm : BitVec 11
  deriving DecidableEq, Repr

/-- SYS (05 Table 5-10). -/
structure Sys where
  sa : BitVec 6
  imm : BitVec 12
  deriving DecidableEq, Repr

/-- A fabric message: the header flit (25 Table 25-4) and its data flits as bytes. -/
structure Flit where
  hdr : BitVec 256
  data : List W8
  deriving DecidableEq, Repr

/-- What a step names by a number, and how many ticks before the clock, at most, its reads are (07 R120). -/
structure ReadAt where
  n : Nat
  back : Nat
  deriving DecidableEq, Repr

/-- The tag of a cached copy: an address space and a VA of the line (17 R308). -/
structure Tag where
  asid : Nat
  va : Nat
  deriving DecidableEq, Repr

inductive Instr where
  /-- `add`, P = 0x000 (R144). -/
  | add (m : Option ModW) (f : Alu)
  /-- `sub`, P = 0x001 (R144). -/
  | sub (m : Option ModW) (f : Alu)
  /-- `mul`, P = 0x002 (R144). -/
  | mul (m : Option ModW) (f : Alu)
  /-- `mulh`, P = 0x003 (R144). -/
  | mulh (m : Option ModW) (f : Alu)
  /-- `mad`, P = 0x004 (R144). -/
  | mad (m : Option ModW) (f : Alu)
  /-- `div`, P = 0x005 (R146). -/
  | div (m : Option ModW) (f : Alu)
  /-- `rem`, P = 0x006 (R146). -/
  | rem (m : Option ModW) (f : Alu)
  /-- `abs`, P = 0x007 (R145). -/
  | abs (m : Option ModW) (f : Alu)
  /-- `min`, P = 0x008 (R144). -/
  | min (m : Option ModW) (f : Alu)
  /-- `max`, P = 0x009 (R144). -/
  | max (m : Option ModW) (f : Alu)
  /-- `cmp`, P = 0x00A (R148). -/
  | cmp (m : Option ModW) (f : Alu)
  /-- `sel`, P = 0x00B (R149). -/
  | sel (m : Option ModW) (f : Alu)
  /-- `mov`, P = 0x00C (R145). -/
  | mov (m : Option ModW) (f : Alu)
  /-- `cvt.i`, P = 0x00D (R150). -/
  | cvtI (m : Option ModW) (f : Alu)
  /-- `and`, P = 0x020 (R151). -/
  | and (m : Option ModW) (f : Alu)
  /-- `or`, P = 0x021 (R151). -/
  | or (m : Option ModW) (f : Alu)
  /-- `xor`, P = 0x022 (R151). -/
  | xor (m : Option ModW) (f : Alu)
  /-- `andn`, P = 0x023 (R151). -/
  | andn (m : Option ModW) (f : Alu)
  /-- `shl`, P = 0x024 (R151). -/
  | shl (m : Option ModW) (f : Alu)
  /-- `shr`, P = 0x025 (R151). -/
  | shr (m : Option ModW) (f : Alu)
  /-- `sha`, P = 0x026 (R151). -/
  | sha (m : Option ModW) (f : Alu)
  /-- `rot`, P = 0x027 (R151). -/
  | rot (m : Option ModW) (f : Alu)
  /-- `clz`, P = 0x028 (R151). -/
  | clz (m : Option ModW) (f : Alu)
  /-- `popc`, P = 0x029 (R151). -/
  | popc (m : Option ModW) (f : Alu)
  /-- `brev`, P = 0x02A (R151). -/
  | brev (m : Option ModW) (f : Alu)
  /-- `bfx`, P = 0x02B (R152). -/
  | bfx (m : Option ModW) (f : Alu)
  /-- `bfi`, P = 0x02C (R152). -/
  | bfi (m : Option ModW) (f : Alu)
  /-- `fadd`, P = 0x040 (R168). -/
  | fadd (m : Option ModW) (f : Alu)
  /-- `fsub`, P = 0x041 (R168). -/
  | fsub (m : Option ModW) (f : Alu)
  /-- `fmul`, P = 0x042 (R168). -/
  | fmul (m : Option ModW) (f : Alu)
  /-- `fma`, P = 0x043 (R168). -/
  | fma (m : Option ModW) (f : Alu)
  /-- `fdiv`, P = 0x044 (R168). -/
  | fdiv (m : Option ModW) (f : Alu)
  /-- `fmin`, P = 0x045 (R170). -/
  | fmin (m : Option ModW) (f : Alu)
  /-- `fmax`, P = 0x046 (R170). -/
  | fmax (m : Option ModW) (f : Alu)
  /-- `fminn`, P = 0x047 (R170). -/
  | fminn (m : Option ModW) (f : Alu)
  /-- `fmaxn`, P = 0x048 (R170). -/
  | fmaxn (m : Option ModW) (f : Alu)
  /-- `fabs`, P = 0x049 (R170). -/
  | fabs (m : Option ModW) (f : Alu)
  /-- `fneg`, P = 0x04A (R170). -/
  | fneg (m : Option ModW) (f : Alu)
  /-- `fcmp`, P = 0x04B (R171). -/
  | fcmp (m : Option ModW) (f : Alu)
  /-- `frcp`, P = 0x04C (R173). -/
  | frcp (m : Option ModW) (f : Alu)
  /-- `frsq`, P = 0x04D (R173). -/
  | frsq (m : Option ModW) (f : Alu)
  /-- `fsqrt`, P = 0x04E (R173). -/
  | fsqrt (m : Option ModW) (f : Alu)
  /-- `fexp2`, P = 0x04F (R173). -/
  | fexp2 (m : Option ModW) (f : Alu)
  /-- `flog2`, P = 0x050 (R173). -/
  | flog2 (m : Option ModW) (f : Alu)
  /-- `fsin`, P = 0x051 (R173). -/
  | fsin (m : Option ModW) (f : Alu)
  /-- `fcos`, P = 0x052 (R173). -/
  | fcos (m : Option ModW) (f : Alu)
  /-- `frnd`, P = 0x053 (R173). -/
  | frnd (m : Option ModW) (f : Alu)
  /-- `fclass`, P = 0x054 (R172). -/
  | fclass (m : Option ModW) (f : Alu)
  /-- `cvt`, P = 0x060 (R177). -/
  | cvt (m : Option ModW) (f : Alu)
  /-- `cvt.mx`, P = 0x061 (R181). -/
  | cvtMx (m : Option ModW) (f : Alu)
  /-- `cvt.lg6`, P = 0x062 (R178). -/
  | cvtLg6 (m : Option ModW) (f : Alu)
  /-- `mxsc`, P = 0x063 (R184). -/
  | mxsc (m : Option ModW) (f : Alu)
  /-- `pk`, P = 0x064 (R179). -/
  | pk (m : Option ModW) (f : Alu)
  /-- `upk`, P = 0x065 (R180). -/
  | upk (m : Option ModW) (f : Alu)
  /-- `ld`, P = 0x080 (R228). -/
  | ld (m : Option ModW) (f : Mem)
  /-- `st`, P = 0x081 (R228). -/
  | st (m : Option ModW) (f : Mem)
  /-- `ldsp`, P = 0x082 (R231). -/
  | ldsp (m : Option ModW) (f : Mem)
  /-- `stsp`, P = 0x083 (R231). -/
  | stsp (m : Option ModW) (f : Mem)
  /-- `ldraw`, P = 0x084 (R230). -/
  | ldraw (m : Option ModW) (f : Mem)
  /-- `pref`, P = 0x085 (R232). -/
  | pref (m : Option ModW) (f : Mem)
  /-- `fence`, P = 0x086 (R233). -/
  | fence (m : Option ModW) (f : C0)
  /-- `atom.add`, P = 0x088 (R234). -/
  | atomAdd (m : Option ModW) (f : Alu)
  /-- `atom.min`, P = 0x089 (R234). -/
  | atomMin (m : Option ModW) (f : Alu)
  /-- `atom.max`, P = 0x08A (R234). -/
  | atomMax (m : Option ModW) (f : Alu)
  /-- `atom.and`, P = 0x08B (R234). -/
  | atomAnd (m : Option ModW) (f : Alu)
  /-- `atom.or`, P = 0x08C (R234). -/
  | atomOr (m : Option ModW) (f : Alu)
  /-- `atom.xor`, P = 0x08D (R234). -/
  | atomXor (m : Option ModW) (f : Alu)
  /-- `atom.xchg`, P = 0x08E (R234). -/
  | atomXchg (m : Option ModW) (f : Alu)
  /-- `atom.cas`, P = 0x08F (R234). -/
  | atomCas (m : Option ModW) (f : Alu)
  /-- `atom.fadd`, P = 0x090 (R235). -/
  | atomFadd (m : Option ModW) (f : Alu)
  /-- `atom.fmax`, P = 0x091 (R234). -/
  | atomFmax (m : Option ModW) (f : Alu)
  /-- `amaxi`, P = 0x092 (R237). -/
  | amaxi (m : Option ModW) (f : Alu)
  /-- `red.add`, P = 0x093 (R238). -/
  | redAdd (m : Option ModW) (f : Alu)
  /-- `red.max`, P = 0x094 (R238). -/
  | redMax (m : Option ModW) (f : Alu)
  /-- `red.esum`, P = 0x095 (R238). -/
  | redEsum (m : Option ModW) (f : Alu)
  /-- `bp`, P = 0x0A0 (R158). -/
  | bp (m : Option ModW) (f : CCond)
  /-- `jmp`, P = 0x0A1 (R160). -/
  | jmp (m : Option ModW) (f : CFar)
  /-- `jmp`, P = 0x0A2 (R160). -/
  | jmpReg (m : Option ModW) (f : CReg)
  /-- `call`, P = 0x0A3 (R159). -/
  | call (m : Option ModW) (f : CFar)
  /-- `call`, P = 0x0A4 (R159). -/
  | callReg (m : Option ModW) (f : CReg)
  /-- `ret`, P = 0x0A5 (R159). -/
  | ret (m : Option ModW) (f : CReg)
  /-- `reform`, P = 0x0A6 (R161). -/
  | reform (m : Option ModW) (f : C0)
  /-- `exit`, P = 0x0A7 (R162). -/
  | exit (m : Option ModW) (f : C0)
  /-- `nop`, P = 0x0A8 (R161). -/
  | nop (m : Option ModW) (f : C0)
  /-- `shfl`, P = 0x0C0 (R246). -/
  | shfl (m : Option ModW) (f : Alu)
  /-- `shfli`, P = 0x0C1 (R246). -/
  | shfli (m : Option ModW) (f : AluI)
  /-- `vote`, P = 0x0C2 (R247). -/
  | vote (m : Option ModW) (f : AluI)
  /-- `redu`, P = 0x0C3 (R249). -/
  | redu (m : Option ModW) (f : AluI)
  /-- `redmaxi`, P = 0x0C4 (R251). -/
  | redmaxi (m : Option ModW) (f : Alu)
  /-- `scan`, P = 0x0C5 (R249). -/
  | scan (m : Option ModW) (f : AluI)
  /-- `cmpr`, P = 0x0C6 (R246). -/
  | cmpr (m : Option ModW) (f : Alu)
  /-- `expd`, P = 0x0C7 (R246). -/
  | expd (m : Option ModW) (f : Alu)
  /-- `slup`, P = 0x0C8 (R246). -/
  | slup (m : Option ModW) (f : Alu)
  /-- `sldn`, P = 0x0C9 (R246). -/
  | sldn (m : Option ModW) (f : Alu)
  /-- `bcast`, P = 0x0CA (R246). -/
  | bcast (m : Option ModW) (f : AluI)
  /-- `wfind`, P = 0x0CB (R248). -/
  | wfind (m : Option ModW) (f : Alu)
  /-- `harrow`, P = 0x0CC (R252). -/
  | harrow (m : Option ModW) (f : Alu)
  /-- `stk.add`, P = 0x0E0 (R196). -/
  | stkAdd (m : Option ModW) (f : Alu)
  /-- `stk.sub`, P = 0x0E1 (R196). -/
  | stkSub (m : Option ModW) (f : Alu)
  /-- `stk.mul`, P = 0x0E2 (R196). -/
  | stkMul (m : Option ModW) (f : Alu)
  /-- `stk.div`, P = 0x0E3 (R196). -/
  | stkDiv (m : Option ModW) (f : Alu)
  /-- `stk.neg`, P = 0x0E4 (R197). -/
  | stkNeg (m : Option ModW) (f : Alu)
  /-- `stk.rcp`, P = 0x0E5 (R197). -/
  | stkRcp (m : Option ModW) (f : Alu)
  /-- `stk.sq`, P = 0x0E6 (R197). -/
  | stkSq (m : Option ModW) (f : Alu)
  /-- `stk.uni`, P = 0x0E7 (R198). -/
  | stkUni (m : Option ModW) (f : Alu)
  /-- `stk.isect`, P = 0x0E8 (R198). -/
  | stkIsect (m : Option ModW) (f : Alu)
  /-- `stk.hull`, P = 0x0E9 (R198). -/
  | stkHull (m : Option ModW) (f : Alu)
  /-- `stk.from`, P = 0x0EA (R199). -/
  | stkFrom (m : Option ModW) (f : Alu)
  /-- `stk.to`, P = 0x0EB (R200). -/
  | stkTo (m : Option ModW) (f : Alu)
  /-- `stk.ldring`, P = 0x0EC (R201). -/
  | stkLdring (m : Option ModW) (f : Mem)
  /-- `sadd`, P = 0x100 (R153). -/
  | sadd (m : Option ModW) (f : SReg)
  /-- `ssub`, P = 0x101 (R153). -/
  | ssub (m : Option ModW) (f : SReg)
  /-- `smul`, P = 0x102 (R153). -/
  | smul (m : Option ModW) (f : SReg)
  /-- `sand`, P = 0x103 (R153). -/
  | sand (m : Option ModW) (f : SReg)
  /-- `sor`, P = 0x104 (R153). -/
  | sor (m : Option ModW) (f : SReg)
  /-- `sxor`, P = 0x105 (R153). -/
  | sxor (m : Option ModW) (f : SReg)
  /-- `sshl`, P = 0x106 (R153). -/
  | sshl (m : Option ModW) (f : SReg)
  /-- `sshr`, P = 0x107 (R153). -/
  | sshr (m : Option ModW) (f : SReg)
  /-- `ssha`, P = 0x108 (R153). -/
  | ssha (m : Option ModW) (f : SReg)
  /-- `smin`, P = 0x109 (R153). -/
  | smin (m : Option ModW) (f : SReg)
  /-- `smax`, P = 0x10A (R153). -/
  | smax (m : Option ModW) (f : SReg)
  /-- `smov`, P = 0x10B (R153). -/
  | smov (m : Option ModW) (f : SReg)
  /-- `scmp`, P = 0x10C (R154). -/
  | scmp (m : Option ModW) (f : SReg)
  /-- `ssel`, P = 0x10D (R154). -/
  | ssel (m : Option ModW) (f : SReg)
  /-- `sld`, P = 0x10E (R155). -/
  | sld (m : Option ModW) (f : SMem)
  /-- `sst`, P = 0x10F (R155). -/
  | sst (m : Option ModW) (f : SMem)
  /-- `sli`, P = 0x120 (R114). -/
  | sli (m : Option ModW) (f : SImm)
  /-- `sli.h1`, P = 0x121 (R114). -/
  | sliH1 (m : Option ModW) (f : SImm)
  /-- `sli.h2`, P = 0x122 (R114). -/
  | sliH2 (m : Option ModW) (f : SImm)
  /-- `sli.h3`, P = 0x123 (R114). -/
  | sliH3 (m : Option ModW) (f : SImm)
  /-- `sadd`, P = 0x124 (R114). -/
  | saddImm (m : Option ModW) (f : SImm)
  /-- `ubr`, P = 0x140 (R163). -/
  | ubr (m : Option ModW) (f : CCond)
  /-- `ubr`, P = 0x141 (R163). -/
  | ubrFar (m : Option ModW) (f : CFar)
  /-- `ucall`, P = 0x142 (R163). -/
  | ucall (m : Option ModW) (f : CFar)
  /-- `uret`, P = 0x143 (R163). -/
  | uret (m : Option ModW) (f : SReg)
  /-- `uloop`, P = 0x144 (R164). -/
  | uloop (m : Option ModW) (f : ULoop)
  /-- `gang`, P = 0x160 (R261). -/
  | gang (m : Option ModW) (f : Mx)
  /-- `station`, P = 0x161 (R265). -/
  | station (m : Option ModW) (f : Mx)
  /-- `unstation`, P = 0x162 (R266). -/
  | unstation (m : Option ModW) (f : Mx)
  /-- `mma`, P = 0x163 (R269). -/
  | mma (m : Option ModW) (f : Mx)
  /-- `mmat`, P = 0x164 (R269). -/
  | mmat (m : Option ModW) (f : Mx)
  /-- `mdual`, P = 0x165 (R270). -/
  | mdual (m : Option ModW) (f : Mx)
  /-- `azero`, P = 0x166 (R275). -/
  | azero (m : Option ModW) (f : Mx)
  /-- `ald`, P = 0x167 (R275). -/
  | ald (m : Option ModW) (f : Mx)
  /-- `ast`, P = 0x168 (R275). -/
  | ast (m : Option ModW) (f : Mx)
  /-- `ascl`, P = 0x169 (R275). -/
  | ascl (m : Option ModW) (f : Mx)
  /-- `aread`, P = 0x16A (R275). -/
  | aread (m : Option ModW) (f : Mx)
  /-- `mwait`, P = 0x16B (R276). -/
  | mwait (m : Option ModW) (f : Mx)
  /-- `tfill`, P = 0x180 (R279). -/
  | tfill (m : Option ModW) (f : Th)
  /-- `taff`, P = 0x181 (R279). -/
  | taff (m : Option ModW) (f : Th)
  /-- `tclamp`, P = 0x182 (R279). -/
  | tclamp (m : Option ModW) (f : Th)
  /-- `tperm`, P = 0x183 (R279). -/
  | tperm (m : Option ModW) (f : Th)
  /-- `tmat`, P = 0x184 (R279). -/
  | tmat (m : Option ModW) (f : Th)
  /-- `tread`, P = 0x185 (R281). -/
  | tread (m : Option ModW) (f : Th)
  /-- `stream`, P = 0x186 (R256). -/
  | stream (m : Option ModW) (f : Th)
  /-- `bar`, P = 0x1A0 (R283). -/
  | bar (m : Option ModW) (f : Sy)
  /-- `barw`, P = 0x1A1 (R284). -/
  | barw (m : Option ModW) (f : Sy)
  /-- `yield`, P = 0x1A2 (R286). -/
  | yield (m : Option ModW) (f : Sy)
  /-- `wlpush`, P = 0x1A3 (R287). -/
  | wlpush (m : Option ModW) (f : Sy)
  /-- `wlpop`, P = 0x1A4 (R288). -/
  | wlpop (m : Option ModW) (f : Sy)
  /-- `wlquiet`, P = 0x1A5 (R289). -/
  | wlquiet (m : Option ModW) (f : Sy)
  /-- `waitwp`, P = 0x1A6 (R290). -/
  | waitwp (m : Option ModW) (f : Sy)
  /-- `waitseq`, P = 0x1A7 (R291). -/
  | waitseq (m : Option ModW) (f : Sy)
  /-- `aflush`, P = 0x1A8 (R292). -/
  | aflush (m : Option ModW) (f : Sy)
  /-- `chapp`, P = 0x1C0 (R294). -/
  | chapp (m : Option ModW) (f : Sy)
  /-- `launch`, P = 0x1C1 (R295). -/
  | launch (m : Option ModW) (f : Sy)
  /-- `nlaunch`, P = 0x1C2 (R295). -/
  | nlaunch (m : Option ModW) (f : Sy)
  /-- `coll`, P = 0x1C3 (R295). -/
  | coll (m : Option ModW) (f : Sy)
  /-- `topk`, P = 0x1C4 (R295). -/
  | topk (m : Option ModW) (f : Sy)
  /-- `gath`, P = 0x1C5 (R295). -/
  | gath (m : Option ModW) (f : Sy)
  /-- `trap`, P = 0x1E0 (R299). -/
  | trap (m : Option ModW) (f : Sys)
  /-- `tret`, P = 0x1E1 (R366). -/
  | tret (m : Option ModW) (f : Sys)
  /-- `csrr`, P = 0x1E2 (R300). -/
  | csrr (m : Option ModW) (f : Sys)
  /-- `csrw`, P = 0x1E3 (R300). -/
  | csrw (m : Option ModW) (f : Sys)
  /-- `brk`, P = 0x1E4 (R299). -/
  | brk (m : Option ModW) (f : Sys)
  /-- `getclk`, P = 0x1E5 (R301). -/
  | getclk (m : Option ModW) (f : Sys)
  /-- INSTRUCTION_FETCH (R309): the fetch of the sheaf with place `k`; `bad` counts parity errors met in a row at its PC. -/
  | instructionFetch (k : ReadAt) (bad : Nat)
  /-- STORE_SEND (R121): access `g` leaves its store buffer for its home, combined with the `.com` operations `more`. -/
  | storeSend (g : Nat) (more : List Nat)
  /-- WRITE_SEQUENCE (R118): the `i`-th write waiting at die `d`'s home sequencer is numbered. -/
  | writeSequence (d i : Nat)
  /-- WRITE_APPLY (R119): die `d` applies the next write homed on die `h`. -/
  | writeApply (d h : Nat)
  /-- LOAD_PERFORM (R120): load `g` performs at `back` ticks before its die's clock, or at its lower limit if that is later. -/
  | loadPerform (g back : Nat)
  /-- FORWARD_DELIVERY (R127): entry `j` of cluster `c`'s path is delivered to `core`. -/
  | forwardDelivery (c j core : Nat)
  /-- ATOMIC_HOME_STEP (R132): atomic `g` performs at home; a `.spc` first reads the view `back` ticks ago. -/
  | atomicHomeStep (g back : Nat)
  /-- QNT_BATCH (R133): the `.qnt` adds `gs` of one core and location, in the order of their returns. -/
  | qntBatch (gs : List Nat)
  /-- FENCE_COMPLETE (R124): fence `g` completes. -/
  | fenceComplete (g : Nat)
  /-- PACKAGE_DRAIN (R125): fence `g` takes the token, or with the token completes its drain. -/
  | packageDrain (g : Nat)
  /-- PACKAGE_CHANNEL_DELIVERY (R130): the head of a package channel is delivered. -/
  | packageChannelDelivery (inbound : Bool) (core pkg : Nat)
  /-- BACKING_COPY (R129): the view value of a scratch line (PA / 128) is copied to its backing value. -/
  | backingCopy (line : Nat)
  /-- DEAD_LOAD_RESTORE (R229): the `i`-th restore owed by an `ld.dead` is sequenced. -/
  | deadLoadRestore (i : Nat)
  /-- DET_FLUSH_DRAIN (R136): flush point of an instance of launch `l`; level 8 stands for the launch. -/
  | detFlushDrain (l lev inst : Nat)
  /-- KERNEL_END_DRAIN (R136): launch `l` has ended and its held atomics drain. -/
  | kernelEndDrain (l : Nat)
  /-- DIE_CLOCK_TICK (R119): one cycle of die `d`. -/
  | dieClockTick (d : Nat)
  /-- RENDEZVOUS_EXECUTE (R242): the rendezvous of wave `wk` executes. -/
  | rendezvousExecute (wk : Nat)
  /-- XLANE_SPLIT (R10): wave `wk` waits at rendezvous at several PCs. -/
  | xlaneSplit (wk : Nat)
  /-- GANG_LATCH_MEET (R258): entry `i` of core `c`'s rendezvous latch executes. -/
  | gangLatchMeet (c i : Nat)
  /-- STATION_LOAD_COMPLETE (R265): the load of team `tk`'s station `w` completes. -/
  | stationLoadComplete (tk w : Nat)
  /-- PRODUCT_COMPLETE (R272): product `i` of core `c` completes. -/
  | productComplete (c i : Nat)
  /-- MWAIT_COMPLETE (R276): wait `i`. -/
  | mwaitComplete (i : Nat)
  /-- BARRIER_RELEASE (R354): barrier `i` completes. -/
  | barrierRelease (i : Nat)
  /-- BAR_SPLIT (R285): an instance whose barriers can never complete. -/
  | barSplit (l lev inst : Nat)
  /-- WAITSEQ_COMPLETE (R291): wait `i` reads its word `back` ticks ago. -/
  | waitseqComplete (i back : Nat)
  /-- WAITSEQ_TIMEOUT (R291): wait `i`. -/
  | waitseqTimeout (i : Nat)
  /-- WAITWP_COMPLETE (R290): wait `i`. -/
  | waitwpComplete (i : Nat)
  /-- WLQUIET_WAKE (R289): wait `i`. -/
  | wlquietWake (i : Nat)
  /-- QUIESCENCE (R353): launch `l`. -/
  | quiescence (l : Nat)
  /-- TILE_RANGE_COMPLETE (R279): wait `i`. -/
  | tileRangeComplete (i : Nat)
  /-- RING_CONTEXT_BIND (R202): the ring load with place `i` completes. -/
  | ringContextBind (i : ReadAt)
  /-- ENGINE_ENTRY_START (R137): engine `e` takes its next chain entry. -/
  | engineEntryStart (e : ReadAt)
  /-- ENGINE_LINE_RELEASE (R137): engine or stream `e` writes and releases its next line. -/
  | engineLineRelease (e : Nat)
  /-- ENGINE_ENTRY_COMPLETE (R297): engine `e` finishes its entry. -/
  | engineEntryComplete (e : Nat)
  /-- ENGINE_FAULT (R297): engine `e`'s faulted entry stops. -/
  | engineFault (e : Nat)
  /-- COLLECTIVE_MATCH (R420): the entries of group `grp` are paired and checked. -/
  | collectiveMatch (grp : Nat)
  /-- STREAM_START (R256): stream `i` starts. -/
  | streamStart (i : Nat)
  /-- STREAM_COMPLETE (R256): stream `i` completes. -/
  | streamComplete (i : Nat)
  /-- STREAM_FAULT (R256): stream `i` stops at a fault. -/
  | streamFault (i : Nat)
  /-- HOST_QUEUE_SLOT_TAKE (R338): queue `q` of function `v`. -/
  | hostQueueSlotTake (v q : Nat)
  /-- TAIL_LINE_INVALIDATE (R339): the tail line of queue `q` of function `v` is read again; in the host window it holds `tail`. -/
  | tailLineInvalidate (v q : Nat) (tail : BitVec 64)
  /-- LAUNCH_ELIGIBLE (R340): the dependence of launch `l` is read. -/
  | launchEligible (l : Nat)
  /-- LAUNCH_ADMISSION (R341): launch `l` is admitted on die `d`. -/
  | launchAdmission (l d : Nat)
  /-- TEAM_PLACEMENT (R345): a waiting team is placed in the active set of a core. -/
  | teamPlacement (tk core frame : Nat)
  /-- NM_BLOCK_PLACEMENT (R402): a near-memory block is placed on a sequencer. -/
  | nmBlockPlacement (tk seqr frame : Nat)
  /-- PRIORITY_AGING (R343): team `tk` has waited 2^24 cycles. -/
  | priorityAging (tk : Nat)
  /-- TIME_SLICE_EXPIRY (R345): core `c`. -/
  | timeSliceExpiry (c : Nat)
  /-- BLOCKED_TIMEOUT (R345): core `c`. -/
  | blockedTimeout (c : Nat)
  /-- LOFT_SWAP (R371): core `c`. -/
  | loftSwap (c : Nat)
  /-- GLEANER_SAVE (R372): core `c`'s outgoing teams are saved, but for idempotent ones discarded. -/
  | gleanerSave (c : Nat) (discard : List Nat)
  /-- GLEANER_FILL (R372): a ready team is read into core `c`'s loft. -/
  | gleanerFill (c tk frame : Nat)
  /-- BANK_SPILL_FILL (R373): core `c`. -/
  | bankSpillFill (c : Nat)
  /-- SHEAF_DRAW (R348): core `c`. -/
  | sheafDraw (c : Nat)
  /-- DET_SWITCH_POINT (R350): the current wave of DET launch `l` on core `c` changes. -/
  | detSwitchPoint (c l : Nat)
  /-- LAUNCH_COMPLETE (R336): launch `l`. -/
  | launchComplete (l : Nat)
  /-- FAULT_RECORD_WRITE (R368): die `d`. -/
  | faultRecordWrite (d : Nat)
  /-- ERROR_RECORD_WRITE (R431): die `d`, 4 for the hub. -/
  | errorRecordWrite (d : Nat)
  /-- CORRECTED_ERROR (R427): an error of source `src` on die `d` (4 for the hub). -/
  | correctedError (d src addr detail : Nat)
  /-- UNCORRECTED_ERROR (R427): an error of source `src` on die `d`; for the storage of a core, `addr` is the core plus
  1,024 times the thread, the bank word, or 32 times the tile plus the row. -/
  | uncorrectedError (d src addr detail : Nat)
  /-- FATAL_ERROR (R430): an error of source `src` on die `d` (4 for the hub). -/
  | fatalError (d src addr detail : Nat)
  /-- PATROL_SCRUB (R429): a line (PA / 128) is visited; `bad` is 0 clean, 1 correctable, 2 uncorrectable. -/
  | patrolScrub (line bad : Nat)
  /-- SEQUENCER_WATCHDOG (R403): executor `e`. -/
  | sequencerWatchdog (e : Nat)
  /-- MTCMD_COMPLETE (R326): die `d`. -/
  | mtcmdComplete (d : Nat)
  /-- MIGRATION_EPOCH (R328): die `d`. -/
  | migrationEpoch (d : Nat)
  /-- SILO_EVICTION (R394): stack `s`. -/
  | siloEviction (s : Nat)
  /-- LEASE_RENEWAL (R311): a copy of a VA's line in cache `unit` of die `d`. -/
  | leaseRenewal (d unit : Nat) (line : Tag) (lease : Nat)
  /-- GENERATION_SWEEP (R310): cache `unit` of die `d`. -/
  | generationSweep (d unit : Nat)
  /-- RETENTION_SLEEP (R312): cache `unit` of die `d`. -/
  | retentionSleep (d unit : Nat)
  /-- RETENTION_WAKE (R312): cache `unit` of die `d`. -/
  | retentionWake (d unit : Nat)
  /-- SECTOR_MIGRATION (R316): a sector of die `d` (PA / 1,024). -/
  | sectorMigration (d sector cluster : Nat)
  /-- ORIENTATION_FLIP (R318): a sector of die `d` (PA / 1,024). -/
  | orientationFlip (d sector : Nat)
  /-- PAGE_WALK (R324): a walk for an access completes. -/
  | pageWalk (asid va : Nat) (fetch write : Bool)
  /-- PAGE_MIGRATION (R329): the page of `va` moves to a frame of `stack`. -/
  | pageMigration (d asid va stack : Nat)
  /-- POWER_THROTTLE (R441): an island's frequency is lowered or raised. -/
  | powerThrottle (island : Nat) (lower : Bool)
  /-- HOST_READ_SHARED (R414): through decoder `n`, the half-line at `dpa`. -/
  | hostReadShared (n dpa : Nat)
  /-- HOST_READ_OWN (R414): through decoder `n`, the half-line at `dpa`. -/
  | hostReadOwn (n dpa : Nat)
  /-- HOST_WRITE (R411): through decoder `n`, bytes from `dpa` on within one half-line. -/
  | hostWrite (n dpa : Nat) (bytes : List (BitVec 8))
  /-- BISNP_RESPONSE (R414): the answer for the half-line at `dpa`. -/
  | bisnpResponse (dpa : Nat) (data : Option (List (BitVec 8)))
  /-- HOST_GLOBAL_OBSERVATION (R416): the oldest request of die `d`'s host channel. -/
  | hostGlobalObservation (d : Nat) (data : List (BitVec 8))
  /-- HOST_DECODE_ERROR (R416): the oldest request of die `d`'s host channel. -/
  | hostDecodeError (d : Nat)
  /-- FABRIC_READ (R418). -/
  | fabricRead (f : Flit)
  /-- FABRIC_WRITE (R418). -/
  | fabricWrite (f : Flit)
  /-- FABRIC_ATOMIC (R418). -/
  | fabricAtomic (f : Flit)
  /-- FABRIC_RED (R418). -/
  | fabricRed (f : Flit)
  /-- FABRIC_DATA_RESPONSE (R418). -/
  | fabricDataResponse (f : Flit)
  /-- FABRIC_ACKNOWLEDGEMENT (R418). -/
  | fabricAcknowledgement (f : Flit)
  /-- FABRIC_REFUSAL (R419). -/
  | fabricRefusal (f : Flit)
  /-- FABRIC_BARRIER_ARRIVAL (R354). -/
  | fabricBarrierArrival (f : Flit)
  /-- FABRIC_BARRIER_RELEASE (R354). -/
  | fabricBarrierRelease (f : Flit)
  /-- FABRIC_COLLECTIVE_DATA (R421). -/
  | fabricCollectiveData (f : Flit)
  /-- FABRIC_COLLECTIVE_ABORT (R421). -/
  | fabricCollectiveAbort (f : Flit)
  /-- FABRIC_RESERVED_FLIT (R418). -/
  | fabricReservedFlit (f : Flit)
  /-- FABRIC_PORT_DOWN (R419): port `p`. -/
  | fabricPortDown (p : Nat)
  /-- FABRIC_ROUTE_SWITCH (R417): the channel of `core` to `pkg`. -/
  | fabricRouteSwitch (core pkg : Nat)
  /-- VF_FLR (R424): function `v`. -/
  | vfFlr (v : Nat)
  /-- SPDM_GET_MEASUREMENTS (R440): block `index`, 0xFF for all. -/
  | spdmGetMeasurements (index : Nat) (nonce : List (BitVec 8))
  /-- SPDM_KEY_EXCHANGE (R440): the requester's share. -/
  | spdmKeyExchange (share : List (BitVec 8))
  /-- CXL_TABLE_ACCESS (R408): table entry `i`. -/
  | cxlTableAccess (i : Nat)
  /-- INV_ALL (R325): MTCMD of die `d`. -/
  | invAll (d : Nat)
  /-- INV_ASID (R325): MTCMD of die `d`. -/
  | invAsid (d : Nat)
  /-- INV_RANGE (R325): MTCMD of die `d`. -/
  | invRange (d : Nat)
  /-- SET_ATTR (R327): MTCMD of die `d`. -/
  | setAttr (d : Nat)
  /-- SET_FMT (R327): MTCMD of die `d`. -/
  | setFmt (d : Nat)
  /-- SET_REGION (R327): MTCMD of die `d`. -/
  | setRegion (d : Nat)
  /-- MTCMD_BAD_OP (R325): MTCMD of die `d`. -/
  | mtcmdBadOp (d op : Nat)
  /-- BT_EVICT (R357): BTCMD of die `d`. -/
  | btEvict (d : Nat)
  /-- BT_RESTORE (R357): BTCMD of die `d`. -/
  | btRestore (d : Nat)
  /-- BTCMD_BAD_OP (R357): BTCMD of die `d`. -/
  | btcmdBadOp (d op : Nat)
  /-- UNPARK (R369): FQCMD of die `d`. -/
  | unpark (d : Nat)
  /-- SKIP (R369): FQCMD of die `d`. -/
  | skip (d : Nat)
  /-- KILL (R369): FQCMD of die `d`. -/
  | kill (d : Nat)
  /-- FQCMD_TRAP (R369): FQCMD of die `d`. -/
  | fqcmdTrap (d : Nat)
  /-- HALT (R378): DBGCMD of die `d`. -/
  | halt (d : Nat)
  /-- RESUME (R378): DBGCMD of die `d`. -/
  | resume (d : Nat)
  /-- STEP (R378): DBGCMD of die `d`. -/
  | step (d : Nat)
  /-- DBG_READ (R378): DBGCMD of die `d`. -/
  | dbgRead (d : Nat)
  /-- DBG_WRITE (R378): DBGCMD of die `d`. -/
  | dbgWrite (d : Nat)
  /-- DBGCMD_BAD_OP (R378): DBGCMD of die `d`. -/
  | dbgcmdBadOp (d op : Nat)
  /-- LOAD_FW (R436): the value written to MBCMD. -/
  | loadFw (val : BitVec 64)
  /-- LC_TRANSITION (R438): the value written to MBCMD. -/
  | lcTransition (val : BitVec 64)
  /-- MBCMD_BAD_OP (R438): the value written to MBCMD. -/
  | mbcmdBadOp (val : BitVec 64)
  /-- VFRST_WRITE (R424): function `v`. -/
  | vfrstWrite (v : Nat) (val : BitVec 64)
  /-- NEGO_WRITE (R423): function `v`. -/
  | negoWrite (v : Nat) (val : BitVec 64)
  /-- DEVRST_WRITE (R434). -/
  | devrstWrite (val : BitVec 64)
  /-- HQCTL_WRITE (R337): queue `q` of function `v`. -/
  | hqctlWrite (v q : Nat) (val : BitVec 64)
  /-- VFCTL_WRITE (R422): function `v`. -/
  | vfctlWrite (v : Nat) (val : BitVec 64)
  /-- FQTAIL_WRITE (R370): die `d`. -/
  | fqtailWrite (d : Nat) (val : BitVec 64)
  /-- MGSTAT_WRITE (R432): die `d`, 4 for the hub. -/
  | mgstatWrite (d : Nat) (val : BitVec 64)
  /-- FABRT_WRITE (R417): the route to package `p`. -/
  | fabrtWrite (p : Nat) (val : BitVec 64)
  /-- NMWDT_WRITE (R404): local stack `s` of die `d`. -/
  | nmwdtWrite (d s : Nat) (val : BitVec 64)
  /-- PWRLIM_WRITE (R441). -/
  | pwrlimWrite (val : BitVec 64)
  /-- REGISTER_WRITE (R3): the register at offset `off` of PF0's BAR0. -/
  | registerWrite (off : Nat) (val : BitVec 64)
  /-- THERMAL_TRIP (R427): the trip input. -/
  | thermalTrip
  /-- HOST_LINK_DOWN (R409). -/
  | hostLinkDown
  /-- POWER_GOOD (R434). -/
  | powerGood
  /-- POWER_LOSS (R433). -/
  | powerLoss
  /-- CXL_RESET (R434). -/
  | cxlReset
  /-- PF0_FLR (R434). -/
  | pf0Flr
  /-- SPDM_GET_VERSION (R440). -/
  | spdmGetVersion
  /-- SPDM_GET_CAPABILITIES (R440). -/
  | spdmGetCapabilities
  /-- BIAS_TO_HOST (R415). -/
  | biasToHost
  /-- BIAS_TO_DEVICE (R415). -/
  | biasToDevice
  /-- BIAS_FLIP_COMPLETE (R415). -/
  | biasFlipComplete
  /-- HOST_LINK_UP (R409). -/
  | hostLinkUp
  deriving DecidableEq, Repr

end Sys2Proof
end

