-- ==== Sys2Proof/Machine/Encoding.lean ====
section
/-! DEFINITION. The encoding of every instruction with words: its primary opcode number and its layout
(06 Tables 6-1 to 6-3), the modifier slots it has, and the field conditions of 05 Table 5-11. -/

namespace Sys2Proof

/-- The fields of an instruction's own word, by layout. -/
inductive Fields where
  | alu (f : Alu)
  | aluI (f : AluI)
  | mem (f : Mem)
  | cCond (f : CCond)
  | cFar (f : CFar)
  | cReg (f : CReg)
  | c0 (f : C0)
  | sReg (f : SReg)
  | sMem (f : SMem)
  | sImm (f : SImm)
  | uLoop (f : ULoop)
  | mx (f : Mx)
  | th (f : Th)
  | sy (f : Sy)
  | sys (f : Sys)
  deriving DecidableEq, Repr

/-- An instruction as its words hold it: P = w<31:23> (06 R108), its modifier word and its fields. -/
structure Enc where
  p : Nat
  m : Option ModW
  f : Fields
  deriving DecidableEq, Repr

/-- The encoding of an instruction; none for a step of the device, which has no words. -/
def Instr.enc : Instr → Option Enc
  | .add m f => some ⟨0x000, m, .alu f⟩
  | .sub m f => some ⟨0x001, m, .alu f⟩
  | .mul m f => some ⟨0x002, m, .alu f⟩
  | .mulh m f => some ⟨0x003, m, .alu f⟩
  | .mad m f => some ⟨0x004, m, .alu f⟩
  | .div m f => some ⟨0x005, m, .alu f⟩
  | .rem m f => some ⟨0x006, m, .alu f⟩
  | .abs m f => some ⟨0x007, m, .alu f⟩
  | .min m f => some ⟨0x008, m, .alu f⟩
  | .max m f => some ⟨0x009, m, .alu f⟩
  | .cmp m f => some ⟨0x00A, m, .alu f⟩
  | .sel m f => some ⟨0x00B, m, .alu f⟩
  | .mov m f => some ⟨0x00C, m, .alu f⟩
  | .cvtI m f => some ⟨0x00D, m, .alu f⟩
  | .and m f => some ⟨0x020, m, .alu f⟩
  | .or m f => some ⟨0x021, m, .alu f⟩
  | .xor m f => some ⟨0x022, m, .alu f⟩
  | .andn m f => some ⟨0x023, m, .alu f⟩
  | .shl m f => some ⟨0x024, m, .alu f⟩
  | .shr m f => some ⟨0x025, m, .alu f⟩
  | .sha m f => some ⟨0x026, m, .alu f⟩
  | .rot m f => some ⟨0x027, m, .alu f⟩
  | .clz m f => some ⟨0x028, m, .alu f⟩
  | .popc m f => some ⟨0x029, m, .alu f⟩
  | .brev m f => some ⟨0x02A, m, .alu f⟩
  | .bfx m f => some ⟨0x02B, m, .alu f⟩
  | .bfi m f => some ⟨0x02C, m, .alu f⟩
  | .fadd m f => some ⟨0x040, m, .alu f⟩
  | .fsub m f => some ⟨0x041, m, .alu f⟩
  | .fmul m f => some ⟨0x042, m, .alu f⟩
  | .fma m f => some ⟨0x043, m, .alu f⟩
  | .fdiv m f => some ⟨0x044, m, .alu f⟩
  | .fmin m f => some ⟨0x045, m, .alu f⟩
  | .fmax m f => some ⟨0x046, m, .alu f⟩
  | .fminn m f => some ⟨0x047, m, .alu f⟩
  | .fmaxn m f => some ⟨0x048, m, .alu f⟩
  | .fabs m f => some ⟨0x049, m, .alu f⟩
  | .fneg m f => some ⟨0x04A, m, .alu f⟩
  | .fcmp m f => some ⟨0x04B, m, .alu f⟩
  | .frcp m f => some ⟨0x04C, m, .alu f⟩
  | .frsq m f => some ⟨0x04D, m, .alu f⟩
  | .fsqrt m f => some ⟨0x04E, m, .alu f⟩
  | .fexp2 m f => some ⟨0x04F, m, .alu f⟩
  | .flog2 m f => some ⟨0x050, m, .alu f⟩
  | .fsin m f => some ⟨0x051, m, .alu f⟩
  | .fcos m f => some ⟨0x052, m, .alu f⟩
  | .frnd m f => some ⟨0x053, m, .alu f⟩
  | .fclass m f => some ⟨0x054, m, .alu f⟩
  | .cvt m f => some ⟨0x060, m, .alu f⟩
  | .cvtMx m f => some ⟨0x061, m, .alu f⟩
  | .cvtLg6 m f => some ⟨0x062, m, .alu f⟩
  | .mxsc m f => some ⟨0x063, m, .alu f⟩
  | .pk m f => some ⟨0x064, m, .alu f⟩
  | .upk m f => some ⟨0x065, m, .alu f⟩
  | .ld m f => some ⟨0x080, m, .mem f⟩
  | .st m f => some ⟨0x081, m, .mem f⟩
  | .ldsp m f => some ⟨0x082, m, .mem f⟩
  | .stsp m f => some ⟨0x083, m, .mem f⟩
  | .ldraw m f => some ⟨0x084, m, .mem f⟩
  | .pref m f => some ⟨0x085, m, .mem f⟩
  | .fence m f => some ⟨0x086, m, .c0 f⟩
  | .atomAdd m f => some ⟨0x088, m, .alu f⟩
  | .atomMin m f => some ⟨0x089, m, .alu f⟩
  | .atomMax m f => some ⟨0x08A, m, .alu f⟩
  | .atomAnd m f => some ⟨0x08B, m, .alu f⟩
  | .atomOr m f => some ⟨0x08C, m, .alu f⟩
  | .atomXor m f => some ⟨0x08D, m, .alu f⟩
  | .atomXchg m f => some ⟨0x08E, m, .alu f⟩
  | .atomCas m f => some ⟨0x08F, m, .alu f⟩
  | .atomFadd m f => some ⟨0x090, m, .alu f⟩
  | .atomFmax m f => some ⟨0x091, m, .alu f⟩
  | .amaxi m f => some ⟨0x092, m, .alu f⟩
  | .redAdd m f => some ⟨0x093, m, .alu f⟩
  | .redMax m f => some ⟨0x094, m, .alu f⟩
  | .redEsum m f => some ⟨0x095, m, .alu f⟩
  | .bp m f => some ⟨0x0A0, m, .cCond f⟩
  | .jmp m f => some ⟨0x0A1, m, .cFar f⟩
  | .jmpReg m f => some ⟨0x0A2, m, .cReg f⟩
  | .call m f => some ⟨0x0A3, m, .cFar f⟩
  | .callReg m f => some ⟨0x0A4, m, .cReg f⟩
  | .ret m f => some ⟨0x0A5, m, .cReg f⟩
  | .reform m f => some ⟨0x0A6, m, .c0 f⟩
  | .exit m f => some ⟨0x0A7, m, .c0 f⟩
  | .nop m f => some ⟨0x0A8, m, .c0 f⟩
  | .shfl m f => some ⟨0x0C0, m, .alu f⟩
  | .shfli m f => some ⟨0x0C1, m, .aluI f⟩
  | .vote m f => some ⟨0x0C2, m, .aluI f⟩
  | .redu m f => some ⟨0x0C3, m, .aluI f⟩
  | .redmaxi m f => some ⟨0x0C4, m, .alu f⟩
  | .scan m f => some ⟨0x0C5, m, .aluI f⟩
  | .cmpr m f => some ⟨0x0C6, m, .alu f⟩
  | .expd m f => some ⟨0x0C7, m, .alu f⟩
  | .slup m f => some ⟨0x0C8, m, .alu f⟩
  | .sldn m f => some ⟨0x0C9, m, .alu f⟩
  | .bcast m f => some ⟨0x0CA, m, .aluI f⟩
  | .wfind m f => some ⟨0x0CB, m, .alu f⟩
  | .harrow m f => some ⟨0x0CC, m, .alu f⟩
  | .stkAdd m f => some ⟨0x0E0, m, .alu f⟩
  | .stkSub m f => some ⟨0x0E1, m, .alu f⟩
  | .stkMul m f => some ⟨0x0E2, m, .alu f⟩
  | .stkDiv m f => some ⟨0x0E3, m, .alu f⟩
  | .stkNeg m f => some ⟨0x0E4, m, .alu f⟩
  | .stkRcp m f => some ⟨0x0E5, m, .alu f⟩
  | .stkSq m f => some ⟨0x0E6, m, .alu f⟩
  | .stkUni m f => some ⟨0x0E7, m, .alu f⟩
  | .stkIsect m f => some ⟨0x0E8, m, .alu f⟩
  | .stkHull m f => some ⟨0x0E9, m, .alu f⟩
  | .stkFrom m f => some ⟨0x0EA, m, .alu f⟩
  | .stkTo m f => some ⟨0x0EB, m, .alu f⟩
  | .stkLdring m f => some ⟨0x0EC, m, .mem f⟩
  | .sadd m f => some ⟨0x100, m, .sReg f⟩
  | .ssub m f => some ⟨0x101, m, .sReg f⟩
  | .smul m f => some ⟨0x102, m, .sReg f⟩
  | .sand m f => some ⟨0x103, m, .sReg f⟩
  | .sor m f => some ⟨0x104, m, .sReg f⟩
  | .sxor m f => some ⟨0x105, m, .sReg f⟩
  | .sshl m f => some ⟨0x106, m, .sReg f⟩
  | .sshr m f => some ⟨0x107, m, .sReg f⟩
  | .ssha m f => some ⟨0x108, m, .sReg f⟩
  | .smin m f => some ⟨0x109, m, .sReg f⟩
  | .smax m f => some ⟨0x10A, m, .sReg f⟩
  | .smov m f => some ⟨0x10B, m, .sReg f⟩
  | .scmp m f => some ⟨0x10C, m, .sReg f⟩
  | .ssel m f => some ⟨0x10D, m, .sReg f⟩
  | .sld m f => some ⟨0x10E, m, .sMem f⟩
  | .sst m f => some ⟨0x10F, m, .sMem f⟩
  | .sli m f => some ⟨0x120, m, .sImm f⟩
  | .sliH1 m f => some ⟨0x121, m, .sImm f⟩
  | .sliH2 m f => some ⟨0x122, m, .sImm f⟩
  | .sliH3 m f => some ⟨0x123, m, .sImm f⟩
  | .saddImm m f => some ⟨0x124, m, .sImm f⟩
  | .ubr m f => some ⟨0x140, m, .cCond f⟩
  | .ubrFar m f => some ⟨0x141, m, .cFar f⟩
  | .ucall m f => some ⟨0x142, m, .cFar f⟩
  | .uret m f => some ⟨0x143, m, .sReg f⟩
  | .uloop m f => some ⟨0x144, m, .uLoop f⟩
  | .gang m f => some ⟨0x160, m, .mx f⟩
  | .station m f => some ⟨0x161, m, .mx f⟩
  | .unstation m f => some ⟨0x162, m, .mx f⟩
  | .mma m f => some ⟨0x163, m, .mx f⟩
  | .mmat m f => some ⟨0x164, m, .mx f⟩
  | .mdual m f => some ⟨0x165, m, .mx f⟩
  | .azero m f => some ⟨0x166, m, .mx f⟩
  | .ald m f => some ⟨0x167, m, .mx f⟩
  | .ast m f => some ⟨0x168, m, .mx f⟩
  | .ascl m f => some ⟨0x169, m, .mx f⟩
  | .aread m f => some ⟨0x16A, m, .mx f⟩
  | .mwait m f => some ⟨0x16B, m, .mx f⟩
  | .tfill m f => some ⟨0x180, m, .th f⟩
  | .taff m f => some ⟨0x181, m, .th f⟩
  | .tclamp m f => some ⟨0x182, m, .th f⟩
  | .tperm m f => some ⟨0x183, m, .th f⟩
  | .tmat m f => some ⟨0x184, m, .th f⟩
  | .tread m f => some ⟨0x185, m, .th f⟩
  | .stream m f => some ⟨0x186, m, .th f⟩
  | .bar m f => some ⟨0x1A0, m, .sy f⟩
  | .barw m f => some ⟨0x1A1, m, .sy f⟩
  | .yield m f => some ⟨0x1A2, m, .sy f⟩
  | .wlpush m f => some ⟨0x1A3, m, .sy f⟩
  | .wlpop m f => some ⟨0x1A4, m, .sy f⟩
  | .wlquiet m f => some ⟨0x1A5, m, .sy f⟩
  | .waitwp m f => some ⟨0x1A6, m, .sy f⟩
  | .waitseq m f => some ⟨0x1A7, m, .sy f⟩
  | .aflush m f => some ⟨0x1A8, m, .sy f⟩
  | .chapp m f => some ⟨0x1C0, m, .sy f⟩
  | .launch m f => some ⟨0x1C1, m, .sy f⟩
  | .nlaunch m f => some ⟨0x1C2, m, .sy f⟩
  | .coll m f => some ⟨0x1C3, m, .sy f⟩
  | .topk m f => some ⟨0x1C4, m, .sy f⟩
  | .gath m f => some ⟨0x1C5, m, .sy f⟩
  | .trap m f => some ⟨0x1E0, m, .sys f⟩
  | .tret m f => some ⟨0x1E1, m, .sys f⟩
  | .csrr m f => some ⟨0x1E2, m, .sys f⟩
  | .csrw m f => some ⟨0x1E3, m, .sys f⟩
  | .brk m f => some ⟨0x1E4, m, .sys f⟩
  | .getclk m f => some ⟨0x1E5, m, .sys f⟩
  | .instructionFetch _ _ => none
  | .storeSend _ _ => none
  | .writeSequence _ _ => none
  | .writeApply _ _ => none
  | .loadPerform _ _ => none
  | .forwardDelivery _ _ _ => none
  | .atomicHomeStep _ _ => none
  | .qntBatch _ => none
  | .fenceComplete _ => none
  | .packageDrain _ => none
  | .packageChannelDelivery _ _ _ => none
  | .backingCopy _ => none
  | .deadLoadRestore _ => none
  | .detFlushDrain _ _ _ => none
  | .kernelEndDrain _ => none
  | .dieClockTick _ => none
  | .rendezvousExecute _ => none
  | .xlaneSplit _ => none
  | .gangLatchMeet _ _ => none
  | .stationLoadComplete _ _ => none
  | .productComplete _ _ => none
  | .mwaitComplete _ => none
  | .barrierRelease _ => none
  | .barSplit _ _ _ => none
  | .waitseqComplete _ _ => none
  | .waitseqTimeout _ => none
  | .waitwpComplete _ => none
  | .wlquietWake _ => none
  | .quiescence _ => none
  | .tileRangeComplete _ => none
  | .ringContextBind _ => none
  | .engineEntryStart _ => none
  | .engineLineRelease _ => none
  | .engineEntryComplete _ => none
  | .engineFault _ => none
  | .collectiveMatch _ => none
  | .streamStart _ => none
  | .streamComplete _ => none
  | .streamFault _ => none
  | .hostQueueSlotTake _ _ => none
  | .tailLineInvalidate _ _ _ => none
  | .launchEligible _ => none
  | .launchAdmission _ _ => none
  | .teamPlacement _ _ _ => none
  | .nmBlockPlacement _ _ _ => none
  | .priorityAging _ => none
  | .timeSliceExpiry _ => none
  | .blockedTimeout _ => none
  | .loftSwap _ => none
  | .gleanerSave _ _ => none
  | .gleanerFill _ _ _ => none
  | .bankSpillFill _ => none
  | .sheafDraw _ => none
  | .detSwitchPoint _ _ => none
  | .launchComplete _ => none
  | .faultRecordWrite _ => none
  | .errorRecordWrite _ => none
  | .correctedError _ _ _ _ => none
  | .uncorrectedError _ _ _ _ => none
  | .fatalError _ _ _ _ => none
  | .thermalTrip => none
  | .patrolScrub _ _ => none
  | .sequencerWatchdog _ => none
  | .siloEviction _ => none
  | .leaseRenewal _ _ _ _ => none
  | .generationSweep _ _ => none
  | .retentionSleep _ _ => none
  | .retentionWake _ _ => none
  | .sectorMigration _ _ _ => none
  | .orientationFlip _ _ => none
  | .pageWalk _ _ _ _ => none
  | .migrationEpoch _ => none
  | .pageMigration _ _ _ _ => none
  | .powerThrottle _ _ => none
  | .hostReadShared _ _ => none
  | .hostReadOwn _ _ => none
  | .hostWrite _ _ _ => none
  | .bisnpResponse _ _ => none
  | .hostGlobalObservation _ _ => none
  | .hostDecodeError _ => none
  | .hostLinkDown => none
  | .fabricRead _ => none
  | .fabricWrite _ => none
  | .fabricAtomic _ => none
  | .fabricRed _ => none
  | .fabricDataResponse _ => none
  | .fabricAcknowledgement _ => none
  | .fabricRefusal _ => none
  | .fabricBarrierArrival _ => none
  | .fabricBarrierRelease _ => none
  | .fabricCollectiveData _ => none
  | .fabricCollectiveAbort _ => none
  | .fabricReservedFlit _ => none
  | .fabricPortDown _ => none
  | .fabricRouteSwitch _ _ => none
  | .powerGood => none
  | .powerLoss => none
  | .cxlReset => none
  | .pf0Flr => none
  | .vfFlr _ => none
  | .spdmGetVersion => none
  | .spdmGetCapabilities => none
  | .spdmGetMeasurements _ _ => none
  | .spdmKeyExchange _ => none
  | .cxlTableAccess _ => none
  | .invAll _ => none
  | .invAsid _ => none
  | .invRange _ => none
  | .setAttr _ => none
  | .setFmt _ => none
  | .setRegion _ => none
  | .mtcmdBadOp _ _ => none
  | .mtcmdComplete _ => none
  | .btEvict _ => none
  | .btRestore _ => none
  | .btcmdBadOp _ _ => none
  | .unpark _ => none
  | .skip _ => none
  | .kill _ => none
  | .fqcmdTrap _ => none
  | .halt _ => none
  | .resume _ => none
  | .step _ => none
  | .dbgRead _ => none
  | .dbgWrite _ => none
  | .dbgcmdBadOp _ _ => none
  | .biasToHost => none
  | .biasToDevice => none
  | .biasFlipComplete => none
  | .loadFw _ => none
  | .lcTransition _ => none
  | .mbcmdBadOp _ => none
  | .vfrstWrite _ _ => none
  | .negoWrite _ _ => none
  | .devrstWrite _ => none
  | .hqctlWrite _ _ _ => none
  | .vfctlWrite _ _ => none
  | .fqtailWrite _ _ => none
  | .mgstatWrite _ _ => none
  | .fabrtWrite _ _ => none
  | .nmwdtWrite _ _ _ => none
  | .pwrlimWrite _ => none
  | .registerWrite _ _ => none
  | .hostLinkUp => none

/-- The instruction with primary opcode number `p` (06 Tables 6-1, 6-2): none where the slot is unassigned
(R111), or where the fields are not of its layout. -/
def Instr.ofEnc (p : Nat) (m : Option ModW) (f : Fields) : Option Instr :=
  match p, f with
  | 0x000, .alu f => some (.add m f)
  | 0x001, .alu f => some (.sub m f)
  | 0x002, .alu f => some (.mul m f)
  | 0x003, .alu f => some (.mulh m f)
  | 0x004, .alu f => some (.mad m f)
  | 0x005, .alu f => some (.div m f)
  | 0x006, .alu f => some (.rem m f)
  | 0x007, .alu f => some (.abs m f)
  | 0x008, .alu f => some (.min m f)
  | 0x009, .alu f => some (.max m f)
  | 0x00A, .alu f => some (.cmp m f)
  | 0x00B, .alu f => some (.sel m f)
  | 0x00C, .alu f => some (.mov m f)
  | 0x00D, .alu f => some (.cvtI m f)
  | 0x020, .alu f => some (.and m f)
  | 0x021, .alu f => some (.or m f)
  | 0x022, .alu f => some (.xor m f)
  | 0x023, .alu f => some (.andn m f)
  | 0x024, .alu f => some (.shl m f)
  | 0x025, .alu f => some (.shr m f)
  | 0x026, .alu f => some (.sha m f)
  | 0x027, .alu f => some (.rot m f)
  | 0x028, .alu f => some (.clz m f)
  | 0x029, .alu f => some (.popc m f)
  | 0x02A, .alu f => some (.brev m f)
  | 0x02B, .alu f => some (.bfx m f)
  | 0x02C, .alu f => some (.bfi m f)
  | 0x040, .alu f => some (.fadd m f)
  | 0x041, .alu f => some (.fsub m f)
  | 0x042, .alu f => some (.fmul m f)
  | 0x043, .alu f => some (.fma m f)
  | 0x044, .alu f => some (.fdiv m f)
  | 0x045, .alu f => some (.fmin m f)
  | 0x046, .alu f => some (.fmax m f)
  | 0x047, .alu f => some (.fminn m f)
  | 0x048, .alu f => some (.fmaxn m f)
  | 0x049, .alu f => some (.fabs m f)
  | 0x04A, .alu f => some (.fneg m f)
  | 0x04B, .alu f => some (.fcmp m f)
  | 0x04C, .alu f => some (.frcp m f)
  | 0x04D, .alu f => some (.frsq m f)
  | 0x04E, .alu f => some (.fsqrt m f)
  | 0x04F, .alu f => some (.fexp2 m f)
  | 0x050, .alu f => some (.flog2 m f)
  | 0x051, .alu f => some (.fsin m f)
  | 0x052, .alu f => some (.fcos m f)
  | 0x053, .alu f => some (.frnd m f)
  | 0x054, .alu f => some (.fclass m f)
  | 0x060, .alu f => some (.cvt m f)
  | 0x061, .alu f => some (.cvtMx m f)
  | 0x062, .alu f => some (.cvtLg6 m f)
  | 0x063, .alu f => some (.mxsc m f)
  | 0x064, .alu f => some (.pk m f)
  | 0x065, .alu f => some (.upk m f)
  | 0x080, .mem f => some (.ld m f)
  | 0x081, .mem f => some (.st m f)
  | 0x082, .mem f => some (.ldsp m f)
  | 0x083, .mem f => some (.stsp m f)
  | 0x084, .mem f => some (.ldraw m f)
  | 0x085, .mem f => some (.pref m f)
  | 0x086, .c0 f => some (.fence m f)
  | 0x088, .alu f => some (.atomAdd m f)
  | 0x089, .alu f => some (.atomMin m f)
  | 0x08A, .alu f => some (.atomMax m f)
  | 0x08B, .alu f => some (.atomAnd m f)
  | 0x08C, .alu f => some (.atomOr m f)
  | 0x08D, .alu f => some (.atomXor m f)
  | 0x08E, .alu f => some (.atomXchg m f)
  | 0x08F, .alu f => some (.atomCas m f)
  | 0x090, .alu f => some (.atomFadd m f)
  | 0x091, .alu f => some (.atomFmax m f)
  | 0x092, .alu f => some (.amaxi m f)
  | 0x093, .alu f => some (.redAdd m f)
  | 0x094, .alu f => some (.redMax m f)
  | 0x095, .alu f => some (.redEsum m f)
  | 0x0A0, .cCond f => some (.bp m f)
  | 0x0A1, .cFar f => some (.jmp m f)
  | 0x0A2, .cReg f => some (.jmpReg m f)
  | 0x0A3, .cFar f => some (.call m f)
  | 0x0A4, .cReg f => some (.callReg m f)
  | 0x0A5, .cReg f => some (.ret m f)
  | 0x0A6, .c0 f => some (.reform m f)
  | 0x0A7, .c0 f => some (.exit m f)
  | 0x0A8, .c0 f => some (.nop m f)
  | 0x0C0, .alu f => some (.shfl m f)
  | 0x0C1, .aluI f => some (.shfli m f)
  | 0x0C2, .aluI f => some (.vote m f)
  | 0x0C3, .aluI f => some (.redu m f)
  | 0x0C4, .alu f => some (.redmaxi m f)
  | 0x0C5, .aluI f => some (.scan m f)
  | 0x0C6, .alu f => some (.cmpr m f)
  | 0x0C7, .alu f => some (.expd m f)
  | 0x0C8, .alu f => some (.slup m f)
  | 0x0C9, .alu f => some (.sldn m f)
  | 0x0CA, .aluI f => some (.bcast m f)
  | 0x0CB, .alu f => some (.wfind m f)
  | 0x0CC, .alu f => some (.harrow m f)
  | 0x0E0, .alu f => some (.stkAdd m f)
  | 0x0E1, .alu f => some (.stkSub m f)
  | 0x0E2, .alu f => some (.stkMul m f)
  | 0x0E3, .alu f => some (.stkDiv m f)
  | 0x0E4, .alu f => some (.stkNeg m f)
  | 0x0E5, .alu f => some (.stkRcp m f)
  | 0x0E6, .alu f => some (.stkSq m f)
  | 0x0E7, .alu f => some (.stkUni m f)
  | 0x0E8, .alu f => some (.stkIsect m f)
  | 0x0E9, .alu f => some (.stkHull m f)
  | 0x0EA, .alu f => some (.stkFrom m f)
  | 0x0EB, .alu f => some (.stkTo m f)
  | 0x0EC, .mem f => some (.stkLdring m f)
  | 0x100, .sReg f => some (.sadd m f)
  | 0x101, .sReg f => some (.ssub m f)
  | 0x102, .sReg f => some (.smul m f)
  | 0x103, .sReg f => some (.sand m f)
  | 0x104, .sReg f => some (.sor m f)
  | 0x105, .sReg f => some (.sxor m f)
  | 0x106, .sReg f => some (.sshl m f)
  | 0x107, .sReg f => some (.sshr m f)
  | 0x108, .sReg f => some (.ssha m f)
  | 0x109, .sReg f => some (.smin m f)
  | 0x10A, .sReg f => some (.smax m f)
  | 0x10B, .sReg f => some (.smov m f)
  | 0x10C, .sReg f => some (.scmp m f)
  | 0x10D, .sReg f => some (.ssel m f)
  | 0x10E, .sMem f => some (.sld m f)
  | 0x10F, .sMem f => some (.sst m f)
  | 0x120, .sImm f => some (.sli m f)
  | 0x121, .sImm f => some (.sliH1 m f)
  | 0x122, .sImm f => some (.sliH2 m f)
  | 0x123, .sImm f => some (.sliH3 m f)
  | 0x124, .sImm f => some (.saddImm m f)
  | 0x140, .cCond f => some (.ubr m f)
  | 0x141, .cFar f => some (.ubrFar m f)
  | 0x142, .cFar f => some (.ucall m f)
  | 0x143, .sReg f => some (.uret m f)
  | 0x144, .uLoop f => some (.uloop m f)
  | 0x160, .mx f => some (.gang m f)
  | 0x161, .mx f => some (.station m f)
  | 0x162, .mx f => some (.unstation m f)
  | 0x163, .mx f => some (.mma m f)
  | 0x164, .mx f => some (.mmat m f)
  | 0x165, .mx f => some (.mdual m f)
  | 0x166, .mx f => some (.azero m f)
  | 0x167, .mx f => some (.ald m f)
  | 0x168, .mx f => some (.ast m f)
  | 0x169, .mx f => some (.ascl m f)
  | 0x16A, .mx f => some (.aread m f)
  | 0x16B, .mx f => some (.mwait m f)
  | 0x180, .th f => some (.tfill m f)
  | 0x181, .th f => some (.taff m f)
  | 0x182, .th f => some (.tclamp m f)
  | 0x183, .th f => some (.tperm m f)
  | 0x184, .th f => some (.tmat m f)
  | 0x185, .th f => some (.tread m f)
  | 0x186, .th f => some (.stream m f)
  | 0x1A0, .sy f => some (.bar m f)
  | 0x1A1, .sy f => some (.barw m f)
  | 0x1A2, .sy f => some (.yield m f)
  | 0x1A3, .sy f => some (.wlpush m f)
  | 0x1A4, .sy f => some (.wlpop m f)
  | 0x1A5, .sy f => some (.wlquiet m f)
  | 0x1A6, .sy f => some (.waitwp m f)
  | 0x1A7, .sy f => some (.waitseq m f)
  | 0x1A8, .sy f => some (.aflush m f)
  | 0x1C0, .sy f => some (.chapp m f)
  | 0x1C1, .sy f => some (.launch m f)
  | 0x1C2, .sy f => some (.nlaunch m f)
  | 0x1C3, .sy f => some (.coll m f)
  | 0x1C4, .sy f => some (.topk m f)
  | 0x1C5, .sy f => some (.gath m f)
  | 0x1E0, .sys f => some (.trap m f)
  | 0x1E1, .sys f => some (.tret m f)
  | 0x1E2, .sys f => some (.csrr m f)
  | 0x1E3, .sys f => some (.csrw m f)
  | 0x1E4, .sys f => some (.brk m f)
  | 0x1E5, .sys f => some (.getclk m f)
  | _, _ => none

/-- Whether a slot of the opcode map is assigned (06 R108 to R111). -/
def assigned (p : Nat) : Bool :=
  p < 0x00E || (0x020 ≤ p && p < 0x02D) || (0x040 ≤ p && p < 0x055) || (0x060 ≤ p && p < 0x066) ||
  (0x080 ≤ p && p < 0x087) || (0x088 ≤ p && p < 0x096) || (0x0A0 ≤ p && p < 0x0A9) || (0x0C0 ≤ p && p < 0x0CD) ||
  (0x0E0 ≤ p && p < 0x0ED) || (0x100 ≤ p && p < 0x110) || (0x120 ≤ p && p < 0x125) || (0x140 ≤ p && p < 0x145) ||
  (0x160 ≤ p && p < 0x16C) || (0x180 ≤ p && p < 0x187) || (0x1A0 ≤ p && p < 0x1A9) || (0x1C0 ≤ p && p < 0x1C6) ||
  (0x1E0 ≤ p && p < 0x1E6)
/-- The modifier slots of an instruction (06 R112): type, source type, rounding, order with scope, the FL
bits it names, and X. -/
structure Slots where
  t : Bool := false
  s : Bool := false
  r : Bool := false
  o : Bool := false
  fl : BitVec 2 := 0
  x : Bool := false
  deriving DecidableEq, Repr

/-- Table 6-3. -/
def slots (p : Nat) : Slots :=
  if p = 0x00D then { t := true, s := true }
  else if p < 0x00E || (0x020 ≤ p && p < 0x02D) then { t := true }
  else if (0x040 ≤ p && p ≤ 0x044) || (0x04C ≤ p && p ≤ 0x053) then { t := true, r := true }
  else if 0x045 ≤ p && p ≤ 0x054 then { t := true }
  else if p = 0x060 || p = 0x062 || p = 0x064 then { t := true, s := true, r := true }
  else if p = 0x061 then { t := true, s := true, r := true, fl := 1 }
  else if p = 0x063 then { s := true, fl := 1 }
  else if p = 0x065 then { t := true, s := true }
  else if p = 0x080 then { t := true, o := true, fl := 1, x := true }
  else if p = 0x081 || p = 0x084 then { t := true, o := true, x := true }
  else if p = 0x082 || p = 0x083 then { t := true, o := true }
  else if p = 0x085 then { x := true }
  else if p = 0x086 then { o := true }
  else if p = 0x092 then { o := true, x := true }
  else if 0x088 ≤ p && p ≤ 0x095 then { t := true, o := true, x := true }
  else if p = 0x0C3 then { t := true, r := true }
  else if p = 0x0C5 then { t := true, r := true, fl := 1 }
  else if p = 0x0C4 then { t := true }
  else if 0x0E0 ≤ p && p ≤ 0x0EC then { t := true }
  else if 0x100 ≤ p && p ≤ 0x10B then { t := true }
  else if p = 0x10C || p = 0x10D then { t := true }
  else if p = 0x10E || p = 0x10F then { t := true, o := true }
  else if 0x163 ≤ p && p ≤ 0x165 then { fl := 1 }
  else if (0x180 ≤ p && p ≤ 0x182) || p = 0x186 then { r := true }
  else {}

/-- Whether a modifier word holds only legal codes for slots that the suffix has (05 R93, 06 R112,
Table 5-11). Layout 1 is for suffixes that take an X. -/
def modOk (p : Nat) (m : ModW) : Bool :=
  let sl := slots p
  let fmtOk (c : BitVec 5) (has : Bool) : Bool := c = 31 || (has && c.toNat ≤ 21)
  fmtOk m.ty sl.t && fmtOk m.st sl.s && (m.rnd = 0 || (sl.r && m.rnd ≠ 7)) &&
  (m.ord = 0 || (sl.o && m.ord.toNat ≤ 10)) && (m.sco = 0 || sl.o) && (m.fl &&& ~~~ sl.fl) = 0 &&
  (!m.l1 || sl.x)

/-- Width in bits of a format code of Table 1-12, as a register holds it. -/
def codeWidth (c : Nat) : Nat :=
  if c = 0 || c = 13 || c = 17 then 64
  else if c = 1 || c = 12 || c = 16 || c = 20 then 32
  else if c = 2 || c = 3 || c = 11 || c = 15 || c = 19 || c = 21 then 16
  else if c = 6 || c = 7 || c = 18 then 6
  else if c = 8 then 4
  else 8

/-- The TY code, 31 without a modifier word. -/
def tyCode (m : Option ModW) : Nat := match m with | some w => w.ty.toNat | none => 31
/-- The ST code, 31 without a modifier word. -/
def stCode (m : Option ModW) : Nat := match m with | some w => w.st.toNat | none => 31

/-- The type of a lane integer instruction, `.i32` by default and for a type it does not take (08 R142). -/
def intTy (c : Nat) : Nat := if c = 12 || c = 13 || c = 16 || c = 17 then c else 12
/-- The type of a float arithmetic instruction, `.f32` by default (09 R165). -/
def fltTy (c : Nat) : Nat := if c ≤ 3 then c else 1
/-- The type of a `stk` instruction, `.sk16` by default (10 R194). -/
def stkTy (c : Nat) : Nat := if c = 20 || c = 21 then c else 19
/-- The type of a uniform scalar instruction, `.i64` by default (08 R153). -/
def uniTy (c : Nat) : Nat := if c = 12 || c = 13 || c = 16 || c = 17 then c else 13
/-- One of the eight integer types, else `d`. -/
def int8Ty (d c : Nat) : Nat := if 10 ≤ c && c ≤ 17 then c else d
/-- A code, or the default for an absent one. -/
def orDef (d c : Nat) : Nat := if c = 31 then d else c

/-- The pair of formats a conversion names, its defaults filled in (09 Table 9-6). -/
def cvtPair (dT dS : Nat) (m : Option ModW) : Nat × Nat := (orDef dT (tyCode m), orDef dS (stCode m))

/-- The formats `cvt.mx` runs with (09 R175). -/
def cvtMxPair (m : Option ModW) : Nat × Nat :=
  let (t, s) := cvtPair 4 1 m
  if ((4 ≤ t && t ≤ 8) || t = 10 || t = 18) && 1 ≤ s && s ≤ 3 then (t, s) else (4, 1)

/-- The source format `mxsc` runs with (09 R175). -/
def mxscSrc (m : Option ModW) : Nat := let s := orDef 1 (stCode m); if 1 ≤ s && s ≤ 3 then s else 1

/-- The operation's type of a `redu` or `scan` code (13). -/
def reduTy (code c : Nat) : Nat := if code ≤ 5 then intTy c else fltTy c

/-- Whether a 7-bit operand field and its last-use bit are legal in a position of `w` bits; `k` says whether
an inline constant may stand there (05 R96 to R98, Table 5-11). -/
def opOk (w : Nat) (k : Bool) (a : BitVec 7) (lu : Bool) : Bool :=
  (a.toNat < 64 || !lu) && (w ≠ 64 || 64 ≤ a.toNat || a.toNat % 2 = 0) && (k || a.toNat < 104)

/-- As `opOk` for a `stk` operand, which takes only the constants 104 and 105 (R98). -/
def opStk (a : BitVec 7) (lu : Bool) : Bool := opOk 32 true a lu && a.toNat < 106

/-- A predicate operand: 0 to 15, no last-use bit (R99). -/
def opPred (a : BitVec 7) (lu : Bool) : Bool := a.toNat < 16 && !lu

/-- A destination v register of `w` bits, or none with NW (R97, R16). -/
def dstOk (w : Nat) (vd : BitVec 6) (nw : Bool) : Bool :=
  if nw then vd = 0 else w ≠ 64 || vd.toNat % 2 = 0

/-- A destination that is also a source, which needs NW = 0 (R97). -/
def dstFma (w : Nat) (vd : BitVec 6) (nw : Bool) : Bool := !nw && (w ≠ 64 || vd.toNat % 2 = 0)

/-- The condition of a predicate destination (Table 5-7). -/
def condOf (vd : BitVec 6) : Nat := vd.toNat / 8

/-- A unary instruction's B (R97). -/
def noB (f : Alu) : Bool := f.b = 0 && !f.blu

/-- A global base: an even v pair, a latch, or s0 to s31 (R101). X only with a base s0 to s31. -/
def baseOk (m : Option ModW) (a : BitVec 7) (alu : Bool) : Bool :=
  opOk 64 false a alu &&
  match m with
  | some w => !w.l1 || (72 ≤ a.toNat && opOk 32 false w.x w.xlu)
  | none => true

/-- The field conditions of an ALU-layout instruction (Table 5-11 and the entries of 08 to 10, 12, 13).
Log 130 (DEDUCED, unsafe). -/
def aluOk (p : Nat) (m : Option ModW) (f : Alu) : Bool :=
  let a (w : Nat) := opOk w true f.a f.alu
  let b (w : Nat) := opOk w true f.b f.blu
  if p < 0x0E0 && 0x0C0 ≤ p then
    if p = 0x0C4 then a 32 && b 32 && dstOk 64 f.vd f.nw
    else if p = 0x0C8 || p = 0x0C9 then a 32 && b 64 && 72 ≤ f.b.toNat && dstOk 32 f.vd f.nw
    else if p = 0x0CC then a 32 && b 32 && (if f.nw then f.vd = 0 else f.vd.toNat % 4 = 0)
    else a 32 && b 32 && dstOk 32 f.vd f.nw
  else if 0x0E0 ≤ p then
    opStk f.a f.alu && dstOk (if p = 0x0EB then 64 else 32) f.vd f.nw &&
    (if p = 0x0E4 || p = 0x0E5 || p = 0x0E6 || p = 0x0E9 || p = 0x0EB then noB f else opStk f.b f.blu)
  else if 0x093 ≤ p then
    let w := if p = 0x095 then 64 else
      codeWidth (let c := tyCode m; if c ≤ 1 then c else int8Ty 12 c)
    baseOk m f.a f.alu && b w && f.vd = 0 && !f.nw
  else if 0x088 ≤ p then
    let t := if p = 0x092 then 13 else if p = 0x090 || p = 0x091 then fltTy (tyCode m) else intTy (tyCode m)
    let w := codeWidth t
    b w && dstOk w f.vd f.nw &&
    if p = 0x08F then
      opOk 64 false f.a f.alu && match m with | some q => q.l1 && opOk w false q.x q.xlu | none => false
    else baseOk m f.a f.alu
  else if 0x060 ≤ p then
    if p = 0x060 then
      let (t, s) := cvtPair 1 1 m; a (codeWidth s) && noB f && dstOk (codeWidth t) f.vd f.nw
    else if p = 0x062 then
      let (t, s) := cvtPair 18 1 m; a (codeWidth s) && noB f && dstOk (codeWidth t) f.vd f.nw
    else if p = 0x061 then
      let s := (cvtMxPair m).2
      let isS := 72 ≤ f.b.toNat && f.b.toNat < 104
      (isS || f.b.toNat = 114 || f.b.toNat = 116 || f.b.toNat = 118) && !f.blu && dstOk 32 f.vd f.nw &&
      a (if s = 1 && (isS || f.b.toNat = 118) then 64 else 32)
    else if p = 0x063 then 72 ≤ f.b.toNat && f.b.toNat < 104 && !f.blu && dstOk 32 f.vd f.nw && a 32
    else if p = 0x064 then
      let (_, s) := cvtPair 3 1 m; a (codeWidth s) && b (codeWidth s) && dstFma 32 f.vd f.nw
    else
      let (t, s) := cvtPair 1 3 m; a (codeWidth s) && b 32 && dstOk (codeWidth t) f.vd f.nw
  else if 0x040 ≤ p then
    let w := codeWidth (fltTy (tyCode m))
    if p = 0x04B then a w && b w && !f.nw
    else if p = 0x043 then a w && b w && dstFma w f.vd f.nw
    else if p = 0x054 then a w && noB f && dstOk 32 f.vd f.nw
    else if p = 0x049 || p = 0x04A || 0x04C ≤ p then a w && noB f && dstOk w f.vd f.nw
    else a w && b w && dstOk w f.vd f.nw
  else if p = 0x00D then
    a (codeWidth (int8Ty 12 (orDef 12 (stCode m)))) && noB f && dstOk (codeWidth (int8Ty 12 (orDef 12 (tyCode m)))) f.vd f.nw
  else
    let w := codeWidth (intTy (tyCode m))
    if p = 0x004 then a w && b w && dstFma w f.vd f.nw
    else if p = 0x00A then a w && b w && !f.nw && condOf f.vd ≤ 5
    else if p = 0x00B then a w && opPred f.b f.blu && dstFma w f.vd f.nw
    else if p = 0x007 || p = 0x00C || 0x028 ≤ p && p ≤ 0x02A then a w && noB f && dstOk w f.vd f.nw
    else if (0x024 ≤ p && p ≤ 0x027) || p = 0x02B then a w && b 32 && dstOk w f.vd f.nw
    else if p = 0x02C then a w && b 32 && dstFma w f.vd f.nw
    else a w && b w && dstOk w f.vd f.nw

/-- The field conditions of an ALU-imm instruction (06 Table 6-4, 13). -/
def aluIOk (p : Nat) (m : Option ModW) (f : AluI) : Bool :=
  let i := f.imm.toNat
  if p = 0x0C1 then opOk 32 true f.a f.alu && dstOk 32 f.vd f.nw && i < 128
  else if p = 0x0C2 then opPred f.a f.alu && dstOk 32 f.vd f.nw && i ≤ 2
  else if p = 0x0CA then opOk 32 true f.a f.alu && dstOk 32 f.vd f.nw && i < 32
  else
    let w := codeWidth (reduTy i (tyCode m))
    opOk w true f.a f.alu && dstOk w f.vd f.nw && i ≤ 8

/-- The field conditions of a MEM-layout instruction (05 R101, Table 5-8, 10 R201, 12). -/
def memOk (p : Nat) (m : Option ModW) (f : Mem) : Bool :=
  let w := codeWidth (tyCode m)
  if p = 0x0EC then opOk 64 false f.a f.alu && f.vd.toNat ≤ 3 && !f.nw
  else if p = 0x082 then opOk 32 false f.a f.alu && dstOk w f.vd f.nw
  else if p = 0x083 then opOk 32 false f.a f.alu && (w ≠ 64 || f.vd.toNat % 2 = 0)
  else if p = 0x081 then baseOk m f.a f.alu && (w ≠ 64 || f.vd.toNat % 2 = 0)
  else if p = 0x085 then baseOk m f.a f.alu && f.vd = 0 && !f.nw
  else baseOk m f.a f.alu && dstOk w f.vd f.nw

/-- The field conditions of the MX layout (14 Table 14-1). -/
def mxOk (p : Nat) (m : Option ModW) (f : Mx) : Bool :=
  let rs := match m with | some w => w.fl = 1 | none => false
  if p = 0x160 then f.t = 0 && f.w = 0 && f.sb = 0 && f.m = 0
  else if p = 0x161 then f.t = 0 && f.m.toNat ≤ 1
  else if p = 0x162 then f.t = 0 && f.sa = 0 && f.sb = 0 && f.m = 0
  else if p = 0x163 || p = 0x164 then rs || f.m = 0
  else if p = 0x165 then (rs || f.m = 0) && f.sa ≠ 63
  else if p = 0x166 then f.w = 0 && f.sa = 0 && f.sb = 0
  else if p = 0x167 || p = 0x168 then f.w = 0 && f.m.toNat ≤ 1
  else if p = 0x169 then f.w = 0 && f.sa = 0 && f.m = 0
  else if p = 0x16A then f.w = 0
  else f.t = 0 && f.w = 0 && f.sa = 0 && f.sb = 0 && f.m = 0

/-- The field conditions of the TH layout (15 R277, 13). -/
def thOk (p : Nat) (f : Th) : Bool :=
  if p = 0x186 then 1 ≤ f.k.toNat && f.k.toNat ≤ 8
  else if p = 0x184 then f.sb = 0 && f.k = 0
  else if p = 0x185 then f.sc = 0 && f.k = 0 && f.sa.toNat ≤ 60
  else f.k = 0

/-- The field conditions of the SY layout (15 Table 15-3). -/
def syOk (p : Nat) (f : Sy) : Bool :=
  let i := f.imm.toNat
  if p = 0x1A0 then f.sa = 0 && f.sb = 0 && i % 8 ≠ 0
  else if p = 0x1A1 then f.sb = 0 && i < 256
  else if p = 0x1A2 || p = 0x1A8 then f.sa = 0 && f.sb = 0 && i = 0
  else if p = 0x1A3 || p = 0x1A5 then f.sb = 0 && i < 256
  else if p = 0x1A4 then i < 256
  else if p = 0x1A6 then i < 64
  else if p = 0x1A7 then true
  else i = 0

/-- The numbers of Table 1-6. -/
def csrOk (n : Nat) : Bool := n = 1 || n = 2 || n = 3 || n = 0x010 || (0x020 ≤ n && n ≤ 0x02F) || n = 0x100

/-- The field conditions of the SYS layout (15 R298, R300, R301). -/
def sysOk (p : Nat) (f : Sys) : Bool :=
  if p = 0x1E0 || p = 0x1E4 then f.sa = 0
  else if p = 0x1E1 then f.sa = 0 && f.imm = 0
  else if p = 0x1E2 || p = 0x1E3 then csrOk f.imm.toNat
  else f.imm.toNat ≤ 1

/-- The field conditions of Table 5-11 and R245. -/
def fieldsOk (e : Enc) : Bool :=
  (match e.m with | some m => modOk e.p m | none => true) &&
  match e.f with
  | .alu f => aluOk e.p e.m f
  | .aluI f => aluIOk e.p e.m f
  | .mem f => memOk e.p e.m f
  | .cReg f => opOk 64 false f.a f.alu
  | .mx f => mxOk e.p e.m f
  | .th f => thOk e.p f
  | .sy f => syOk e.p f
  | .sys f => sysOk e.p f
  | .sReg f =>
    if e.p = 0x10B then f.sb = 0
    else if e.p = 0x10C then condOf f.sd ≤ 5
    else if e.p = 0x10D then f.sb.toNat < 16
    else if e.p = 0x143 then f.sd = 0 && f.sb = 0
    else true
  | .c0 _ | .cCond _ | .cFar _ | .sMem _ | .sImm _ | .uLoop _ => true

/-- A modifier word in the form its layout gives: layout 1 has no ST and RND, layout 0 no X (05 R92). -/
def modNormal (m : ModW) : Bool :=
  if m.l1 then m.st = 31 && m.rnd = 0 else m.x = 0 && !m.xlu

end Sys2Proof
end

