-- ==== Sys2Proof/WellFormed.lean ====
section
/-! DEFINITION. Which instructions are well formed: those whose fields break no condition of 05 Table 5-11.
A step of the device has no words and is well formed as it stands. -/

namespace Sys2Proof

/-- An instruction whose modifier word has the form of its layout and whose fields are legal (05 R92,
Table 5-11). -/
def Instr.wellFormed (i : Instr) : Bool :=
  match i.enc with
  | some e => (match e.m with | some m => modNormal m | none => true) && fieldsOk e
  | none => true

end Sys2Proof
end

