-- ==== Sys2Proof/Decode.lean ====
section
/-! DEFINITION. Decoding, total on any words and bytes, and the encoder written from the same layouts
(05 Tables 5-2, 5-4, 5-8 to 5-10; 06). -/

namespace Sys2Proof

/-- What a word, or a pair with a modifier word, stands for (05 R105 steps 2 to 4). -/
inductive Decoded where
  /-- An instruction whose fields are legal. -/
  | instr (i : Instr)
  /-- An unassigned slot, or two modifier words: the trap `ILLEGAL_OP`. -/
  | illegal
  /-- A field condition of Table 5-11: the trap `RESERVED_FIELD`. -/
  | reserved
  deriving DecidableEq, Repr

/-- Bits `<lo+n-1:lo>` of a word. -/
def fld (w : W32) (lo n : Nat) : BitVec n := w.extractLsb' lo n

/-- Bit `n` of a word. -/
def flag (w : W32) (n : Nat) : Bool := w.getLsbD n

/-- P = w<31:23> (06 R108). -/
def primary (w : W32) : Nat := (fld w 23 9).toNat

/-- The modifier word's fields (Table 5-2). -/
def unpackMod (w : W32) : ModW :=
  if flag w 22 then
    { l1 := true, ty := fld w 17 5, st := 31, rnd := 0, ord := fld w 13 4, sco := fld w 10 3, fl := fld w 8 2,
      x := fld w 1 7, xlu := flag w 0 }
  else
    { l1 := false, ty := fld w 17 5, st := fld w 12 5, rnd := fld w 9 3, ord := fld w 5 4, sco := fld w 2 3,
      fl := fld w 0 2, x := 0, xlu := false }

/-- The modifier word (Table 5-2). -/
def packMod (m : ModW) : W32 :=
  if m.l1 then
    (0xFF#9 ++ 1#1 ++ m.ty ++ m.ord ++ m.sco ++ m.fl ++ m.x ++ BitVec.ofBool m.xlu : BitVec 32)
  else
    (0xFF#9 ++ 0#1 ++ m.ty ++ m.st ++ m.rnd ++ m.ord ++ m.sco ++ m.fl : BitVec 32)

/-- The layout's fields of a word with primary opcode number `p` (Table 6-3); none where bits that the
layout marks 0 are not (Table 5-11). -/
def unpackFields (p : Nat) (w : W32) : Option Fields :=
  if p = 0x0C1 || p = 0x0C2 || p = 0x0C3 || p = 0x0C5 || p = 0x0CA then
    some (.aluI ⟨fld w 17 6, flag w 16, fld w 9 7, flag w 8, fld w 0 8⟩)
  else if p = 0x086 || (0x0A6 ≤ p && p ≤ 0x0A8) then
    if fld w 0 23 = 0 then some (.c0 {}) else none
  else if (0x080 ≤ p && p ≤ 0x085) || p = 0x0EC then
    some (.mem ⟨fld w 17 6, flag w 16, fld w 9 7, flag w 8, fld w 0 8⟩)
  else if p = 0x0A0 || p = 0x140 then some (.cCond ⟨flag w 22, fld w 19 3, fld w 0 19⟩)
  else if p = 0x0A1 || p = 0x0A3 || p = 0x141 || p = 0x142 then some (.cFar ⟨fld w 0 23⟩)
  else if p = 0x0A2 || p = 0x0A4 || p = 0x0A5 then
    if fld w 16 7 = 0 && fld w 0 8 = 0 then some (.cReg ⟨fld w 9 7, flag w 8⟩) else none
  else if p < 0x100 then some (.alu ⟨fld w 17 6, flag w 16, fld w 9 7, flag w 8, fld w 1 7, flag w 0⟩)
  else if p = 0x10E || p = 0x10F then some (.sMem ⟨fld w 17 6, fld w 11 6, fld w 0 11⟩)
  else if p < 0x120 || p = 0x143 then
    if fld w 0 5 = 0 then some (.sReg ⟨fld w 17 6, fld w 11 6, fld w 5 6⟩) else none
  else if p < 0x140 then
    if fld w 16 1 = 0 then some (.sImm ⟨fld w 17 6, fld w 0 16⟩) else none
  else if p = 0x144 then some (.uLoop ⟨fld w 17 6, fld w 0 17⟩)
  else if p < 0x180 then some (.mx ⟨fld w 19 4, fld w 16 3, fld w 10 6, fld w 4 6, fld w 0 4⟩)
  else if p < 0x1A0 then some (.th ⟨fld w 17 6, fld w 11 6, fld w 5 6, fld w 0 5⟩)
  else if p < 0x1E0 then some (.sy ⟨fld w 17 6, fld w 11 6, fld w 0 11⟩)
  else if fld w 0 5 = 0 then some (.sys ⟨fld w 17 6, fld w 5 12⟩) else none

/-- The 23 field bits of a word (Tables 5-4, 5-8 to 5-10). -/
def packFields : Fields → BitVec 23
  | .alu f => (f.vd ++ BitVec.ofBool f.nw ++ f.a ++ BitVec.ofBool f.alu ++ f.b ++ BitVec.ofBool f.blu : BitVec 23)
  | .aluI f => (f.vd ++ BitVec.ofBool f.nw ++ f.a ++ BitVec.ofBool f.alu ++ f.imm : BitVec 23)
  | .mem f => (f.vd ++ BitVec.ofBool f.nw ++ f.a ++ BitVec.ofBool f.alu ++ f.d : BitVec 23)
  | .cCond f => (BitVec.ofBool f.n ++ f.p ++ f.off : BitVec 23)
  | .cFar f => f.off
  | .cReg f => (0#7 ++ f.a ++ BitVec.ofBool f.alu ++ 0#8 : BitVec 23)
  | .c0 _ => 0
  | .sReg f => (f.sd ++ f.sa ++ f.sb ++ 0#5 : BitVec 23)
  | .sMem f => (f.sd ++ f.sa ++ f.d : BitVec 23)
  | .sImm f => (f.sd ++ 0#1 ++ f.imm : BitVec 23)
  | .uLoop f => (f.s ++ f.off : BitVec 23)
  | .mx f => (f.t ++ f.w ++ f.sa ++ f.sb ++ f.m : BitVec 23)
  | .th f => (f.sa ++ f.sb ++ f.sc ++ f.k : BitVec 23)
  | .sy f => (f.sa ++ f.sb ++ f.imm : BitVec 23)
  | .sys f => (f.sa ++ f.imm ++ 0#5 : BitVec 23)

/-- An instruction's own word: P, then its fields (06 R108). -/
def packWord (p : Nat) (f : Fields) : W32 := (BitVec.ofNat 9 p ++ packFields f : BitVec 32)

/-- The instruction of the word `w`, its modifier word `m` if any (R105 steps 3 and 4). -/
def decodeSuffix (m : Option ModW) (w : W32) : Decoded :=
  let p := primary w
  if assigned p then
    match unpackFields p w with
    | some f =>
      match Instr.ofEnc p m f with
      | some i => if i.wellFormed then .instr i else .reserved
      | none => .reserved
    | none => .reserved
  else .illegal

/-- Whether a word is a modifier word (R91). -/
def isModifier (w : W32) : Bool := primary w = 0x0FF

/-- The instruction at a word `w`, with `w2` the word after it (R91, R94, R105 steps 2 to 4).
Log 118 (DEDUCED, safe). -/
def decode (w w2 : W32) : Decoded :=
  if isModifier w then
    if isModifier w2 then .illegal else decodeSuffix (some (unpackMod w)) w2
  else decodeSuffix none w

/-- Bytes of the instruction that starts with the word `w` (R91). -/
def instrBytes (w : W32) : Nat := if isModifier w then 8 else 4

/-- The words of an instruction; none for a step of the device. -/
def encode (i : Instr) : List W32 :=
  match i.enc with
  | some e =>
    match e.m with
    | some m => [packMod m, packWord e.p e.f]
    | none => [packWord e.p e.f]
  | none => []

/-- A word from its four bytes, the first the least significant (00 R2). -/
def wordOf (b : List W8) : W32 :=
  (b.getD 3 0 ++ b.getD 2 0 ++ b.getD 1 0 ++ b.getD 0 0 : BitVec 32)

/-- The four bytes of a word, the least significant first. -/
def wordBytes (w : W32) : List W8 := [fld w 0 8, fld w 8 8, fld w 16 8, fld w 24 8]

/-- Decoding from bytes at the instruction's address; bytes beyond the end of the list read 0. -/
def decodeBytes (b : List W8) : Decoded := decode (wordOf b) (wordOf (b.drop 4))

/-- The instruction of a table word: bit 0 is the least significant bit of the first word, and the
suffix of a pair counts on from bit 32. Log 115 (DESIGN CHOICE, unsafe). -/
def decodeTableWord (nbits w : Nat) : Option Instr :=
  let v := w % 2 ^ nbits
  match decode (BitVec.ofNat 32 v) (BitVec.ofNat 32 (v / 2 ^ 32)) with
  | .instr i => some i
  | _ => none

/-- The value of an instruction's words, numbered as `decodeTableWord` numbers them. -/
def encodeNat (i : Instr) : Nat :=
  match encode i with
  | [w] => w.toNat
  | [w, w2] => w.toNat + 2 ^ 32 * w2.toNat
  | _ => 0

end Sys2Proof
end

