-- ==== Sys2Proof/Machine/Tbl.lean ====
section
/-! DEFINITION. Tables: lists of key and value pairs in which a key stands once. -/

namespace Sys2Proof.Machine

/-- A sparse table by number. -/
abbrev Tbl (α : Type) := List (Nat × α)

/-- The value at a key. -/
def tget {α : Type} (t : Tbl α) (k : Nat) : Option α :=
  match t with
  | [] => none
  | (i, v) :: r => if i = k then some v else tget r k

/-- The value at a key, or `d`. -/
def tgetD {α : Type} (t : Tbl α) (k : Nat) (d : α) : α := (tget t k).getD d

/-- The table with `v` at `k`. -/
def tset {α : Type} (t : Tbl α) (k : Nat) (v : α) : Tbl α :=
  match t with
  | [] => [(k, v)]
  | (i, w) :: r =>
    if i = k then (k, v) :: r
    else if k < i then (k, v) :: (i, w) :: r
    else (i, w) :: tset r k v

/-- The table without `k`. -/
def tdel {α : Type} (t : Tbl α) (k : Nat) : Tbl α := t.filter (fun e => e.1 ≠ k)

/-- The value at `k` changed by `f`, if there is one. -/
def tmap {α : Type} (t : Tbl α) (k : Nat) (f : α → α) : Tbl α :=
  match t with
  | [] => []
  | (i, v) :: r => if i = k then (i, f v) :: r else (i, v) :: tmap r k f

/-- `f` applied to the values of the keys in `ks`. -/
def tmapOn {α : Type} (t : Tbl α) (ks : List Nat) (f : Nat → α → α) : Tbl α :=
  t.map (fun e => if ks.contains e.1 then (e.1, f e.1 e.2) else e)

/-- `f` applied to every value. -/
def tmapAll {α : Type} (t : Tbl α) (f : Nat → α → α) : Tbl α := t.map (fun e => (e.1, f e.1 e.2))

/-- The list with element `i` replaced. -/
def lset {α : Type} (l : List α) (i : Nat) (v : α) : List α := l.set i v

/-- The list without element `i`. -/
def ldel {α : Type} (l : List α) (i : Nat) : List α := l.eraseIdx i

/-- The numbers `0` to `n - 1`. -/
def upto (n : Nat) : List Nat := List.range n

end Sys2Proof.Machine
end

