-- ==== Sys2Proof/Machine/State.lean ====
section
/-! DEFINITION. The state of one package: everything the manual gives the machine, as plain data, and the
state after reset. Keys: a team has a number `tk`; thread `i` of it (01 R14) has key `1024 tk + i`, wave
`w` of it has key `32 tk + w`. Executors 0 to 383 are the cores, 384 to 639 the sequencers (23 R399).
Physical addresses are those of 17 R305. -/

namespace Sys2Proof.Machine

/-- Why a run stops with a fault of the model. -/
inductive Fault where
  /-- Raised by an encoded instruction's meaning when no sheaf issues. It is safe: no sheaf, no issue. -/
  | noSheaf
  /-- Raised by a step of the device or of an outside party when the rule that governs it does not enable
  it in this state; the string is its mnemonic. It is safe: the machine cannot take that step. -/
  | notEnabled (mnemonic : String)
  /-- Raised by an access of the device to a physical address outside 17 R305. It is safe: no such
  location exists. -/
  | noSuchPA (pa : Nat)
  deriving DecidableEq, Repr

/-- Why a step has no meaning. -/
inductive Refusal where
  /-- Raised by a refused arm of `exec` only. It is safe: the run ends. -/
  | notModelled (mnemonic : String)
  deriving DecidableEq, Repr

/-- A lane register's state (01 R17). -/
inductive VReg where
  | unwritten
  | live (v : W32)
  | freed
  deriving DecidableEq, Repr

/-- Where a thread stands (20 Table 20-5); `inSheaf` is a ready thread that a draw has taken. -/
inductive TStat where
  | ready
  | inSheaf
  | rendezvous
  | waiting
  | parked
  | exited
  deriving DecidableEq, Repr

/-- Operands kept at arrival, or a replay record (20 Table 20-5). `tile` is the tile index a parked tile
instruction goes on from (15 R279); `pd` is a predicate operand (13 R241). -/
structure Kept where
  pc : Va := 0
  words : W64 := 0
  a : W64 := 0
  b : W64 := 0
  x : W64 := 0
  data : W64 := 0
  pd : Bool := false
  tile : Nat := 0
  deriving DecidableEq, Repr

/-- The lane registers, and which are poisoned, as an arrival at a `.rs` product read them (14 R271, 13 R241). -/
structure Arrival where
  regs : Tbl VReg := []
  bad : W64 := 0
  deriving DecidableEq, Repr

/-- A lane trapped within a latch run (08 R143). -/
structure LaneTrap where
  tid : Nat
  code : Nat
  val : W64
  pc : Va
  words : W64
  next : Va
  deriving DecidableEq, Repr

/-- Which threads a park or a replay covers together (20 R369). -/
inductive ParkSet where
  | lane
  | fragment
  | wave
  | gang
  deriving DecidableEq, Repr

/-- Why a thread is parked (20 R363, R367). `grp` numbers the event: threads parked by one event as a set
share it. `trap` says that it is an unhandled trap, with `val` its VAL and `rpc` its resume PC. -/
structure Park where
  kind : Nat
  set : ParkSet
  grp : Nat
  trap : Bool
  val : W64
  rpc : Va
  pc : Va
  words : W64
  access : Nat
  /-- The access that failed, when its thread had gone on, whose result a register or a latch still awaits. -/
  gid : Nat := 0
  /-- The replay record of a load whose header was found invalid after its thread had gone on, and where the thread
  stood (11 R206, 12 R227). -/
  late : Option Kept := none
  was : TStat := .ready
  deriving DecidableEq, Repr

/-- One side of the program orders of 07 R122: a thread's issue queue, or a wave's uniform stream. `iq`
holds the accesses not yet performed, in program order, those in `foreign` being other threads' that a cross-lane
instruction put before it (13 R244); F is the larger of `floor`, which accesses raised, and `fenceF`, which its own fences
raised (R126); `maxT` is the largest time of its own earlier loads. -/
structure Stream where
  iq : List Nat := []
  foreign : List Nat := []
  floor : Nat := 0
  fenceF : Nat := 0
  lines : Tbl Nat := []
  maxT : Nat := 0
  deriving DecidableEq, Repr

/-- A thread (01 Table 1-1, 20 Table 20-5). -/
structure Thread where
  pc : Va := 0
  regs : Tbl VReg := []
  poison : W64 := 0
  p : W8 := 0
  fcr : W32 := 0
  hkey : W64 := 0
  hctr : W32 := 0
  lv : List W32 := []
  ln : List W32 := []
  stat : TStat := .ready
  sup : Bool := false
  replay : Bool := false
  kept : Option Kept := none
  arrival : Option Arrival := none
  park : Option Park := none
  /-- The VA of the record written when the thread entered its handler (20 R364, R366). -/
  trapVa : Option Va := none
  q : Stream := {}
  filedAt : Nat := 0
  /-- The `ld` whose result a register awaits. -/
  pend : Tbl Nat := []
  /-- A rendezvous that a pre-empted product forms again without arrival (14 R273). -/
  resume : Bool := false
  /-- A trap of its run still owed to it, when a fault found late parked it first (08 R143, 11 R206). -/
  owed : Option LaneTrap := none
  /-- Once it has exited: the values that its registers held, and those of loads that perform later (16 R304, 19 R360). -/
  last : Tbl VReg := []
  deriving DecidableEq, Repr

/-- A wave (01 Table 1-2). -/
structure Wave where
  s : Tbl W64 := []
  q : W8 := 0
  gang : W64 := 0
  mprog : BitVec 128 := 0
  yieldBit : Bool := false
  haltBit : Bool := false
  /-- The threads that may still issue one instruction under STEP (20 R378). -/
  stepping : List Nat := []
  frag : Option Kept := none
  /-- The elements of an `ald` that are read outside the package (14 R275, 07 R130, R131). -/
  far : List Nat := []
  uq : Stream := {}
  /-- The `sld` whose result a register awaits. -/
  pend : Tbl Nat := []
  /-- Whether its last thread has exited, and the values that its registers held then, with those of loads that perform later (24
  R407). -/
  ended : Bool := false
  last : Tbl W64 := []
  deriving DecidableEq, Repr

/-- Where a team is (18 R343 to R345, 20 R371 to R373). -/
inductive Place where
  | waiting
  | active
  | loft
  | leaving
  | ended
  deriving DecidableEq, Repr

/-- A ring context (10 R191): its image as bytes, and the type bound to it, 0 for none. -/
structure Ring where
  image : List W8 := []
  bound : Nat := 0
  deriving DecidableEq, Repr

/-- A latch entry of one lane: a value, or the load whose result it awaits. -/
inductive LatchVal where
  | val (v : W64)
  | pend (g : Nat)
  deriving DecidableEq, Repr

/-- A saved sheaf (01 R23): its thread set and its latch chain, one row per latch, none when cleared. -/
structure SavedSheaf where
  pc : Va
  tids : List Nat
  latch : List (Option (Tbl LatchVal))
  deriving DecidableEq, Repr

/-- A team. -/
structure Team where
  launch : Nat
  idx : Nat
  asid : Nat
  vf : Nat
  die : Nat
  /-- The executor it was last placed on, which holds its banks and products until it is placed elsewhere. -/
  core : Option Nat := none
  place : Place := .waiting
  frame : Option Nat := none
  waves : Nat
  waited : Nat := 0
  boosted : Bool := false
  spb : Nat := 0
  acc : Nat := 0
  det : Bool := false
  idem : Bool := false
  /-- Station descriptors (14 Table 14-3). -/
  stations : List W64 := []
  rings : List Ring := []
  saved : List SavedSheaf := []
  /-- Bit 0 of its flags, and the launch number that a debugger has written (20 Table 20-5, R378). -/
  valid : Bool := true
  num : Option Nat := none
  /-- Scratchpad banks, and tiles, while they are in the frame (20 R373). -/
  spilled : Bool := false
  tilesOut : Bool := false
  spData : List Host.Cell := []
  spPoison : List Nat := []
  accData : Tbl W32 := []
  rowPoison : Tbl W32 := []
  /-- Whether it has run. -/
  started : Bool := false
  deriving DecidableEq, Repr

/-- A sheaf (01 R7, R20 to R22): latch rows by lane key, none when cleared. -/
structure Sheaf where
  core : Nat
  team : Nat
  pc : Va
  tids : List Nat
  latch : List (Option (Tbl LatchVal)) := List.replicate 8 none
  trapped : List LaneTrap := []
  /-- Whether it stands inside a latch run. -/
  inRun : Bool := false
  /-- The number of its forming: lower ones were formed earlier (18 R348). -/
  formed : Nat := 0
  /-- Parity errors met in a row at its PC (20 R381). -/
  refetch : Nat := 0
  deriving DecidableEq, Repr

/-- A page as a walk gives it (01 Tables 1-10, 1-11, 1-13). -/
structure Page where
  asid : Nat := 0
  region : Nat := 0
  die : Nat := 0
  va : Nat := 0
  pa : Nat := 0
  bits : Nat := 12
  w : Bool := true
  x : Bool := false
  pte : Nat := 0
  fmt : Nat := 22
  blk : Nat := 0
  sp : Nat := 0
  lay : Bool := false
  map : Bool := false
  tl : Nat := 0
  cc : Nat := 0
  fix : Nat := 0
  hbase : Nat := 0
  tg : Nat := 0
  deriving DecidableEq, Repr

/-- Where an access goes (07 R117). -/
inductive Target where
  | pkg (home : Nat)
  | other (pkg : Nat)
  | host
  deriving DecidableEq, Repr

/-- A tile (11 R203 to R206): its payload's page and PA, its index in the region, and the VA, the PA and
the page-table entry of its header. -/
structure TileRef where
  page : Page
  pay : Nat
  index : Nat
  hdrVa : Nat
  hdr : Nat := 0
  hdrPte : Nat := 0
  deriving DecidableEq, Repr

/-- One element, or raw bytes, of an access: bit position and width in memory, the address of its scale
code, and its tile and logical index on a mapped page (03 R67, 11 R208, 12 R222). -/
structure Elem where
  pa : Nat := 0
  bit : Nat := 0
  width : Nat := 0
  scale : Option Nat := none
  tile : Option TileRef := none
  idx : Nat := 0
  deriving DecidableEq, Repr

/-- Whose access it is. -/
inductive Owner where
  | thread (tid : Nat)
  | uni (wk : Nat)
  | engine (e : Nat)
  | host
  | remote (pkg core tag : Nat)
  deriving DecidableEq, Repr

/-- The kinds of access of 07. -/
inductive AccKind where
  | load
  | store
  | atomic
  | red
  | fence
  | edit
  deriving DecidableEq, Repr

/-- The stages of an access (07 R117, R121): `sent` to its home, in its package channel or host channel;
`numbered` by its home. -/
inductive Stage where
  | waiting
  | issued
  | sent
  | numbered
  deriving DecidableEq, Repr

/-- An order (05 Table 5-3, ORD 1 to 5). -/
inductive Ord where
  | rlx
  | acq
  | rel
  | acqrel
  | sc
  deriving DecidableEq, Repr

/-- A relaxed use (07 Table 7-4). -/
inductive Use where
  | none
  | unp
  | com
  | nor
  | qnt
  | spc
  deriving DecidableEq, Repr

/-- A memory access, or a fence, from its issue until it has performed (07 R117). `op` is the operation of
an atomic, a `red` or a tile edit by its own code, and 1 for a fence that a `.sc` access implies; `data` and `cmp` its operands; `ty` the
register format; `dst` the destination register and `wide` whether it is a pair; `latch` whether a result goes to latch entries; `mode` the rounding state
read at issue. -/
structure Acc where
  gid : Nat
  owner : Owner
  core : Nat
  die : Nat
  team : Nat := 0
  kind : AccKind
  ord : Ord := .rlx
  use : Use := .none
  scope : Nat := 7
  stage : Stage := .waiting
  pc : Va := 0
  words : W64 := 0
  va : Va := 0
  asid : Nat := 0
  page : Page := {}
  target : Target := .pkg 0
  elem : Elem := {}
  /-- Coherence lines it touches (PA / 128). -/
  lines : List Nat := []
  ty : Nat := 12
  op : Nat := 0
  data : W64 := 0
  cmp : W64 := 0
  /-- Destination register and whether anything is written. -/
  dst : Option Nat := none
  wide : Bool := false
  latch : Bool := false
  raw : Bool := false
  dead : Bool := false
  mode : Nat := 0
  hkey : W64 := 0
  hctr : W32 := 0
  tid40 : Nat := 0
  flagTid : Nat := 0
  /-- What an acquire of an atomic still waits for, and the value it read (07 R132). -/
  num : Nat := 0
  res : W64 := 0
  /-- Held in the DET hold buffer (07 R135); its drain has begun. -/
  held : Bool := false
  drained : Bool := false
  /-- Cores that the forwarding path has delivered it to (07 R127). -/
  deliv : List Nat := []
  /-- Applied in the issuing die's view, and at its home die (07 R121, R127). -/
  applied : Bool := false
  homed : Bool := false
  /-- Of the acquire of a work-list push: the counts that its die must have applied (15 R288). -/
  vc : List Nat := []
  /-- Operations combined with it, which end with it (07 Table 7-4). -/
  more : List Nat := []
  /-- Position among the tiles of its instruction (15 R279); of another package's request, its SEQ (25 Table 25-4). -/
  tileNo : Nat := 0
  /-- Its data is poisoned (14 Table 14-7). -/
  bad : Bool := false
  /-- The bytes of an `ast` write, or of an engine's line. -/
  cells : List Host.Cell := []
  /-- A read of raw bytes outside the package, which keeps them in `cells`, or the kind of its fault in `cmp`, for the step that
  asked for it (10 R201, 15 R291, 18 R340). -/
  block : Bool := false
  /-- The TY code as written, which a request to another package carries (25 Table 25-4). -/
  tyc : Nat := 31
  /-- Of another package's request: the flags to be answered (12 R225, R226), and the tiles of its line. -/
  flags : W32 := 0
  mats : List TileRef := []
  /-- The fragment of a uniform access, which parks when a fault is found after it has gone on (11 R206, 25 R416). -/
  tids : List Nat := []
  /-- The replay record of its lane or fragment, should it park. -/
  kept : Kept := {}
  deriving DecidableEq, Repr

/-- What a write changes (07 R118, R140): bytes, or a contribution to a reduce-state element. -/
inductive Content where
  | cells (c : List Host.Cell)
  | red (pa op ty : Nat) (v : W64)
  deriving DecidableEq, Repr

/-- An access at its home before its write is numbered, with the applied counts of its issuing die when it left
(07 R118). -/
structure Req where
  gid : Nat
  vc : List Nat
  deriving DecidableEq, Repr

/-- A numbered write (07 R118, R119): `num` is its number at `home`; its contents apply at one time; `lines` are
those it touches. -/
structure Wr where
  home : Nat
  num : Nat
  vc : List Nat
  content : List Content
  lines : List Nat
  gid : Option Nat
  deriving DecidableEq, Repr

/-- A write applied to a die view at time `t` (07 R119). -/
structure Applied where
  t : Nat
  home : Nat
  num : Nat
  content : List Content
  deriving DecidableEq, Repr

/-- A reduce-state element, with the number of its last contribution and its home die (23 R393, R394). -/
structure RedElem where
  pa : Nat
  op : Nat
  ty : Nat
  parts : List W64
  last : Nat
  home : Nat
  deriving DecidableEq, Repr

/-- A translation held in an MTLB (17 R323). -/
structure Trans where
  asid : Nat
  page : Page
  misses : Nat := 0
  deriving DecidableEq, Repr

/-- VAs, of one address space or of all, whose translation a command has changed, and a die's clock at its completion (17 R326). -/
structure Inv where
  asid : Option Nat
  lo : Nat
  hi : Nat
  t : Nat
  deriving DecidableEq, Repr

/-- A cached copy (17 R308, R310, R311, R315): the cache, 0 to 95 the L1 of a core of the die and 96 to 223 the guest ways of its
slices; its tag, an address space and a VA / 128, and its way; the line of package memory that it is of; bits 31 to 0 of its
times; its bytes; and the mark of 17 R312. -/
structure Copy where
  unit : Nat
  asid : Nat
  va : Nat
  way : Nat := 0
  line : Nat
  wts : W32
  rts : W32
  data : List W8 := []
  marked : Bool := false
  deriving DecidableEq, Repr

/-- A sector of a die's home partition (17 R316 to R318): the slice it lies in, the clusters of its last accesses, its orientation
with its counter, whether a flip is due, whether it holds scratch lines, and the clock at its last use. -/
structure Sector where
  slice : Nat
  recent : List Nat
  cols : Bool
  cnt : Nat
  flip : Bool := false
  scratch : Bool := false
  used : Nat := 0
  deriving DecidableEq, Repr

/-- A fault record (20 Table 20-3). -/
structure FaultRec where
  kind : Nat
  access : Nat
  eng : Bool
  asid : Nat
  va : W64
  pc : W64
  frame : Nat
  vf : Nat
  wave : Nat
  lanes : W32
  opa : W64
  opb : W64
  words : W64
  opx : W32
  deriving DecidableEq, Repr

/-- An error record (26 Table 26-4). -/
structure ErrRec where
  cls : Nat
  src : Nat
  vf : Nat
  addr : Nat
  time : Nat
  count : Nat
  detail : Nat
  deriving DecidableEq, Repr

/-- Error and interrupt registers of a die or of the hub (26 Table 26-3), with the records that wait. -/
structure ErrRegs where
  elBase : W64 := 0
  elSize : W64 := 0
  elHead : W64 := 0
  elTail : W64 := 0
  elDrop : W64 := 0
  scrubInt : W64 := 86400
  mgStat : W64 := 0
  mgEn : W64 := 0
  waiting : List ErrRec := []
  /-- CE records written in the last second, with their numbers, which later ones join. -/
  recent : List (Nat × ErrRec) := []
  /-- One more than the epoch of the last power event (26 R432). -/
  pwrEpoch : Nat := 0
  deriving DecidableEq, Repr

/-- A barrier-table entry (18 R355, R356): a node of a barrier's tree, 0 a die's or a `barw`'s, 1 a package's and 2 a
domain's (R354). -/
structure BtEntry where
  gid : W64
  node : Nat := 0
  expected : Nat
  arrived : Nat
  phase : Nat
  deriving DecidableEq, Repr

/-- The frame ring of one size of a stack (17 R330). -/
structure Pool where
  base : W64 := 0
  size : W64 := 0
  head : W64 := 0
  tail : W64 := 0
  deriving DecidableEq, Repr

/-- Near-memory registers of one stack (23 Table 23-4). -/
structure NmRegs where
  nmCtl : W64 := 1
  nmWdt : W64 := 0x1000000
  nmHung : W64 := 0
  nmRst : W64 := 0
  deriving DecidableEq, Repr

/-- Trap and frame registers of one function on a die (20 Table 20-6). -/
structure VfTrap where
  tvec : W64 := 0
  tctl : W64 := 0
  trec : W64 := 0
  ctxBase : W64 := 0
  deriving DecidableEq, Repr

/-- A C-die: its home sequencer, die view and apply queue (07 Table 7-1), MTLB, caches, barrier table,
waiting records and registers (17 Table 17-7, 18 Table 18-6, 20 Table 20-6, 23 Table 23-4, 26 Table 26-3). -/
structure Die where
  clock : Nat := 0
  /-- Cycles since reset, which every core of the die counts (15 R301). -/
  cycles : W64 := 0
  h : Nat := 0
  n : List Nat := [0, 0, 0, 0]
  inbox : List Req := []
  aq : List Wr := []
  /-- Contents older than every entry of `log`, and the applied writes since, oldest first. -/
  view : List Host.Cell := []
  log : List Applied := []
  rts : Tbl Nat := []
  /-- The time of the last write of each line that has been applied (17 R311). -/
  wts : Tbl Nat := []
  hostChan : List Nat := []
  mtlb : List Trans := []
  /-- Pages whose translations a full MTLB has lost, with the clock then (17 R323, R326). -/
  mtlbOld : List (Nat × Page) := []
  copies : List Copy := []
  /-- The generations at the last sweep of its caches (17 R310); units in retention sleep, with the generations at entry (R312). -/
  gen : Nat := 0
  asleep : Tbl Nat := []
  sectors : Tbl Sector := []
  bt : List BtEntry := []
  /-- Group ids and nodes evicted and not restored (18 R356). -/
  btOut : List (W64 × Nat) := []
  admitted : List Nat := []
  faults : List FaultRec := []
  migCtl : W64 := 0
  mtCmd : W64 := 0
  mtArg0 : W64 := 0
  mtArg1 : W64 := 0
  mtArg2 : W64 := 0
  mtStat : W64 := 0
  /-- The translation command in progress: the clock its completion must exceed, the pages it affects, the number from which
  accesses are later than its start, its arguments as it began, and the page-table entries that it changes (17 R325 to R327). -/
  mtUntil : Nat := 0
  mtPages : List Page := []
  mtGid : Nat := 0
  mtIn0 : Nat := 0
  mtIn1 : Nat := 0
  mtPtes : List (Nat × Nat) := []
  /-- Translations changed: no load of theirs takes a time before (17 R326). -/
  invs : List Inv := []
  astBase : W64 := 0
  migVf : W64 := 0
  /-- Pages that are candidates for migration: address space and VA (17 R328). -/
  cands : List (Nat × Nat) := []
  gwm : Tbl W64 := []
  ccwp : Tbl W64 := []
  pools : Tbl Pool := []
  schCtl : W64 := 0x0000010000100000
  btCmd : W64 := 0
  btArg0 : W64 := 0
  btArg1 : W64 := 0
  btErr : Nat := 0
  fqBase : W64 := 0
  fqSize : W64 := 0
  fqHead : W64 := 0
  fqTail : W64 := 0
  fqCtl : W64 := 0
  fqCmd : W64 := 0
  fqArg : W64 := 0
  fqStat : W64 := 0
  /-- Frames named by the records written, with their numbers (20 R370). -/
  fqFrames : List (Nat × Nat × Nat) := []
  dbgCmd : W64 := 0
  dbgArg0 : W64 := 0
  dbgArg1 : W64 := 0
  dbgData : W64 := 0
  dbgErr : Nat := 0
  dbgVf : W64 := 0
  vfs : Tbl VfTrap := []
  nm : Tbl NmRegs := []
  err : ErrRegs := {}
  deriving DecidableEq, Repr

/-- An entry of a core's rendezvous latch (14 R259). -/
structure GangEntry where
  team : Nat
  leader : Nat
  pc : Va
  words : W64
  gang : W64
  arrived : List Nat
  deriving DecidableEq, Repr

/-- A streamed element as it was read: its code, its block's scale code, and whether it was poisoned (14 R267,
R274). -/
structure MxEl where
  code : Nat
  scale : Nat := 127
  bad : Bool := false
  deriving DecidableEq, Repr

/-- One sum of products of a matrix instruction (14 R269, R270): member `g` accumulates into tile `tile + g`,
columns below `cols`, over a reduction of length `len` in groups of `kg`. Row `m`, place `k` of the streamed
operand is element `e0 + m rs + k ks` of its page; the station's element is `(ko + k, no + j)`, or with `tr` the
transposed one. `regs` says that its scales come from registers. -/
structure MxPart where
  tile : Nat
  cols : Nat
  len : Nat
  kg : Nat
  page : Page
  va : Nat
  rs : Nat
  ks : Nat
  ko : Nat := 0
  no : Nat := 0
  tr : Bool := false
  regs : Bool := false
  /-- The pages and the elements as translated at the start, and the elements as read, by row. -/
  pages : List Page := []
  els : List Elem := []
  rows : List (List MxEl) := []
  deriving DecidableEq, Repr

/-- A product in flight (14 R268, R272): its members in order, its tiles, its station, the lines it pins, its
load in every member's queues, the K-group steps done, the register scales and the rounding state of its leader.
While `read` is false its streamed lines are still to be read. -/
structure Product where
  team : Nat
  waves : List Nat
  pc : Va
  words : W64
  tiles : List Nat
  station : Nat
  pins : List Nat
  g : Nat
  read : Bool := false
  step : Nat := 0
  parts : List MxPart
  /-- Scale bytes of each row's blocks, by row, where registers give them. -/
  scales : List (List Nat) := []
  mode : Nat
  hkey : W64
  hctr : W32
  tid40 : Nat
  flagTid : Nat
  deriving DecidableEq, Repr

/-- A core or a sequencer (01, 18 R344 to R350, 20 R371 to R373, 23 R399). -/
structure Core where
  age : W32 := 64
  /-- Bins by number, keyed by team and PC; threads that overflow them, oldest first (18 R347). -/
  bins : Tbl (Nat × Va) := []
  overflow : List Nat := []
  activeCycles : Nat := 0
  blockedCycles : Nat := 0
  /-- Cycles of a swap still to pass (20 R371), and a swap asked for by `yield` or a clock. -/
  swapping : Nat := 0
  swapDue : Bool := false
  sp : List Host.Cell := []
  spPoison : List Nat := []
  acc : Tbl W32 := []
  rowPoison : Tbl W32 := []
  /-- The team whose banks and tiles the core holds. -/
  bankTeam : Option Nat := none
  gangs : List GangEntry := []
  products : List Product := []
  /-- Current wave of each DET launch (18 R350). -/
  current : Tbl Nat := []
  /-- The cycle from which its next draw may be (18 R348). -/
  drawAt : Nat := 0
  /-- The sheaves that have issued in this cycle, by the numbers of their forming (18 R348). -/
  issued : List Nat := []
  watch : Nat := 0
  deriving DecidableEq, Repr

/-- What a fragment or a wave waits for. -/
inductive WaitFor where
  | bar (level id : Nat)
  | barw (id n phase : Nat)
  | wlquiet (list sa : Nat)
  | waitwp (die chan : Nat) (thr : W64) (sa : Nat)
  | waitseq (va : Va) (sb : Nat) (thr : W64) (left : Option Nat)
  | mwait
  | aflush
  | tiles (reqs : List Nat)
  | held (g : Nat)
  | latch
  deriving DecidableEq, Repr

/-- A wait of some threads of one wave (18 R345). `fences` are the implied fences of a barrier arrival (07
R139), the atomics that an `aflush` waits for (15 R292), or the read of a completion word outside the package (15 R291); `arr` is 0 while the arrival does not count, 1 when it counts at its core and 2 when its team's arrival has gone to
the table (18 R354); `spill` a barrier arrival that has no table entry (R356). -/
structure Wait where
  wk : Nat
  tids : List Nat
  pc : Va
  next : Va
  what : WaitFor
  fences : List Nat := []
  arr : Nat := 0
  spill : Bool := false
  since : Nat := 0
  /-- The operands of a tile instruction (15 R279). -/
  kept : Option Kept := none
  deriving DecidableEq, Repr

/-- A ring load in flight (10 R202). -/
structure RingLoad where
  team : Nat
  ctx : Nat
  ty : Nat
  /-- The PA of each block of 256 bytes, and its page. -/
  pa : List Nat
  pages : List Page := []
  tids : List Nat
  pc : Va
  words : W64
  die : Nat
  /-- Its load, in the queue of its lowest lane. -/
  g : Nat := 0
  /-- The reads that bring its image from outside the package. -/
  far : List Nat := []
  deriving DecidableEq, Repr

/-- A station load in flight (14 R265): its source elements in station order, and its load in every queue of its
wave. -/
structure StationLoad where
  team : Nat
  w : Nat
  wk : Nat
  page : Page
  pages : List Page := []
  elems : List Elem
  g : Nat
  pc : Va
  words : W64
  deriving DecidableEq, Repr

/-- One write of an engine's output, for a line or a whole tile (07 R137, 11 R217): where it goes, its lines, its
bytes, the tile to be materialised first, whether its data is poisoned (26 R428), whether it has been sent to another
package or the host, how another package takes it (0 raw bytes, 12 a part of a raw tile, 13 an element), and the value of `wp` once
it is released. -/
structure OutLine where
  wp : Nat := 0
  va : Nat
  page : Page := {}
  target : Target
  lines : List Nat
  cells : List Host.Cell
  mats : List TileRef := []
  bad : Bool := false
  sent : Bool := false
  op : Nat := 0
  deriving DecidableEq, Repr

/-- An engine's entry, or a stream, in progress (07 R137, 15 R293, 13 R256). -/
structure Job where
  chain : Nat
  entry : Va
  asid : Nat
  vf : Nat
  kind : Nat
  seq : W64
  cw : W64
  /-- Whether its CW could not be read. -/
  noCw : Bool := false
  out : List OutLine
  owned : List Nat
  status : Nat
  faulted : Option FaultRec
  /-- Collectives: the group, this entry's place among those of the group, and the parameters checked. -/
  grp : W64 := 0
  turn : Nat := 0
  rank : Nat := 0
  body : List W64 := []
  inData : List W8 := []
  /-- Home counters after the lines released so far. -/
  vc : List Nat := [0, 0, 0, 0]
  /-- A stream's flags; 1 for a collective entry whose ranks have been matched. -/
  flags : W32 := 0
  deriving DecidableEq, Repr

/-- Collective data received from another package: group, turn, rank, chunk number and bytes (25 R421). -/
structure CollMsg where
  grp : W64
  turn : Nat
  rank : Nat
  chunk : Nat
  data : List W8
  deriving DecidableEq, Repr

/-- A command chain bound to an engine (15 R293): entries appended and not yet taken, each with the counts of
writes that its append released (07 R138, R139). -/
structure Chain where
  cb : Va
  asid : Nat
  vf : Nat
  next : List (Va × List Nat)
  /-- Entries taken whose CW waits for earlier ones (18 R336). -/
  done : List (Va × W64 × Nat × Bool) := []
  deriving DecidableEq, Repr

/-- An engine (15 R293): 32 numbers a die: 0 to 15 the copy channels, 16 gather, 17 collective, 18 top-k,
19 launch, 20 near-memory launch. -/
structure Engine where
  chains : List Chain := []
  job : Option Job := none
  /-- Collective groups: how many entries of each have been taken, and groups aborted (25 R420, R421). -/
  turns : Tbl Nat := []
  aborted : List W64 := []
  /-- The engine die's applied counts when `wp` last moved (15 R290). -/
  wpVc : List Nat := [0, 0, 0, 0]
  deriving DecidableEq, Repr

/-- A stream (13 R256), with a number of its own: waiting for earlier accesses, or running as a job. -/
structure StreamJob where
  sid : Nat
  wk : Nat
  tids : List Nat
  die : Nat
  asid : Nat
  vf : Nat
  dst : Va
  src : Va
  desc : Va
  k : Nat
  rnd : Nat
  hkey : W64
  hctr : W32
  tid40 : Nat
  flagTid : Nat
  gates : List Nat
  job : Option Job := none
  deriving DecidableEq, Repr

/-- Who asked for a launch (18 R336 to R338): a chain entry with its SEQ, or a host-queue slot. -/
inductive LSrc where
  | chain (e : Nat) (cb : Va) (entry : Va) (seq : W64)
  | slot (v q n : Nat) (seq : W64)
  deriving DecidableEq, Repr

/-- A push that DET holds (15 R288). -/
structure Push where
  list : Nat
  item : W64
  team : Nat
  wave : Nat
  lane : Nat
  order : Nat
  /-- The applied counts of the pushing die, which a pop acquires. -/
  vc : List Nat
  deriving DecidableEq, Repr

/-- The stages of a launch (18 R340, R341, R336). -/
inductive LStage where
  | taken
  | eligible
  | admitted
  | complete
  deriving DecidableEq, Repr

/-- A launch: its record (18 Table 18-1), and how far it is. -/
structure Launch where
  src : LSrc
  nm : Bool
  asid : Nat
  vf : Nat
  record : Va
  pc : Va := 0
  ctl : W64 := 0
  lev : List W8 := []
  ext : List Nat := []
  wait : W64 := 0
  waitv : W64 := 0
  /-- The read of its WAIT word outside the package (18 R340). -/
  waitAcc : Option Nat := none
  wlBase : W64 := 0
  wlCap : Nat := 0
  args : List W64 := []
  die : Nat := 0
  stage : LStage := .taken
  num : Nat := 0
  adie : Nat := 0
  since : Nat := 0
  /-- Home counters at the release it synchronises with (07 R139). -/
  rel : List Nat := [0, 0, 0, 0]
  /-- First team key and number of teams, once admitted. -/
  team0 : Nat := 0
  teams : Nat := 0
  status : Nat := 0
  reason : Nat := 0
  aborted : Bool := false
  /-- A near-memory launch that stops placing blocks (23 R402, R403). -/
  stopped : Bool := false
  /-- Work lists: items with the applied counts that a pop acquires; and those of every push so far. -/
  lists : List (List (W64 × List Nat)) := []
  pushed : List Nat := [0, 0, 0, 0]
  held : List Push := []
  /-- Lines of the work-list region, which the winnower owns (18 R352). -/
  owned : List Nat := []
  deriving DecidableEq, Repr

/-- Host-queue registers (18 Table 18-4). -/
structure HostQueue where
  base : W64 := 0
  size : W64 := 0
  tail : W64 := 0
  cw : W64 := 0
  head : W64 := 0
  en : Bool := false
  err : Bool := false
  ecode : Nat := 0
  asid : W64 := 0
  /-- The tail word as last read (18 R338, R339). -/
  seen : W64 := 0
  /-- Slots taken whose CW is not written yet: number, SEQ, status, and whether the launch is complete (18 R336). -/
  done : List (Nat × W64 × Nat × Bool) := []
  /-- Home counters at the last read of the tail word, which it acquires (18 R339). -/
  rel : List Nat := [0, 0, 0, 0]
  deriving DecidableEq, Repr

/-- A virtual function (25 Tables 25-6, 25-7). -/
structure Vf where
  en : Bool := false
  nfwd : Bool := false
  cenf : Bool := false
  rstBusy : Bool := false
  negd : Bool := false
  nerr : Bool := false
  cfgErr : Bool := false
  vfAsid : W64 := 0
  vfCore : Tbl W64 := []
  vfCol0 : W64 := 0xFFFFFFFFFFFFFFFF
  vfCol1 : W64 := 0xFFFFFFFFFFFFFFFF
  fabTag : W64 := 0
  feat : Tbl W64 := []
  queues : Tbl HostQueue := []
  deriving DecidableEq, Repr

/-- The state of a half-line of a host-bias page (25 R413); an absent one is I. -/
inductive Half where
  | s
  | m
  deriving DecidableEq, Repr

/-- A bias flip in progress (25 R415). -/
structure Flip where
  toDevice : Bool
  pages : List Nat
  auto : Bool
  /-- Accesses with a number from this one on are new and stall. -/
  gid : Nat := 0
  deriving DecidableEq, Repr

/-- The hub die: power, boot and mailbox registers (26 Table 26-9), error registers (26 Table 26-3), the
tenancy block (25 Table 25-6), firmware, bias bits and the clocks of the package. -/
structure Hub where
  pwrLim : W64 := 3000
  pwrNow : W64 := 0
  thrCnt : W64 := 0
  devStat : Nat := 6
  wipeStat : Bool := false
  lcState : Nat := 2
  mbCmd : W64 := 0
  mbStat : W64 := 0
  svn : Nat := 0
  slotA : List W8 := Config.bootImage
  slotB : List W8 := []
  /-- Which slot the next boot tries first, and which one this boot took (26 R434, R436). -/
  tryB : Bool := false
  activeB : Bool := false
  image : List W8 := Config.bootImage
  idKey : Bool := true
  aliasKey : List W8 := Config.deriveKey Config.deviceSecret (Config.sha384 Config.bootImage)
  /-- A wipe that a power loss leaves to the next boot (26 R433). -/
  wipePending : Bool := false
  err : ErrRegs := {}
  got : Tbl W64 := []
  hdmVf : Tbl W64 := []
  /-- HDM decoders: number, first DPA and size (25 R408, R410). -/
  hdm : Tbl (Nat × Nat) := []
  biasCmd : W64 := 0
  biasArg0 : W64 := 0
  biasArg1 : W64 := 0
  biasErr : Bool := false
  biasAuto : W64 := 0
  /-- 4 KiB pages (PA / 4,096) with device bias, half-lines (PA / 64) the host holds, and the flip. -/
  devBias : List Nat := []
  halves : Tbl Half := []
  flip : Option Flip := none
  /-- Snoops of half-lines sent and not answered: whether each invalidates (25 R414). -/
  snoops : Tbl Bool := []
  fabId : W64 := 0
  fabSize : W64 := 1
  fabErr : W64 := 0
  fabRt : Tbl W64 := []
  time : W64 := 0
  fatal : Bool := false
  linkUp : Bool := true
  portsDown : List Nat := []
  throttled : List Nat := []
  /-- Islands that THRCNT has counted in their epoch (26 Table 26-9). -/
  thrSeen : List Nat := []
  /-- The fence of each package drain in request order, with the counts it waits for (07 R125). -/
  token : Option (Nat × List Nat) := none
  /-- Sessions set up by key exchange (26 R440). -/
  sessions : Nat := 0
  deriving DecidableEq, Repr

/-- A package channel (07 R130, 25 R417): accesses waiting, accesses in flight, its route and sequence number. -/
structure Channel where
  q : List Nat := []
  flight : List Nat := []
  port : Option Nat := none
  seq : Nat := 0
  deriving DecidableEq, Repr

/-- What leaves the package. -/
inductive Out where
  | flit (port : Nat) (f : Flit)
  | host (die : Nat) (name : String) (addr : Nat) (bytes : List W8) (poison : Bool)
  | hostData (dpa : Nat) (bytes : List W8) (poison : Bool)
  | bisnp (name : String) (dpa : Nat)
  | msix (vector : Nat)
  | doe (bytes : List W8)
  | internalError
  deriving DecidableEq, Repr

/-- Memory (07, 17 R305): the home value of every byte, the backing values of scratch lines, poisoned lines
(PA / 128), reduce-state elements, and the sets of scratch restores owed (12 R229). Lists are in the
canonical form of `Memory.wf`. -/
structure Mem where
  home : List Host.Cell := []
  backing : List Host.Cell := []
  poison : List Nat := []
  reduce : List RedElem := []
  /-- Lines an `ld.dead` has read, with its die. -/
  restores : List (Nat × Nat) := []
  /-- Contributions numbered so far (23 R394). -/
  redSeq : Nat := 0
  deriving DecidableEq, Repr

/-- A turn: a sheaf issues, or the device or an outside party takes a step. -/
inductive Turn where
  | issue (k : Nat)
  | event (i : Instr)
  deriving DecidableEq, Repr

/-- The whole state. -/
structure State where
  agenda : List Turn := []
  /-- The next free value (log entry 3), and the next number for an access, a team or a launch. -/
  free : Nat := 0
  next : Nat := 1
  mem : Mem := {}
  dies : Tbl Die := []
  execs : Tbl Core := []
  sheaves : List Sheaf := []
  teams : Tbl Team := []
  waves : Tbl Wave := []
  threads : Tbl Thread := []
  accs : Tbl Acc := []
  launches : Tbl Launch := []
  waits : List Wait := []
  bars : Tbl (List Nat) := []
  ringLoads : List RingLoad := []
  stationLoads : List StationLoad := []
  engines : Tbl Engine := []
  streams : List StreamJob := []
  coll : List CollMsg := []
  vfs : Tbl Vf := []
  hub : Hub := {}
  chans : Tbl Channel := []
  inbound : Tbl (List Flit) := []
  out : List Out := []
  icache : Tbl (List W8) := []
  deriving DecidableEq, Repr

/-- What a byte of memory that nothing has written reads as: the wipe writes zeros (26 R433).
Log 4 (DESIGN CHOICE, unsafe). -/
def unwrittenByte : W8 := 0

/-- The machine right after reset: boot has reached READY (26 Table 26-5), every register at the value its
table gives, memory and every SRAM zero (26 R433), nothing launched. -/
def State.reset : State := {}

end Sys2Proof.Machine
end

