-- ==== Sys2Proof/Machine/Memory.lean ====
section
/-! DEFINITION. Memory as a list of (address, byte) pairs in one canonical form: addresses strictly rising,
and no entry that equals what an unlisted address reads as. -/

namespace Sys2Proof.Machine

/-- The byte at an address. Log 4 (DESIGN CHOICE, unsafe). -/
def memGet (m : List Host.Cell) (a : Nat) : W8 :=
  match m with
  | [] => unwrittenByte
  | (i, b) :: r => if i = a then b else memGet r a

/-- The memory with byte `b` at `a`, in canonical form. Log 4 (DESIGN CHOICE, unsafe). -/
def memSet (m : List Host.Cell) (a : Nat) (b : W8) : List Host.Cell :=
  match m with
  | [] => if b = unwrittenByte then [] else [(a, b)]
  | (i, c) :: r =>
    if i = a then (if b = unwrittenByte then r else (a, b) :: r)
    else if a < i then (if b = unwrittenByte then (i, c) :: r else (a, b) :: (i, c) :: r)
    else (i, c) :: memSet r a b

/-- The memory with every listed byte written, in order. -/
def memSetAll (m : List Host.Cell) (c : List Host.Cell) : List Host.Cell :=
  c.foldl (fun m e => memSet m e.1 e.2) m

/-- The canonical form: addresses above `lo` strictly rising, no entry equal to an unwritten byte. -/
def memWfFrom (lo : Nat) : List Host.Cell → Bool
  | [] => true
  | (a, b) :: r => lo ≤ a && b ≠ unwrittenByte && memWfFrom (a + 1) r

/-- The canonical form of one memory. -/
def memWf (m : List Host.Cell) : Bool := memWfFrom 0 m

/-- The canonical form of everything `Mem` holds. -/
def Memory.wf (m : Mem) : Bool := memWf m.home && memWf m.backing

/-- `n` bytes from `a`, as a number, least significant first. -/
def memNat (m : List Host.Cell) (a : Nat) : Nat → Nat
  | 0 => 0
  | n + 1 => (memGet m a).toNat + 256 * memNat m (a + 1) n

/-- `n` bytes from `a`. -/
def memBytes (m : List Host.Cell) (a n : Nat) : List W8 := (upto n).map (fun i => memGet m (a + i))

/-- The bytes of a number, least significant first. -/
def natBytes (v : Nat) : Nat → List W8
  | 0 => []
  | n + 1 => BitVec.ofNat 8 v :: natBytes (v / 256) n

/-- Bytes as a number, least significant first. -/
def bytesNat : List W8 → Nat
  | [] => 0
  | b :: r => b.toNat + 256 * bytesNat r

/-- Cells for bytes from `a` on. -/
def cellsAt (a : Nat) (b : List W8) : List Host.Cell :=
  match b with
  | [] => []
  | x :: r => (a, x) :: cellsAt (a + 1) r

/-- The line of an address (07: 128 bytes). -/
def lineOf (a : Nat) : Nat := a / lineBytes

/-- A list without repeats, in order of first occurrence. -/
def dedup (l : List Nat) : List Nat := l.foldl (fun a x => if a.contains x then a else a ++ [x]) []

/-- The lines of `n` bytes from `a`. -/
def linesOf (a n : Nat) : List Nat :=
  if n = 0 then [] else (upto (lineOf (a + n - 1) - lineOf a + 1)).map (· + lineOf a)

/-- The lines of cells. -/
def cellLines (c : List Host.Cell) : List Nat := dedup (c.map (fun e => lineOf e.1))

end Sys2Proof.Machine
end

