-- ==== Sys2Proof/Machine/Access.lean ====
section
/-! DEFINITION. Reading and changing the parts of the state by key, and the numbering of threads, waves,
teams, executors and dies. -/

namespace Sys2Proof.Machine

/-- Thread key to wave key, team key, lane and index in the team (01 R6, R14). -/
def wkOf (tid : Nat) : Nat := tid / 32
/-- The team of a thread. -/
def tkOf (tid : Nat) : Nat := tid / 1024
/-- The team of a wave. -/
def tkOfW (wk : Nat) : Nat := wk / 32
/-- The lane number. -/
def laneOf (tid : Nat) : Nat := tid % 32
/-- The thread's index in its team. -/
def idxOf (tid : Nat) : Nat := tid % 1024
/-- The wave's index in its team. -/
def waveIdx (wk : Nat) : Nat := wk % 32

/-- The C-die an executor counts as a core of (23 R399). -/
def dieOfCore (c : Nat) : Nat := if c < nCores then c / coresPerDie else (c - nCores) / seqPerStack / 4
/-- The cluster of a core (00). -/
def clusterOf (c : Nat) : Nat := c / 4
/-- Whether an executor is a sequencer. -/
def isSeq (c : Nat) : Bool := nCores ≤ c
/-- The stack of a sequencer. -/
def stackOf (c : Nat) : Nat := (c - nCores) / seqPerStack

def State.thread (s : State) (k : Nat) : Thread := tgetD s.threads k {}
def State.wave (s : State) (k : Nat) : Wave := tgetD s.waves k {}
def State.core (s : State) (k : Nat) : Core := tgetD s.execs k {}
def State.die (s : State) (k : Nat) : Die := tgetD s.dies k {}
def State.vf (s : State) (k : Nat) : Vf := tgetD s.vfs k {}
def State.engine (s : State) (k : Nat) : Engine := tgetD s.engines k {}

def State.modThread (s : State) (k : Nat) (f : Thread → Thread) : State :=
  { s with threads := tmap s.threads k f }
def State.modThreads (s : State) (ks : List Nat) (f : Nat → Thread → Thread) : State :=
  { s with threads := tmapOn s.threads ks f }
def State.modWave (s : State) (k : Nat) (f : Wave → Wave) : State := { s with waves := tmap s.waves k f }
def State.modTeam (s : State) (k : Nat) (f : Team → Team) : State := { s with teams := tmap s.teams k f }
def State.modCore (s : State) (k : Nat) (f : Core → Core) : State :=
  { s with execs := tset s.execs k (f (s.core k)) }
def State.modDie (s : State) (k : Nat) (f : Die → Die) : State := { s with dies := tset s.dies k (f (s.die k)) }
def State.modVf (s : State) (k : Nat) (f : Vf → Vf) : State := { s with vfs := tset s.vfs k (f (s.vf k)) }
def State.modHub (s : State) (f : Hub → Hub) : State := { s with hub := f s.hub }
def State.modMem (s : State) (f : Mem → Mem) : State := { s with mem := f s.mem }
def State.modLaunch (s : State) (k : Nat) (f : Launch → Launch) : State :=
  { s with launches := tmap s.launches k f }
def State.modAcc (s : State) (k : Nat) (f : Acc → Acc) : State := { s with accs := tmap s.accs k f }
def State.modEngine (s : State) (k : Nat) (f : Engine → Engine) : State :=
  { s with engines := tset s.engines k (f (s.engine k)) }

/-- A fresh number. -/
def State.fresh (s : State) : Nat × State := (s.next, { s with next := s.next + 1 })

/-- A free value (log entry 3). Log 3 (DESIGN CHOICE, unsafe). -/
def State.takeFree (s : State) : W64 × State := (Config.freeValue s.free, { s with free := s.free + 1 })

/-- The keys of a table. -/
def keys {α : Type} (t : Tbl α) : List Nat := t.map (·.1)

/-- The threads of a wave and of a team, present in the state. -/
def State.threadsOf (s : State) (wk : Nat) : List Nat := (keys s.threads).filter (fun t => wkOf t = wk)
def State.teamThreads (s : State) (tk : Nat) : List Nat := (keys s.threads).filter (fun t => tkOf t = tk)

/-- Whether a thread has exited. -/
def State.exited (s : State) (tid : Nat) : Bool := (s.thread tid).stat = .exited

/-- The non-exited threads of a wave: W of 13 R242. -/
def State.liveOf (s : State) (wk : Nat) : List Nat := (s.threadsOf wk).filter (fun t => !s.exited t)
/-- The non-exited threads of a team. -/
def State.teamLive (s : State) (tk : Nat) : List Nat := (s.teamThreads tk).filter (fun t => !s.exited t)

/-- The executor of a team, 0 when it has none. -/
def State.coreOf (s : State) (tk : Nat) : Nat :=
  match tget s.teams tk with
  | some t => t.core.getD 0
  | none => 0

/-- The die of a team's executor. -/
def State.dieOfTeam (s : State) (tk : Nat) : Nat :=
  match tget s.teams tk with
  | some t => match t.core with | some c => dieOfCore c | none => t.die
  | none => 0

/-- The function and address space of a team. -/
def State.vfOf (s : State) (tk : Nat) : Nat := match tget s.teams tk with | some t => t.vf | none => 0
/-- The address space a thread's accesses use: its team's, or TASID in a handler (20 R364). -/
def State.asidOf (s : State) (tid : Nat) : Nat :=
  let tk := tkOf tid
  if (s.thread tid).sup then
    bits (tgetD (s.die (s.dieOfTeam tk)).vfs (s.vfOf tk) {}).tctl.toNat 15 0
  else match tget s.teams tk with | some t => t.asid | none => 0

/-- The launch of a team. -/
def State.launchOf (s : State) (tk : Nat) : Option Launch :=
  match tget s.teams tk with | some t => tget s.launches t.launch | none => none

/-- The product of the elements of a list. -/
def prodL (l : List Nat) : Nat := l.foldl (· * ·) 1

/-- The logical thread id (01 R14). -/
def logicalTid (t : Thread) : Nat :=
  (upto 8).foldl (fun a k =>
    a + (t.lv.getD k 0).toNat * prodL ((upto k).map (fun j => (t.ln.getD j 1).toNat))) 0

/-- The DET flag of a team's launch. -/
def State.isDet (s : State) (tk : Nat) : Bool := match tget s.teams tk with | some t => t.det | none => false

/-- FEAT0 bit `b` of a function (25 R423, Table 25-8). Log 21 (DEDUCED, unsafe). Log 110 (DEDUCED, unsafe). -/
def State.feature (s : State) (v b : Nat) : Bool := bitAt (tgetD (s.vf v).feat 0 0).toNat b

/-- The enabled function that owns an address space (25 R422). Log 21 (DEDUCED, unsafe). -/
def State.ownerOfAsid (s : State) (asid : Nat) : Option Nat :=
  ((s.vfs.filter (fun e => e.2.en &&
    bits e.2.vfAsid.toNat 15 0 ≤ asid && asid < bits e.2.vfAsid.toNat 15 0 + bits e.2.vfAsid.toNat 31 16)).head?).map (·.1)

/-- Whether a physical address lies in the map of 17 R305. Log 23 (DEDUCED, unsafe). -/
def paOk (pa : Nat) : Bool := pa < 2 ^ 40 && bits pa 35 0 < stackBytes

/-- The device physical address of a PA, and back (25 R410). -/
def dpaOf (pa : Nat) : Nat := bits pa 39 36 * stackBytes + bits pa 35 0
/-- See `dpaOf`. -/
def paOfDpa (d : Nat) : Nat := d / stackBytes * 2 ^ 36 + d % stackBytes

/-- The die a frame's stack is attached to (17 R305). -/
def dieOfPa (pa : Nat) : Nat := bits pa 39 36 / 4

/-- Whether a PA lies in a range exposed as HDM (25 R408, R410). -/
def State.isHdm (s : State) (pa : Nat) : Bool :=
  s.hub.hdm.any (fun e => e.2.1 ≤ dpaOf pa && dpaOf pa < e.2.1 + e.2.2)

/-- Whether a line lies on an HDM page with host bias, which no cache of the device holds (25 R413). -/
def State.hostBias (s : State) (line : Nat) : Bool := s.isHdm (line * lineBytes) && !s.hub.devBias.contains (line / 32)

/-- The last byte that cells give an address. -/
def cellGet (c : List Host.Cell) (a : Nat) : Option W8 :=
  c.foldl (fun r e => if e.1 = a then some e.2 else r) none

/-- The cells of a content. -/
def Content.cells? : Content → List Host.Cell
  | .cells c => c
  | .red _ _ _ _ => []

/-- The contents applied to a die view by time `t`, oldest first. -/
def Die.applied (d : Die) (t : Nat) : List Content := (d.log.filter (fun e => e.t ≤ t)).flatMap (·.content)

/-- The byte of a die view at time `t`, contributions apart. -/
def Die.cellByte (d : Die) (t a : Nat) : W8 :=
  (d.applied t).foldl (fun b c => (cellGet c.cells? a).getD b) (memGet d.view a)

/-- `n` bytes from `a` as a number, in a die's view at its clock, contributions apart. -/
def Die.viewNat (d : Die) (a n : Nat) : Nat := bytesNat ((upto n).map (fun i => d.cellByte d.clock (a + i)))

/-- The addresses that a die's view lists. -/
def Die.listed (d : Die) : List Nat := d.view.map (·.1) ++ d.log.flatMap (fun e => e.content.flatMap (fun c => c.cells?.map (·.1)))

/-- Stops for a step that its rule does not enable. -/
def notEnabled (m : String) : Host.Outcome State Fault Refusal := .fault (.notEnabled m)

end Sys2Proof.Machine
end

