-- ==== Sys2Proof/Machine/Grid.lean ====
section
/-! DEFINITION. The levels of a launch: extents, domains, scopes, teams and instances (01 R12 to R14, 18 R335,
R342, Tables 18-1, 18-2). -/

namespace Sys2Proof.Machine

/-- `c.ln`*k* of a launch (01 R13). -/
def Launch.ln (l : Launch) (k : Nat) : Nat := if k = 0 then 32 else l.ext.getD k 1

/-- TOP (18 Table 18-2). -/
def Launch.top (l : Launch) : Nat := bits l.ctl.toNat 2 0
/-- PRIO. -/
def Launch.prio (l : Launch) : Nat := bits l.ctl.toNat 6 4
/-- DET. -/
def Launch.det (l : Launch) : Bool := bitAt l.ctl.toNat 3
/-- IDEM. -/
def Launch.idem (l : Launch) : Bool := bitAt l.ctl.toNat 7
/-- SPB. -/
def Launch.spb (l : Launch) : Nat := bits l.ctl.toNat 22 16
/-- ACC. -/
def Launch.accTiles (l : Launch) : Nat := bits l.ctl.toNat 27 23
/-- WLN. -/
def Launch.wln (l : Launch) : Nat := bits l.ctl.toNat 36 32

/-- The LEV byte of a level from 2 up. -/
def Launch.levByte (l : Launch) (k : Nat) : Nat := (l.lev.getD (k - 2) 0).toNat
/-- The domain of a level: 1 core, 2 cluster, 3 die, 4 package, 5 domain; a wave's is 0. -/
def Launch.dom (l : Launch) (k : Nat) : Nat := if k < 2 then 0 else bits (l.levByte k) 2 0
/-- The scope of a level, by the SCO codes of 05 Table 5-3. -/
def Launch.scopeOf (l : Launch) (k : Nat) : Nat := if k < 2 then 1 else bits (l.levByte k) 6 4

/-- The levels of a launch from 2 up. -/
def Launch.levels (l : Launch) : List Nat := (upto (l.top + 1)).filter (2 ≤ ·)

/-- The team level: the highest level bound to core (18 R335). -/
def Launch.teamLevel (l : Launch) : Nat := (l.levels.filter (fun k => l.dom k = 1)).foldl max 0

/-- Waves of one instance of level `k`: the product of the extents from 1 to `k` - 1. -/
def Launch.wavesAt (l : Launch) (k : Nat) : Nat := prodL (((upto k).filter (1 ≤ ·)).map l.ln)

/-- Waves of a team. -/
def Launch.teamWaves (l : Launch) : Nat := l.wavesAt l.teamLevel

/-- Teams of a launch. -/
def Launch.teamCount (l : Launch) : Nat :=
  prodL (((upto (l.top + 1)).filter (l.teamLevel ≤ ·)).map l.ln)

/-- The logical wave index of a wave of team number `idx` (01 R14). -/
def Launch.logicalWave (l : Launch) (idx w : Nat) : Nat := idx * l.teamWaves + w

/-- The index of the level-`k` instance that holds a logical wave. -/
def Launch.instOf (l : Launch) (k lw : Nat) : Nat := lw / l.wavesAt k

/-- The lowest level bound to die or wider, if any (18 R342). -/
def Launch.dieLevel (l : Launch) : Option Nat := (l.levels.filter (fun k => 3 ≤ l.dom k)).head?

/-- `c.lv`*k* of a thread of a logical wave (01 R13). -/
def Launch.lvOf (l : Launch) (k lane lw : Nat) : Nat :=
  if k = 0 then lane
  else if l.top < k then 0
  else l.instOf k lw % l.ln k

/-- The logical wave index of a wave, by its key. -/
def State.logicalWave (s : State) (wk : Nat) : Nat :=
  match tget s.teams (tkOfW wk) with
  | some t => match tget s.launches t.launch with
    | some l => l.logicalWave t.idx (waveIdx wk)
    | none => waveIdx wk
  | none => 0

/-- The level-`k` instance of a wave. -/
def State.instOf (s : State) (k wk : Nat) : Nat :=
  match s.launchOf (tkOfW wk) with
  | some l => l.instOf k (s.logicalWave wk)
  | none => 0

/-- The keys of a launch's teams. -/
def State.teamsOf (s : State) (l : Nat) : List Nat := (s.teams.filter (fun e => e.2.launch = l)).map (·.1)

/-- The threads of the level-`k` instance number `inst` of a launch; level 8 stands for the launch (07 R136). -/
def State.instThreads (s : State) (l k inst : Nat) : List Nat :=
  (keys s.threads).filter (fun t =>
    (match tget s.teams (tkOf t) with | some x => x.launch = l | none => false) &&
    (k = 8 || s.instOf k (wkOf t) = inst))

end Sys2Proof.Machine
end

