-- ==== Sys2Proof/Machine/Formats.lean ====
section
/-! DEFINITION. The number formats (03): what each encoding stands for, exactly. A format is named by its
code of 01 Table 1-12. -/

namespace Sys2Proof.Machine

/-- The exact value of an encoding: a NaN with its signalling bit, an infinity, or `(-1)^neg m 2^e`. A zero
keeps its sign. -/
inductive Val where
  | nan (sig : Bool)
  | inf (neg : Bool)
  | fin (neg : Bool) (m : Nat) (e : Int)
  deriving DecidableEq, Repr

/-- Fields of a float format (03 Table 3-2): exponent and fraction widths, and bias. -/
structure FInfo where
  eb : Nat
  mb : Nat
  bias : Int
  deriving DecidableEq, Repr

/-- 03 Table 3-2, by format code; binary32 for a code that is no float's. -/
def finfo (c : Nat) : FInfo :=
  if c = 0 then ⟨11, 52, 1023⟩ else if c = 2 then ⟨5, 10, 15⟩ else if c = 3 then ⟨8, 7, 127⟩
  else if c = 4 then ⟨4, 3, 7⟩ else if c = 5 then ⟨5, 2, 15⟩ else if c = 6 then ⟨3, 2, 3⟩
  else if c = 7 then ⟨2, 3, 1⟩ else if c = 8 then ⟨2, 1, 1⟩ else ⟨8, 23, 127⟩

/-- binary64 to E2M1 (03 R56). -/
def isFloat (c : Nat) : Bool := c ≤ 8
/-- The four IEEE formats, which have infinities and signalling NaNs (03 R57). -/
def isIeee (c : Nat) : Bool := c ≤ 3
/-- The eight integer formats (03 R60). -/
def isInt (c : Nat) : Bool := 10 ≤ c && c ≤ 17
/-- The signed ones. -/
def isSigned (c : Nat) : Bool := 10 ≤ c && c ≤ 13

/-- Bits of an element of a format in memory; raw bytes count as bytes (01 Table 1-12). -/
def fmtWidth (c : Nat) : Nat :=
  if c = 0 || c = 13 || c = 17 then 64
  else if c = 1 || c = 12 || c = 16 || c = 20 then 32
  else if c = 2 || c = 3 || c = 11 || c = 15 || c = 19 || c = 21 then 16
  else if c = 6 || c = 7 || c = 18 then 6
  else if c = 8 then 4
  else 8

/-- The LG6 table T (03 R61). -/
def lg6T (g : Nat) : Nat :=
  if g = 0 then 0x8000 else if g = 1 then 0x9838 else if g = 2 then 0xB505 else 0xD745

/-- The table value for an exponent `k` in quarters: `T[g] 2^(n-15)` (03 R61, R62). -/
def lg6Value (k : Int) : Nat × Int := (lg6T (k.emod 4).toNat, k.ediv 4 - 15)

/-- A two's-complement or natural value (03 R60). -/
def intVal (signed : Bool) (w bits : Nat) : Int :=
  let b := bits % 2 ^ w
  if signed && 2 ^ (w - 1) ≤ b then (b : Int) - (2 ^ w : Nat) else b

/-- An integer as an exact value. -/
def Val.ofInt (x : Int) : Val := .fin (x < 0) x.natAbs 0

/-- The value of an encoding of format `c` (03 R56 to R61). -/
def decodeVal (c bits : Nat) : Val :=
  if isFloat c then
    let f := finfo c
    let s := bitAt bits (f.eb + f.mb)
    let e := (bits / 2 ^ f.mb) % 2 ^ f.eb
    let m := bits % 2 ^ f.mb
    if (isIeee c || c = 5) && e = 2 ^ f.eb - 1 then
      if m = 0 then .inf s else .nan (isIeee c && !bitAt bits (f.mb - 1))
    else if c = 4 && e = 15 && m = 7 then .nan false
    else if e = 0 then .fin s m (1 - f.bias - f.mb)
    else .fin s (2 ^ f.mb + m) ((e : Int) - f.bias - f.mb)
  else if c = 9 then
    if bits % 256 = 255 then .nan false else .fin false 1 ((bits % 256 : Nat) - 127)
  else if isInt c then Val.ofInt (intVal (isSigned c) (fmtWidth c) bits)
  else if c = 18 then
    let k := intVal true 5 bits
    let s := bitAt bits 5
    if k = -16 then .fin s 0 0 else let (t, n) := lg6Value k; .fin s t n
  else Val.ofInt (bits % 2 ^ fmtWidth c)

/-- The default NaN of a format that has NaNs (03 Table 3-3); 0 otherwise. -/
def defaultNan (c : Nat) : Nat :=
  if c = 0 then 0x7FF8000000000000 else if c = 1 then 0x7FC00000 else if c = 2 then 0x7E00
  else if c = 3 then 0x7FC0 else if c = 4 then 0x7F else if c = 5 then 0x7E else if c = 9 then 0xFF else 0

/-- The infinity of a format that has one. -/
def infBits (c : Nat) (neg : Bool) : Nat :=
  let f := finfo c
  (2 ^ f.eb - 1) * 2 ^ f.mb + (if neg then 2 ^ (f.eb + f.mb) else 0)

/-- Zero with a sign. -/
def zeroBits (c : Nat) (neg : Bool) : Nat :=
  if c = 18 then (if neg then 0x30 else 0x10)
  else if isFloat c then let f := finfo c; if neg then 2 ^ (f.eb + f.mb) else 0
  else 0

/-- The largest finite encoding's magnitude, without the sign (03 Tables 3-2, 3-3). -/
def maxFinite (c : Nat) : Nat :=
  let f := finfo c
  if c = 4 then 0x7E
  else if isIeee c || c = 5 then (2 ^ f.eb - 1) * 2 ^ f.mb - 1
  else 2 ^ (f.eb + f.mb) - 1

/-- Comparison of `(-1)^s m 2^e` values as reals. -/
def cmpReal (s1 : Bool) (m1 : Nat) (e1 : Int) (s2 : Bool) (m2 : Nat) (e2 : Int) : Ordering :=
  let e := min e1 e2
  let a : Int := (m1 * 2 ^ (e1 - e).toNat : Nat)
  let b : Int := (m2 * 2 ^ (e2 - e).toNat : Nat)
  compare (if s1 then -a else a) (if s2 then -b else b)

/-- Comparison of two values that are no NaN: the reals, with the infinities at the ends. -/
def cmpVal (x y : Val) : Ordering :=
  match x, y with
  | .inf a, .inf b => if a = b then .eq else if a then .lt else .gt
  | .inf a, _ => if a then .lt else .gt
  | _, .inf b => if b then .gt else .lt
  | .fin s m e, .fin t n f => cmpReal s m e t n f
  | _, _ => .eq

/-- Whether a value is a NaN. -/
def Val.isNan : Val → Bool
  | .nan _ => true
  | _ => false

/-- Whether a value is a signalling NaN. -/
def Val.isSig : Val → Bool
  | .nan s => s
  | _ => false

/-- The sign of a value; a NaN counts as positive. -/
def Val.neg : Val → Bool
  | .nan _ => false
  | .inf s => s
  | .fin s _ _ => s

/-- Whether a value is a zero. -/
def Val.isZero : Val → Bool
  | .fin _ m _ => m = 0
  | _ => false

/-- The total order (03 R70, R71): NaN above everything and equal to NaN, -0 below +0. -/
def tord (x y : Val) : Ordering :=
  match x.isNan, y.isNan with
  | true, true => .eq
  | true, false => .gt
  | false, true => .lt
  | false, false =>
    if x.isZero && y.isZero then
      if x.neg = y.neg then .eq else if x.neg then .lt else .gt
    else cmpVal x y

/-- The value with its sign inverted. -/
def Val.negate : Val → Val
  | .nan s => .nan s
  | .inf s => .inf (!s)
  | .fin s m e => .fin (!s) m e

end Sys2Proof.Machine
end

