-- ==== Sys2Proof/Machine/Round.lean ====
section
/-! DEFINITION. Rounding (04 R72 to R76): an exact magnitude, the choice each mode makes between its
neighbours, and the overflow and flag rules. -/

namespace Sys2Proof.Machine

/-- Bits of `c.fcr` (01 Table 1-7). -/
def fNV : W32 := 0x100
def fDZ : W32 := 0x200
def fOF : W32 := 0x400
def fUF : W32 := 0x800
def fNX : W32 := 0x1000
def fINFSAT : W32 := 0x2000
def fIDIV : W32 := 0x4000
def fIOV : W32 := 0x8000
def fLATCH : W32 := 0x10000
def fFREED : W32 := 0x20000
def fILLMOD : W32 := 0x40000

/-- The magnitude of an exact result: `m 2^e`; `n/d 2^e`; the square root of `n/d 2^e`; or an irrational
known to lie strictly between `n/2^p` and `(n+1)/2^p`. -/
inductive Mag where
  | dy (m : Nat) (e : Int)
  | rat (n d : Nat) (e : Int)
  | root (n d : Nat) (e : Int)
  | between (n p : Nat)
  deriving DecidableEq, Repr

/-- Newton's iteration for the integer square root, from above. -/
def isqrtFrom (n : Nat) : Nat → Nat → Nat
  | 0, x => x
  | fuel + 1, x =>
    let y := (x + n / x) / 2
    if y < x then isqrtFrom n fuel y else x

/-- The integer square root, rounded down. -/
def isqrt (n : Nat) : Nat := if n = 0 then 0 else isqrtFrom n (n.log2 + 2) (2 ^ (n.log2 / 2 + 1))

/-- `⌊n 2^k / d⌋` and whether anything is cut off. -/
def floorDiv (n d : Nat) (k : Int) : Nat × Bool :=
  if 0 ≤ k then
    let a := n * 2 ^ k.toNat
    (a / d, a % d ≠ 0)
  else
    let b := d * 2 ^ (-k).toNat
    (n / b, n % b ≠ 0)

/-- `⌊|x| 2^k⌋` and whether anything is cut off. -/
def Mag.floorAt (x : Mag) (k : Int) : Nat × Bool :=
  match x with
  | .dy m e => floorDiv m 1 (k + e)
  | .rat n d e => floorDiv n d (k + e)
  | .root n d e =>
    let (q, st) := floorDiv n d (2 * k + e)
    let r := isqrt q
    (r, st || r * r ≠ q)
  | .between n p => if (p : Int) ≤ k then (n * 2 ^ (k - p).toNat, true) else (n / 2 ^ ((p : Int) - k).toNat, true)

/-- `⌊log₂ |x|⌋` for a non-zero magnitude. -/
def Mag.log2 (x : Mag) : Int :=
  match x with
  | .dy m e => (m.log2 : Int) + e
  | .rat n d e =>
    let g : Int := (n.log2 : Int) - d.log2
    (if (floorDiv n d (-g)).1 = 0 then g - 1 else g) + e
  | .root n d e =>
    let g : Int := (n.log2 : Int) - d.log2
    ((if (floorDiv n d (-g)).1 = 0 then g - 1 else g) + e).ediv 2
  | .between n p => if n = 0 then -(p : Int) - 1 else (n.log2 : Int) - p

/-- Whether a magnitude is zero. -/
def Mag.isZero (x : Mag) : Bool :=
  match x with
  | .dy m _ => m = 0
  | .rat n _ _ => n = 0
  | .root n _ _ => n = 0
  | .between _ _ => false

/-- Whether a mode takes the neighbour away from zero (04 Table 4-1, R74). `lo` is the nearer one's parity
(even), `f` the first 17 bits of the distance from it, `st` whether more follows; `r` is the random value. -/
def roundsAway (mode : Nat) (neg even : Bool) (f : Nat) (st : Bool) (r : Nat) : Bool :=
  if f = 0 && !st then false
  else if mode = 1 then false
  else if mode = 2 then !neg
  else if mode = 3 then neg
  else if mode = 4 then 65536 ≤ f
  else if mode = 5 then 2 * r < f || (2 * r = f && st)
  else 65536 < f || (f = 65536 && (st || !even))

/-- A magnitude as a multiple of `2^q`, rounded, and whether it was inexact. -/
def roundAt (mode r : Nat) (neg : Bool) (x : Mag) (q : Int) : Nat × Bool :=
  let (v, st) := x.floorAt (17 - q)
  let lo := v / 2 ^ 17
  let f := v % 2 ^ 17
  (if roundsAway mode neg (lo % 2 = 0) f st r then lo + 1 else lo, f ≠ 0 || st)

/-- The encoding of `m 2^q` in a float format, which holds it. -/
def packFloat (c : Nat) (neg : Bool) (m : Nat) (q : Int) : Nat :=
  let f := finfo c
  let s := if neg then 2 ^ (f.eb + f.mb) else 0
  let (m, q) := if m = 2 ^ (f.mb + 1) then (2 ^ f.mb, q + 1) else (m, q)
  if m < 2 ^ f.mb then s + m
  else s + (q + f.mb + f.bias).toNat * 2 ^ f.mb + (m - 2 ^ f.mb)

/-- `round(x, c, mode)` for a float format (04 R72 to R76): the encoding and the flags. A destination
saturates unless `ieee` says that it overflows to infinity. -/
def roundFloat (c mode r : Nat) (ieee neg : Bool) (x : Mag) : Nat × W32 :=
  if x.isZero then (zeroBits c neg, 0)
  else
    let f := finfo c
    let emin : Int := 1 - f.bias
    let e := x.log2
    let q := max e emin - f.mb
    let (m, inexact) := roundAt mode r neg x q
    let big := maxFinite c
    let ovf : Bool := match decodeVal c big with
      | .fin _ mm me => cmpReal false m q false mm me == .gt
      | _ => false
    let s := if neg then 2 ^ (f.eb + f.mb) else 0
    if ovf then
      let toInf := ieee && (if mode = 1 then false else if mode = 2 then !neg else if mode = 3 then neg else true)
      (if toInf then infBits c neg else s + big, fOF ||| fNX)
    else
      let fl := if inexact then (if e < emin then fUF ||| fNX else fNX) else 0
      (if m = 0 then zeroBits c neg else packFloat c neg m q, fl)

/-- The largest `k` of the LG6 table, continued both ways, whose value is at most `m 2^e` (03 R61). -/
def lg6Floor (m : Nat) (e : Int) : Int :=
  let n : Int := (m.log2 : Int) + e
  let le (g : Nat) : Bool := cmpReal false (lg6T g) (n - 15) false m e ≠ .gt
  4 * n + (if le 3 then 3 else if le 2 then 2 else if le 1 then 1 else 0)

/-- Rounding to LG6 (04 R73, R75, 09 R178): the code, and the flags. -/
def roundLg6 (mode r : Nat) (neg : Bool) (m : Nat) (e : Int) : Nat × W32 :=
  let s := if neg then 0x20 else 0
  if m = 0 then (s + 0x10, 0)
  else
    let k0 := lg6Floor m e
    let tiny := k0 < -15
    let k := if tiny then -16 else k0
    let (tl, el) : Nat × Int := if tiny then (0, 0) else lg6Value k
    let (th, eh) := lg6Value (k + 1)
    let b := min e (min el eh)
    let at' (t : Nat) (x : Int) : Nat := t * 2 ^ (x - b).toNat
    let num := at' m e - at' tl el
    let den := at' th eh - at' tl el
    let f := num * 2 ^ 17 / den
    let st := num * 2 ^ 17 % den ≠ 0
    let inexact := num ≠ 0
    let kr := if roundsAway mode neg (k % 2 = 0) f st r then k + 1 else k
    if 15 < kr then (s + 0x0F, fOF ||| fNX)
    else (s + (kr.emod 32).toNat, if inexact then (if tiny then fUF ||| fNX else fNX) else 0)

/-- Rounding to an integer format, which saturates (04 CV9): the code and the flags. -/
def roundInt (c mode r : Nat) (neg : Bool) (x : Mag) : Nat × W32 :=
  let w := fmtWidth c
  let (m, inexact) := if x.isZero then (0, false) else roundAt mode r neg x 0
  let v : Int := if neg then -(m : Int) else m
  let lo : Int := if isSigned c then -(2 ^ (w - 1) : Nat) else 0
  let hi : Int := if isSigned c then (2 ^ (w - 1) : Nat) - 1 else (2 ^ w : Nat) - 1
  if v < lo then ((lo.emod (2 ^ w : Nat)).toNat, fNV)
  else if hi < v then (hi.toNat, fNV)
  else ((v.emod (2 ^ w : Nat)).toNat, if inexact then fNX else 0)

/-- A rounding context: the mode as a code of `c.fcr.RM`, and the random value for each E (04 R79). -/
structure RCtx where
  mode : Nat
  rand : Nat → Nat

end Sys2Proof.Machine
end

