-- ==== Sys2Proof/Machine/Func.lean ====
section
/-! DEFINITION. The exact values of the single-operand functions (09 Table 9-5), as magnitudes that `round`
takes: quotients and roots exactly, the transcendental ones by enclosures narrow enough to round. -/

namespace Sys2Proof.Machine

/-- An enclosure `[lo, hi]` of an irrational scaled by `2^w`, as a magnitude known to `p` bits; the value is
left free where the enclosure does not decide it (log entry 9). Log 9 (DEDUCED, safe). -/
def enclosed (lo hi : Int) (w p : Nat) : Mag :=
  let d : Int := (2 ^ (w - p) : Nat)
  let n := lo.ediv d
  if n = hi.ediv d && 0 ≤ n && p ≤ w then .between n.toNat p
  else .between (Config.undecidedFunction (lo.toNat + hi.toNat)) p

/-- `2^(f / 2^j)` for the lowest `j` bits of `f`, as an enclosure scaled by `2^w`: the factors
`2^(2^-i)` come from repeated square roots, `lo` and `hi` enclosing the current one. -/
def exp2Frac (w f : Nat) : Nat → Nat → Nat → Nat × Nat → Nat × Nat
  | 0, _, _, acc => acc
  | j + 1, lo, hi, (al, ah) =>
    let lo' := isqrt (lo * 2 ^ w)
    let hi' := isqrt (hi * 2 ^ w) + 1
    let acc := if bitAt f j then (al * lo' / 2 ^ w, ah * hi' / 2 ^ w + 1) else (al, ah)
    exp2Frac w f j lo' hi' acc

/-- `2^x` for `x = (-1)^neg m 2^e`. Log 9 (DEDUCED, safe). -/
def magExp2 (neg : Bool) (m : Nat) (e : Int) : Mag :=
  if m = 0 then .dy 1 0
  else if 0 ≤ e then
    let n := m * 2 ^ e.toNat
    if n < 5000 then .dy 1 (if neg then -(n : Int) else n)
    else if neg then .between 0 5000 else .dy 1 5000
  else
    let j := (-e).toNat
    if m % 2 ^ j = 0 then
      let n := m / 2 ^ j
      if n < 5000 then .dy 1 (if neg then -(n : Int) else n)
      else if neg then .between 0 5000 else .dy 1 5000
    else if m * 2 ^ 80 < 2 ^ j then (if neg then .between (2 ^ 78 - 1) 78 else .between (2 ^ 78) 78)
    else if 5000 * 2 ^ j ≤ m then (if neg then .between 0 5000 else .dy 1 5000)
    else
      -- x = n + f / 2^j with 0 < f < 2^j
      let n : Int := if neg then -((m / 2 ^ j : Nat) : Int) - 1 else (m / 2 ^ j : Nat)
      let f := if neg then 2 ^ j - m % 2 ^ j else m % 2 ^ j
      let p := 120 + n.toNat
      let w := p + 280
      let (lo, hi) := exp2Frac w f j (2 * 2 ^ w) (2 * 2 ^ w) (2 ^ w, 2 ^ w)
      match enclosed lo hi w p with
      | .between v q => .between v ((q : Int) - n).toNat
      | y => y

/-- Bits of `log₂ y` for `y` in (1, 2), enclosed by `[lo, hi] / 2^w`, by repeated squaring; none where the
enclosure does not decide a bit. -/
def log2Bits (w : Nat) : Nat → Nat → Nat → Nat → Option Nat
  | 0, _, _, acc => some acc
  | k + 1, lo, hi, acc =>
    let lo := lo * lo / 2 ^ w
    let hi := hi * hi / 2 ^ w + 1
    if 2 * 2 ^ w ≤ lo then log2Bits w k (lo / 2) (hi / 2 + 1) (2 * acc + 1)
    else if hi < 2 * 2 ^ w then log2Bits w k lo hi (2 * acc)
    else none

/-- `log₂ x` for `x = m 2^e > 0`: its sign and magnitude. Log 9 (DEDUCED, safe). -/
def magLog2 (m : Nat) (e : Int) : Bool × Mag :=
  let l := m.log2
  let n : Int := (l : Int) + e
  if m = 2 ^ l then (n < 0, .dy n.natAbs 0)
  else
    let p := 140
    let w := 400
    let y := m * 2 ^ w / 2 ^ l
    match log2Bits w p y (y + 1) 0 with
    | some b =>
      if 0 ≤ n then (false, .between (n.toNat * 2 ^ p + b) p)
      else (true, .between (((-n).toNat * 2 ^ p) - b - 1) p)
    | none => (n < 0, .between (Config.undecidedFunction m) p)

/-- `2^w atan(1/x)`, rounded down term by term; the error is below the number of terms. -/
def atanInv (w x : Nat) : Nat → Nat → Nat → Bool → Int → Int
  | 0, _, _, _, acc => acc
  | fuel + 1, k, t, sub, acc =>
    if t = 0 then acc
    else
      let d : Int := (t / (2 * k + 1) : Nat)
      atanInv w x fuel (k + 1) (t / (x * x)) (!sub) (if sub then acc - d else acc + d)

/-- An enclosure of `2^w π`, by Machin's formula. -/
def piEnc (w : Nat) : Int × Int :=
  let v := w + 32
  let a := atanInv v 5 v 0 (2 ^ v / 5) false 0
  let b := atanInv v 239 v 0 (2 ^ v / 239) false 0
  let s := 16 * a - 4 * b
  ((s - 20 * v).ediv (2 ^ 32 : Nat), (s + 20 * v).ediv (2 ^ 32 : Nat) + 1)

/-- The Taylor series with terms `t z^2k / ...` from `k` on, `z` scaled by `2^w`. -/
def sinCosTerms (w z : Nat) : Nat → Nat → Nat → Bool → Int → Int
  | 0, _, _, _, acc => acc
  | fuel + 1, k, t, sub, acc =>
    if t = 0 then acc
    else
      let acc := if sub then acc - t else acc + t
      sinCosTerms w z fuel (k + 2) (t * z / 2 ^ w * z / 2 ^ w / ((k + 1) * (k + 2))) (!sub) acc

/-- `sin(π u)` for `u = m / 2^j` in (0, 1/4]. -/
def magSinSmall (m j : Nat) : Mag :=
  let e : Nat := j - m.log2
  let p := 90 + e
  let w := p + 400
  let (pl, ph) := piEnc w
  let zl := pl.toNat * m / 2 ^ j
  let zh := ph.toNat * m / 2 ^ j + 1
  let n := 200
  enclosed (sinCosTerms w zl n 1 zl false 0 - 4 * n) (sinCosTerms w zh n 1 zh false 0 + 4 * n) w p

/-- `cos(π u)` for `u = m / 2^j` in (0, 1/4]. -/
def magCosSmall (m j : Nat) : Mag :=
  if m * 2 ^ 60 < 2 ^ j then .between (2 ^ 90 - 1) 90
  else
    let p := 90
    let w := p + 400
    let (pl, ph) := piEnc w
    let zl := pl.toNat * m / 2 ^ j
    let zh := ph.toNat * m / 2 ^ j + 1
    let n := 200
    enclosed (sinCosTerms w zh n 0 (2 ^ w) false 0 - 4 * n) (sinCosTerms w zl n 0 (2 ^ w) false 0 + 4 * n) w p

/-- `sin(π t)` for `t = m / 2^j` in (0, 1), not 1/2. -/
def magSinUnit (m j : Nat) : Mag :=
  let one := 2 ^ j
  let m := if one < 2 * m then one - m else m
  if 4 * m ≤ one then magSinSmall m j else magCosSmall (one - 2 * m) (j + 1)

/-- `sin(π x)` for `x = (-1)^neg m 2^e`: its sign and magnitude; zero keeps the sign of `x` (09 Table 9-5).
Log 9 (DEDUCED, safe). -/
def magSin (neg : Bool) (m : Nat) (e : Int) : Bool × Mag :=
  if m = 0 || 0 ≤ e then (neg, .dy 0 0)
  else
    let j := (-e).toNat
    let t := m % 2 ^ (j + 1)
    let one := 2 ^ j
    let (s, t) := if one ≤ t then (!neg, t - one) else (neg, t)
    if t = 0 then (neg, .dy 0 0)
    else if 2 * t = one then (s, .dy 1 0)
    else (s, magSinUnit t j)

/-- `cos(π x)` for `x = ± m 2^e`: its sign and magnitude; a zero is +0 (09 Table 9-5). Log 9 (DEDUCED, safe). -/
def magCos (m : Nat) (e : Int) : Bool × Mag :=
  if m = 0 then (false, .dy 1 0)
  else if 0 ≤ e then (m * 2 ^ e.toNat % 2 = 1, .dy 1 0)
  else
    let j := (-e).toNat
    let one := 2 ^ j
    let t := m % 2 ^ (j + 1)
    -- cos is even about 1: fold t into [0, 1]
    let t := if one < t then 2 * one - t else t
    if t = 0 then (false, .dy 1 0)
    else if t = one then (true, .dy 1 0)
    else if 2 * t = one then (false, .dy 0 0)
    else
      -- cos(π t) = sin(π (1/2 - t))
      if 2 * t < one then (false, if 4 * t ≤ one then magCosSmall t j else magSinSmall (one - 2 * t) (j + 1))
      else
        let u := one - t
        (true, if 4 * u ≤ one then magCosSmall u j else magSinSmall (one - 2 * u) (j + 1))

end Sys2Proof.Machine
end

