-- ==== Sys2Proof/Machine/Harrow.lean ====
section
/-! DEFINITION. The Harrow generator and the random values of stochastic rounding (04 R77 to R81). -/

namespace Sys2Proof.Machine

/-- The four words of Harrow's state. -/
structure HState where
  x0 : W32
  x1 : W32
  x2 : W32
  x3 : W32
  deriving DecidableEq, Repr

/-- `inject(j)` (04 R77). -/
def harrowInject (k0 k1 : W32) (j : Nat) (s : HState) : HState :=
  let c (b : W32) : W32 := BitVec.ofNat 32 ((j + 1) * b.toNat)
  { s with x0 := s.x0 + k0 + c 0x9E3779B9, x1 := s.x1 + k1 + c 0xBB67AE85 }

/-- RA (04 Table 4-3). -/
def harrowRA (i : Nat) : Nat := if i % 4 = 0 then 16 else if i % 4 = 1 then 12 else if i % 4 = 2 then 8 else 24
/-- RB (04 Table 4-3). -/
def harrowRB (i : Nat) : Nat := if i % 4 = 0 then 20 else if i % 4 = 1 then 4 else if i % 4 = 2 then 28 else 12

/-- One round (04 R77). -/
def harrowRound (i : Nat) (s : HState) : HState :=
  let x0 := s.x0 + s.x1
  let x3 := (s.x3 ^^^ x0).rotateLeft (harrowRA i)
  let x2 := s.x2 + x3
  let x1 := (s.x1 ^^^ x2).rotateLeft (harrowRB i)
  ⟨x0, x1, x2, x3⟩

/-- Two rounds and the injection after them. -/
def harrowPair (k0 k1 : W32) (j : Nat) (s : HState) : HState :=
  harrowInject k0 k1 (j + 1) (harrowRound (2 * j + 1) (harrowRound (2 * j) s))

/-- Harrow (04 R77). -/
def harrow (key : W64) (ctr : BitVec 128) : BitVec 128 :=
  let k0 := lo32 key
  let k1 := hi32 key
  let s : HState := ⟨ctr.extractLsb' 0 32, ctr.extractLsb' 32 32, ctr.extractLsb' 64 32, ctr.extractLsb' 96 32⟩
  let s := harrowInject k0 k1 0 s
  let s := harrowPair k0 k1 0 s
  let s := harrowPair k0 k1 1 s
  let s := harrowPair k0 k1 2 s
  let s := harrowPair k0 k1 3 s
  (s.x3 ++ s.x2 ++ s.x1 ++ s.x0 : BitVec 128)

/-- The counter of 04 Table 4-5: EG, T, H, P and S. -/
def harrowCtr (eg : W32) (t : Nat) (h : W32) (p : Nat) (s : W16) : BitVec 128 :=
  (s ++ BitVec.ofNat 8 p ++ h ++ BitVec.ofNat 40 t ++ eg : BitVec 128)

/-- The random value `r` of 04 R79. -/
def srRand (key : W64) (h : W32) (t p step e : Nat) : Nat :=
  let out := harrow key (harrowCtr (BitVec.ofNat 32 (e / 8)) t h p (BitVec.ofNat 16 step))
  (out.extractLsb' (16 * (e % 8)) 16).toNat

end Sys2Proof.Machine
end

