-- ==== Sys2Proof/Machine/Arith.lean ====
section
/-! DEFINITION. Float arithmetic, selection, functions and conversions on encodings (09, 04 Table 4-7): each
answers the result's encoding and the flags it raises. -/

namespace Sys2Proof.Machine

/-- A result and its flags. -/
abbrev Res := Nat × W32

/-- The default NaN with `X.NV` when asked for. -/
def nanRes (c : Nat) (nv : Bool) : Res := (defaultNan c, if nv then fNV else 0)

/-- An exact dyadic as a signed mantissa over `2^e`. -/
structure Dy where
  m : Int
  e : Int
  deriving DecidableEq, Repr

/-- The sum of two dyadics. -/
def Dy.add (x y : Dy) : Dy :=
  let e := min x.e y.e
  ⟨x.m * (2 ^ (x.e - e).toNat : Nat) + y.m * (2 ^ (y.e - e).toNat : Nat), e⟩

/-- A finite value as a dyadic; 0 for the others. -/
def Val.dy : Val → Dy
  | .fin s m e => ⟨if s then -(m : Int) else m, e⟩
  | _ => ⟨0, 0⟩

/-- Rounds an exact sum of terms: a zero is signed by `zneg` (04 R76, 09 R169). -/
def roundDy (c mode r : Nat) (ieee : Bool) (x : Dy) (zneg : Bool) : Res :=
  if x.m = 0 then (zeroBits c zneg, 0) else roundFloat c mode r ieee (x.m < 0) (.dy x.m.natAbs x.e)

/-- The sign of an exact zero sum: the terms' common sign when all are zeros of one sign, else +0, or -0
under RDN (09 R169). -/
def zeroSign (mode : Nat) (terms : List Val) : Bool :=
  if terms.all Val.isZero && terms.all Val.neg then true
  else if terms.all Val.isZero && terms.all (fun v => !v.neg) then false
  else mode = 3

/-- The exact sum of terms, rounded once: NaN terms and opposite infinities give the default NaN and
`X.NV` as `nv` says for a quiet NaN (09 R169, 13 R250). -/
def sumRound (c mode r : Nat) (quietNv : Bool) (terms : List Val) : Res :=
  if terms.any Val.isNan then nanRes c (quietNv || terms.any Val.isSig)
  else
    let infs := terms.filter (fun v => match v with | .inf _ => true | _ => false)
    match infs with
    | v :: rest => if rest.all (fun w => w.neg = v.neg) then (infBits c v.neg, 0) else nanRes c true
    | [] => roundDy c mode r true (terms.foldl (fun a v => a.add v.dy) ⟨0, 0⟩) (zeroSign mode terms)

/-- The exact product of two values; a zero times an infinity is a NaN. -/
def mulVal (x y : Val) : Val :=
  match x, y with
  | .nan _, _ => .nan false
  | _, .nan _ => .nan false
  | .inf s, .fin t m _ => if m = 0 then .nan false else .inf (s != t)
  | .fin t m _, .inf s => if m = 0 then .nan false else .inf (s != t)
  | .inf s, .inf t => .inf (s != t)
  | .fin s m e, .fin t n f => .fin (s != t) (m * n) (e + f)

/-- Whether a product is 0 times infinity. -/
def zeroInf (x y : Val) : Bool :=
  match x, y with
  | .inf _, v => v.isZero
  | v, .inf _ => v.isZero
  | _, _ => false

/-- `fadd` (09 R168, R169). -/
def addF (c mode r x y : Nat) : Res := sumRound c mode r false [decodeVal c x, decodeVal c y]

/-- `fsub` (09 R168, R169). -/
def subF (c mode r x y : Nat) : Res := sumRound c mode r false [decodeVal c x, (decodeVal c y).negate]

/-- `fmul` (09 R168, R169, Table 9-2). -/
def mulF (c mode r x y : Nat) : Res :=
  let a := decodeVal c x
  let b := decodeVal c y
  if zeroInf a b then nanRes c true
  else if a.isNan || b.isNan then nanRes c (a.isSig || b.isSig)
  else match mulVal a b with
    | .inf s => (infBits c s, 0)
    | .fin s m e => roundFloat c mode r true s (.dy m e)
    | .nan _ => nanRes c true

/-- `fma` (09 R168, R169, Table 9-2). -/
def fmaF (c mode r x y z : Nat) : Res :=
  let a := decodeVal c x
  let b := decodeVal c y
  let d := decodeVal c z
  if zeroInf a b then nanRes c true
  else if a.isNan || b.isNan || d.isNan then nanRes c (a.isSig || b.isSig || d.isSig)
  else sumRound c mode r false [mulVal a b, d]

/-- `fdiv` (09 R168, R169, Table 9-2). -/
def divF (c mode r x y : Nat) : Res :=
  let a := decodeVal c x
  let b := decodeVal c y
  match a, b with
  | .nan s, w => nanRes c (s || w.isSig)
  | _, .nan s => nanRes c s
  | .inf _, .inf _ => nanRes c true
  | .inf s, .fin t _ _ => (infBits c (s != t), 0)
  | .fin s _ _, .inf t => (zeroBits c (s != t), 0)
  | .fin s m e, .fin t n f =>
    if n = 0 then (if m = 0 then nanRes c true else (infBits c (s != t), fDZ))
    else if m = 0 then (zeroBits c (s != t), 0)
    else roundFloat c mode r true (s != t) (.rat m n (e - f))

/-- Which of two encodings a comparison selects, the first on a tie. -/
def pick (o : Ordering) (wantGt : Bool) (x y : Nat) : Nat :=
  match o with
  | .eq => x
  | .gt => if wantGt then x else y
  | .lt => if wantGt then y else x

/-- `fmin` (09 Table 9-3). -/
def minF (c x y : Nat) : Res :=
  let a := decodeVal c x
  let b := decodeVal c y
  if a.isNan || b.isNan then nanRes c (a.isSig || b.isSig) else (pick (tord a b) false x y, 0)

/-- `fmax`: the greater in the total order, A on a tie (09 Table 9-3, 03 R71). -/
def maxF (c x y : Nat) : Res := (pick (tord (decodeVal c x) (decodeVal c y)) true x y, 0)

/-- `fminn` and `fmaxn`: a NaN operand is ignored (09 Table 9-3). -/
def numF (wantGt : Bool) (c x y : Nat) : Res :=
  let a := decodeVal c x
  let b := decodeVal c y
  let fl := if a.isSig || b.isSig then fNV else 0
  if a.isNan then (if b.isNan then defaultNan c else y, fl)
  else if b.isNan then (x, fl)
  else (pick (tord a b) wantGt x y, 0)

/-- `fabs` (09 Table 9-3). -/
def absF (c x : Nat) : Nat := x % 2 ^ (fmtWidth c - 1)

/-- `fneg` (09 Table 9-3). -/
def negF (c x : Nat) : Nat :=
  let h := 2 ^ (fmtWidth c - 1)
  if x % (2 * h) < h then x % h + h else x % h

/-- `fcmp`'s condition and its flag (05 Table 5-7, 09 R171). -/
def cmpF (cond c x y : Nat) : Bool × W32 :=
  let a := decodeVal c x
  let b := decodeVal c y
  let un := a.isNan || b.isNan
  let o := cmpVal a b
  let ord := 2 ≤ cond && cond ≤ 5
  let fl := if (ord && un) || a.isSig || b.isSig then fNV else 0
  let v := match cond with
    | 0 => !un && o == .eq
    | 1 => un || o != .eq
    | 2 => !un && o == .lt
    | 3 => !un && o != .gt
    | 4 => !un && o == .gt
    | 5 => !un && o != .lt
    | 6 => un
    | _ => !un
  (v, fl)

/-- `fclass`'s mask (09 Table 9-4). -/
def classF (c x : Nat) : Nat :=
  let f := finfo c
  let e := (x / 2 ^ f.mb) % 2 ^ f.eb
  match decodeVal c x with
  | .nan s => if s then 0x100 else 0x200
  | .inf s => if s then 0x001 else 0x080
  | .fin s m _ =>
    if m = 0 then (if s then 0x008 else 0x010)
    else if e = 0 then (if s then 0x004 else 0x020)
    else if s then 0x002 else 0x040

/-- `frnd`: to an integral value (09 R173). -/
def rndF (c mode r x : Nat) : Res :=
  match decodeVal c x with
  | .nan s => nanRes c s
  | .inf _ => (x % 2 ^ fmtWidth c, 0)
  | .fin s m e =>
    if m = 0 then (x % 2 ^ fmtWidth c, 0)
    else
      let (n, inexact) := roundAt mode r s (.dy m e) 0
      let res := if n = 0 then zeroBits c s else (roundFloat c 1 0 true s (.dy n 0)).1
      (res, if inexact then fNX else 0)

/-- A value converted to a float format, by its row of 04 Table 4-7: CV1 and CV2 (IEEE), CV3, CV4, CV5.
`mx` is CV11: IEEE overflow in the destination. -/
def toFloat (c mode r : Nat) (x : Val) : Res :=
  match x with
  | .nan s => if isIeee c || c = 4 || c = 5 then nanRes c s else (0, fNV)
  | .inf s =>
    if isIeee c || c = 5 then (infBits c s, 0)
    else (maxFinite c + (if s then 2 ^ (fmtWidth c - 1) else 0), fOF ||| fNX)
  | .fin s m e => roundFloat c mode r (isIeee c) s (.dy m e)

/-- An exact result: a value with the flags of its special cases, or a magnitude with its sign. -/
inductive FRes where
  | val (v : Val) (fl : W32)
  | mag (neg : Bool) (m : Mag)

/-- An exact result rounded to a float format. -/
def FRes.to (x : FRes) (c mode r : Nat) : Res :=
  match x with
  | .val v fl => let (b, f) := toFloat c mode r v; (b, f ||| fl)
  | .mag s m => roundFloat c mode r (isIeee c) s m

/-- The invalid operation. -/
def FRes.invalid : FRes := .val (.nan false) fNV

/-- The functions `frcp` (0) to `fcos` (6) of an exact value (09 Table 9-5). Log 9 (DEDUCED, safe). -/
def funcV (k : Nat) (x : Val) : FRes :=
  match x with
  | .nan s => .val (.nan s) 0
  | .inf s =>
    if k = 0 then .val (.fin s 0 0) 0
    else if k = 5 || k = 6 then .invalid
    else if k = 3 then .val (if s then .fin false 0 0 else .inf false) 0
    else if s then .invalid
    else if k = 1 then .val (.fin false 0 0) 0
    else .val (.inf false) 0
  | .fin s m e =>
    if k = 0 then if m = 0 then .val (.inf s) fDZ else .mag s (.rat 1 m (-e))
    else if k = 1 then if m = 0 then .val (.inf s) fDZ else if s then .invalid else .mag false (.root 1 m (-e))
    else if k = 2 then if m = 0 then .val (.fin s 0 0) 0 else if s then .invalid else .mag false (.root m 1 e)
    else if k = 3 then .mag false (magExp2 s m e)
    else if k = 4 then
      if m = 0 then .val (.inf true) fDZ else if s then .invalid
      else
        let (n, g) := magLog2 m e
        if g.isZero then .val (.fin false 0 0) 0 else .mag n g
    else if k = 5 then
      let (n, g) := magSin s m e
      .mag n g
    else
      let (n, g) := magCos m e
      if g.isZero then .val (.fin false 0 0) 0 else .mag n g

/-- The functions `frcp` (0) to `fcos` (6) and `frnd` (7) (09 Table 9-5). -/
def funcF (k c mode r x : Nat) : Res :=
  if k = 7 then rndF c mode r x else (funcV k (decodeVal c x)).to c mode r

/-- A value converted to an integer format (04 CV9). -/
def toInt (c mode r : Nat) (x : Val) : Res :=
  let w := fmtWidth c
  match x with
  | .nan _ => (0, fNV)
  | .inf s =>
    (if s then (if isSigned c then 2 ^ (w - 1) else 0) else if isSigned c then 2 ^ (w - 1) - 1 else 2 ^ w - 1, fNV)
  | .fin s m e => roundInt c mode r s (.dy m e)

/-- A value converted to LG6 (04 CV6, 09 R178). -/
def toLg6 (mode r : Nat) (x : Val) : Res :=
  match x with
  | .nan _ => (0x10, fNV)
  | .inf s => (if s then 0x2F else 0x0F, fOF ||| fNX)
  | .fin s m e => roundLg6 mode r s m e

/-- A value converted to format `c`. -/
def convVal (c mode r : Nat) (x : Val) : Res :=
  if isInt c then toInt c mode r x else if c = 18 then toLg6 mode r x else toFloat c mode r x

/-- The value divided by `2^k`. -/
def Val.scale (x : Val) (k : Int) : Val :=
  match x with
  | .fin s m e => .fin s m (e + k)
  | v => v

/-- An MXINT8 element for a value: `round(64 x)` within ±127 (03 R65, 12 R226). Log 112 (DEDUCED, unsafe). -/
def toMxInt (mode r : Nat) (x : Val) : Res :=
  match x with
  | .nan _ => (0, fNV)
  | .inf s => (if s then 0x81 else 0x7F, fNV)
  | .fin s m e =>
    let (n, inexact) := if m = 0 then (0, false) else roundAt mode r s (.dy m (e + 6)) 0
    let big := 127 < n
    let n := if big then 127 else n
    (if s && n ≠ 0 then 256 - n else n, if big then fNV else if inexact then fNX else 0)

/-- The value of an element of an MX block, or of a page without scales (03 R64, R65): `blk` says that the
element format is a block's. -/
def elemVal (c : Nat) (blk : Bool) (code : Nat) : Val :=
  if blk && c = 10 then (decodeVal 10 code).scale (-6) else decodeVal c code

/-- An element under its block's scale code (03 R64). -/
def mxVal (c code scale : Nat) : Val :=
  if scale = 255 then .nan false else (elemVal c true code).scale ((scale : Int) - 127)

/-- One LG6 product, formed on L (03 R62). -/
def lg6Mul (x y : Nat) : Val :=
  let k1 := intVal true 5 x
  let k2 := intVal true 5 y
  let s := bitAt x 5 != bitAt y 5
  if k1 = -16 || k2 = -16 then .fin s 0 0
  else let (t, n) := lg6Value (k1 + k2); .fin s t n

/-- Largest finite magnitude and exponent of the largest power of two of an element format of block
conversion (04 Table 4-8): the former as `m 2^e`. -/
def mxLimits (c : Nat) : (Nat × Int) × Int :=
  if c = 4 then ((448, 0), 8) else if c = 5 then ((57344, 0), 15) else if c = 6 then ((28, 0), 4)
  else if c = 7 then ((15, -1), 2) else if c = 8 then ((6, 0), 2) else if c = 10 then ((127, -6), 0)
  else ((0xD745, -12), 3)

/-- The largest finite magnitude among values, as `m 2^e`; `(0, 0)` when all are zero or infinite. -/
def maxMag (xs : List Val) : Nat × Int :=
  xs.foldl (fun a x => match x with
    | .fin _ m e => if m ≠ 0 && (a.1 = 0 || cmpReal false a.1 a.2 false m e == .lt) then (m, e) else a
    | _ => a) (0, 0)

/-- The scale code of a block conversion (04 R87 to R89): `ceil` the variant, `mxnan` the rule for NaN. -/
def mxScale (c : Nat) (ceil mxnan : Bool) (xs : List Val) : Nat :=
  if xs.any Val.isNan then (if mxnan then 0 else 255)
  else
    let (m, e) := maxMag xs
    if m = 0 then 0
    else
      let ((mm, me), emax) := mxLimits c
      let l : Int := (m.log2 : Int) + e
      let x : Int :=
        if ceil then
          let x0 := l - ((mm.log2 : Int) + me)
          if cmpReal false m (e - x0) false mm me == .gt then x0 + 1 else x0
        else l - emax
      let s := x + 127
      if s < 0 then 0 else if 254 < s then 254 else s.toNat

/-- One element code of a block conversion, under scale code `s` (04 R87, R89, 09 R182). Log 112 (DEDUCED, unsafe). -/
def mxElem (c s mode r : Nat) (nanBlock : Bool) (x : Val) : Res :=
  if nanBlock then (0, if x.isSig then fNV else 0)
  else match x with
  | .inf n =>
    let code := if c = 10 then (if n then 0x81 else 0x7F)
      else if c = 18 then (if n then 0x2F else 0x0F)
      else maxFinite c + (if n then 2 ^ (fmtWidth c - 1) else 0)
    (code, fINFSAT)
  | v =>
    let y := v.scale (127 - (s : Int))
    if c = 10 then
      match toMxInt mode r y with
      | (code, fl) => (code, if fl = fNV then fOF ||| fNX else fl)
    else if c = 18 then toLg6 mode r y
    else match y with
      | .fin n m e => roundFloat c mode r false n (.dy m e)
      | _ => (0, 0)

end Sys2Proof.Machine
end

