-- ==== Sys2Proof/Machine/Translate.lean ====
section
/-! DEFINITION. Virtual addresses, the page walk and the MTLB, and where an element of a page lies
(01 R31 to R38, 03 R66 to R68, 12 R222, 17 R323, R324, 25 R412, R422). -/

namespace Sys2Proof.Machine

/-- Fault kinds (20 Table 20-1). -/
def kVaReserved : Nat := 1
def kPkgAbsent : Nat := 2
def kRegionInvalid : Nat := 3
def kNotMapped : Nat := 4
def kPteReserved : Nat := 5
def kPaInvalid : Nat := 6
def kFormatInvalid : Nat := 7
def kWriteProt : Nat := 8
def kExecProt : Nat := 9
def kMisaligned : Nat := 10
def kElemRange : Nat := 11
def kFormatAccess : Nat := 12
def kHeaderInvalid : Nat := 13
def kHostLink : Nat := 14

/-- Fields of a VA (01 Table 1-9). -/
def vaPkg (va : Nat) : Nat := bits va 56 46
/-- The home die. -/
def vaDie (va : Nat) : Nat := bits va 45 44
/-- The region. -/
def vaRegion (va : Nat) : Nat := bits va 43 38
/-- The byte offset within the region. -/
def vaOff (va : Nat) : Nat := bits va 37 0

/-- Whether the function that owns an address space has a feature; none has it where no function owns the
address space. Log 21 (DEDUCED, unsafe). -/
def State.asidFeature (s : State) (asid b : Nat) : Bool :=
  match s.ownerOfAsid asid with | some v => s.feature v b | none => false

/-- Where a VA points: package memory with its home die, another package, or the host window; else the
fault (01 R31, R32, 25 R409, R423). Log 54 (DEDUCED, unsafe). -/
def State.vaTarget (s : State) (asid va : Nat) : Except Nat Target :=
  let p := vaPkg va
  if p = 2047 then
    if vaDie va ≠ 3 then .error kVaReserved
    else if !s.asidFeature asid 5 then .error kVaReserved
    else if !s.hub.linkUp then .error kHostLink
    else .ok .host
  else if 1152 ≤ p then .error kVaReserved
  else if s.hub.fabSize.toNat ≤ p then .error kPkgAbsent
  else if p = s.hub.fabId.toNat then .ok (.pkg (vaDie va))
  else if s.asidFeature asid 6 then .ok (.other p) else .error kPkgAbsent

/-- The PA of an address space's descriptor on a die (17 Table 17-7). -/
def State.descPa (s : State) (die asid : Nat) : Nat := (s.die die).astBase.toNat + 2048 * asid

/-- A region entry (01 Table 1-10). Log 54 (DEDUCED, unsafe). -/
def State.regionEntry (s : State) (die asid region : Nat) : Nat :=
  memNat s.mem.home (s.descPa die asid + 16 * region) 16

/-- A format-table entry (01 Table 1-11). -/
def State.formatEntry (s : State) (die asid fix : Nat) : Nat :=
  memNat s.mem.home (s.descPa die asid + 1024 + 4 * fix) 4

/-- The page size as a number of bits (01 R33). -/
def pageBits (psz : Nat) : Nat := if psz = 0 then 12 else if psz = 1 then 16 else if psz = 2 then 21 else 30

/-- The index bits of each level, from the root (01 R34). -/
def levelBits (total levels : Nat) : List Nat :=
  (upto levels).map (fun i => total / levels + (if i < total % levels then 1 else 0))

/-- Whether a frame lies outside the granules or colours of the function that owns the address space
(25 R422). Log 23 (DEDUCED, unsafe). -/
def State.frameDenied (s : State) (asid pa pbits : Nat) : Bool :=
  match s.ownerOfAsid asid with
  | none => false
  | some v =>
    let g := tgetD s.hub.got (dpaOf pa / 2 ^ 30) 0
    let vf := s.vf v
    let col (c : Nat) : Bool := bitAt ((if c < 64 then vf.vfCol0 else vf.vfCol1).toNat) (c % 64)
    let set := Nat.xor (bits pa 23 17) (bits pa 30 24)
    !(bitAt g.toNat 7 && bits g.toNat 5 0 = v) ||
    (vf.cenf &&
      (if pbits ≤ 16 then !col set
       else if pbits = 21 then (upto 16).any (fun i => !col (set / 16 * 16 + i)) else false))

/-- Whether a format-table entry is invalid for a page (01 R35, R37, 25 R412). -/
def State.formatInvalid (s : State) (asid e pbits tg pa : Nat) : Bool :=
  let fmt := bits e 4 0
  let blk := bits e 6 5
  let sp := bits e 9 8
  let map := bitAt e 11
  let tl := bits e 15 12
  let cc := bits e 17 16
  23 ≤ fmt || bitAt e 7 || sp = 3 ||
  (blk ≠ 0 && !((4 ≤ fmt && fmt ≤ 8) || fmt = 10 || fmt = 18)) ||
  (blk = 0 && sp ≠ 0) ||
  (map && (tl < 3 || 12 < tl || !(fmt ≤ 3 || fmt = 22))) ||
  (map && (2 ^ tl * (fmtWidth fmt / 8) ≠ 2 ^ (tg + 2) || 2 ^ pbits < 2 ^ (tg + 2))) ||
  (cc = 3 && !(match s.ownerOfAsid asid with
    | some v => (s.vf v).nfwd && s.feature v 2
    | none => false)) ||
  (s.isHdm pa && (cc = 1 || cc = 3))

/-- The interior levels of a walk: the last-level entry's PA, from the node at `node` and the index bits
still to walk, with `off` the offset's bits above the page (17 R324, Table 17-4). An entry is read in the view of its home die
`die`, at the die's clock. Log 23 (DEDUCED, unsafe). -/
def State.walkNodes (s : State) (die off : Nat) : List Nat → Nat → Except Nat Nat
  | [], _ => .error kNotMapped
  | [b], node => .ok (node + 8 * (off % 2 ^ b))
  | b :: c :: r, node =>
    let below := (c :: r).foldl (· + ·) 0
    let e := (s.die die).viewNat (node + 8 * (off / 2 ^ below % 2 ^ b)) 8
    if !bitAt e 0 then .error kNotMapped
    else if bits e 11 1 ≠ 0 || bits e 63 52 ≠ 0 then .error kPteReserved
    else
      let n := bits e 51 12 * 4096
      if !paOk n then .error kPaInvalid else s.walkNodes die off (c :: r) n

/-- The last-level entry of a VA homed on a die: its PA and its value (17 R324, Table 17-5).
Log 23 (DEDUCED, unsafe). Log 123 (DEDUCED, unsafe). -/
def State.leafPte (s : State) (die asid va : Nat) : Except Nat (Nat × Nat) :=
  let re := s.regionEntry die asid (vaRegion va)
  if !bitAt re 0 || 14 ≤ bits re 111 108 then .error kRegionInvalid
  else
    let p := pageBits (bits re 2 1)
    let root := bits re 51 12 * 4096
    if !paOk root then .error kPaInvalid
    else match s.walkNodes die (vaOff va / 2 ^ p) (levelBits (38 - p) (bits re 4 3 + 1)) root with
      | .error k => .error k
      | .ok pte => .ok (pte, (s.die die).viewNat pte 8)

/-- A walk for a VA homed on a die (17 R324, Table 17-5), without the checks of W and X. Log 123 (DEDUCED, unsafe). -/
def State.walk (s : State) (die asid va : Nat) : Except Nat Page :=
  let re := s.regionEntry die asid (vaRegion va)
  let tg := bits re 111 108
  let p := pageBits (bits re 2 1)
  match s.leafPte die asid va with
      | .error k => .error k
      | .ok (pte, e) =>
        let pa := bits e 51 12 * 4096
        if !bitAt e 0 then .error kNotMapped
        else if bits e 11 9 ≠ 0 || bits e 63 52 ≠ 0 then .error kPteReserved
        else if !paOk pa || !paOk (pa + 2 ^ p - 1) || s.frameDenied asid pa p then .error kPaInvalid
        else
          let f := s.formatEntry die asid (bits e 8 5)
          if s.formatInvalid asid f p tg pa then .error kFormatInvalid
          else .ok {
            asid := asid, region := vaRegion va, die := die, va := va / 2 ^ p * 2 ^ p, pa := pa, bits := p,
            w := bitAt e 1, x := bitAt e 2, pte := pte, fmt := bits f 4 0, blk := bits f 6 5, sp := bits f 9 8,
            lay := bitAt f 10, map := bitAt f 11, tl := bits f 15 12, cc := bits f 17 16, fix := bits e 8 5,
            hbase := bits re 107 64, tg := tg }

/-- The translation an MTLB holds for a VA (17 R323). -/
def State.mtlbFind (s : State) (die asid va : Nat) : Option Page :=
  (((s.die die).mtlb.filter (fun t => t.asid = asid && t.page.va = va / 2 ^ t.page.bits * 2 ^ t.page.bits)).head?).map (·.page)

/-- The page of a VA of package memory: held, or walked. -/
def State.pageOf (s : State) (die asid va : Nat) : Except Nat Page :=
  match s.mtlbFind die asid va with
  | some p => .ok p
  | none => s.walk die asid va

/-- An MTLB that is full loses its oldest translation; its page is kept while a read under it may still hold a lease (17 R323,
R326). -/
def Die.mtlbEvict (d : Die) : Die :=
  if d.mtlb.length < 32768 then d
  else { d with mtlb := d.mtlb.drop 1,
                mtlbOld := (d.mtlbOld.filter (fun e => d.clock ≤ e.1 + 2 * loadWindow)) ++ (d.mtlb.take 1).map (fun t => (d.clock, t.page)) }

/-- The MTLB with a walk's result (17 R323). -/
def State.mtlbFill (s : State) (die asid : Nat) (p : Page) : State :=
  s.modDie die (fun d =>
    if d.mtlb.any (fun t => t.asid = asid && t.page.va = p.va) then d
    else let e := d.mtlbEvict; { e with mtlb := e.mtlb ++ [⟨asid, p, 0⟩] })

/-- A translation with the permission checks (17 Table 17-5), and the MTLB filled; a walk that fails, at those checks too, leaves no
entry (R323). -/
def State.translate (s : State) (asid va : Nat) (write fetch : Bool) : Except Nat Page × State :=
  match s.vaTarget asid va with
  | .error k => (.error k, s)
  | .ok (.pkg d) =>
    match s.pageOf d asid va with
    | .error k => (.error k, s)
    | .ok p =>
      if write && !p.w then (.error kWriteProt, s)
      else if fetch && !p.x then (.error kExecProt, s)
      else (.ok p, s.mtlbFill d asid p)
  | .ok _ => (.error kFormatAccess, s)

/-- Byte page, packed page and raw page (12 R222). -/
def isRaw (p : Page) : Bool := p.fmt = 22
/-- See `isRaw`. -/
def isPacked (p : Page) : Bool := p.blk ≠ 0 || p.fmt = 6 || p.fmt = 7 || p.fmt = 8 || p.fmt = 18

/-- The block length k of BLK (01 Table 1-11). -/
def blkLen (blk : Nat) : Nat := if blk = 0 then 1 else 8 * 2 ^ blk

/-- Whether a line lies in a page's frame. -/
def Page.hasLine (p : Page) (l : Nat) : Bool := p.pa ≤ l * lineBytes && l * lineBytes < p.pa + 2 ^ p.bits

/-- Whether a VA of an address space lies in a page. -/
def Page.hasVa (p : Page) (asid va : Nat) : Bool := p.asid = asid && p.va ≤ va && va < p.va + 2 ^ p.bits

/-- Span size in bytes (03 R66). -/
def spanSize (p : Page) : Nat := if p.lay then 1024 else 2 ^ p.bits

/-- Blocks in a unit, and the unit's size in bytes (03 Table 3-6). -/
def unitOf (p : Page) : Nat × Nat :=
  let kw := blkLen p.blk * fmtWidth p.fmt / 8
  if p.sp = 1 then (32, 32 * (1 + kw)) else if p.sp = 2 then (1, kw) else (1, 1 + kw)

/-- The page's element count (03 R67). -/
def elemCount (p : Page) : Nat :=
  let s := spanSize p
  let spans := 2 ^ p.bits / s
  if p.blk = 0 then spans * (8 * s / fmtWidth p.fmt)
  else let (b, u) := unitOf p; spans * (s / u * (b * blkLen p.blk))

/-- Element `e` of a page: its scale byte's offset, and its first bit as a bit offset within the page
(03 R67). -/
def elemPlace (p : Page) (e : Nat) : Option Nat × Nat :=
  let s := spanSize p
  let w := fmtWidth p.fmt
  let k := blkLen p.blk
  if p.blk = 0 then
    let per := 8 * s / w
    (none, 8 * s * (e / per) + w * (e % per))
  else
    let (b, u) := unitOf p
    let per := s / u
    let blk := e / k
    let unit := blk / b
    let bi := blk % b
    let base := s * (unit / per) + u * (unit % per)
    let j := e % k
    if p.sp = 1 then (some (base + bi), 8 * (base + 32 + bi * k * w / 8) + j * w)
    else if p.sp = 2 then (none, 8 * base + j * w)
    else (some base, 8 * (base + 1) + j * w)

/-- The tile of a VA on a mapped page, its header not yet translated: the header lies at the die-local
offset HBASE + 32 index of the page's home die, which is a VA like any other (01 R35, 11 R203).
Log 54 (DEDUCED, unsafe). Log 123 (DEDUCED, unsafe). -/
def tileAt (p : Page) (va : Nat) : TileRef :=
  let g := 2 ^ (p.tg + 2)
  let i := vaOff va / g
  { page := p, pay := p.pa + (i * g - vaOff p.va), index := i,
    hdrVa := va / 2 ^ 44 * 2 ^ 44 + (p.hbase + 32 * i) % 2 ^ 44 }

/-- The tile with its header translated, or the fault and the header's VA (11 R218). Log 19 (DEDUCED, unsafe). -/
def State.withHeader (s : State) (t : TileRef) (write : Bool) : Except (Nat × Nat) TileRef × State :=
  match s.translate t.page.asid t.hdrVa write false with
  | (.ok h, s) => (.ok { t with hdr := h.pa + (t.hdrVa - h.va), hdrPte := h.pte }, s)
  | (.error k, s) => (.error (k, t.hdrVa), s)

/-- An access's element or bytes on a page: `va` the effective address, `base` the base and `extra` the index
plus displacement, as a signed number; `w` the access's width in bits on a raw page, and `raw` for an access
that takes any page as raw. The answer is the element, or the fault (12 R222). Log 37 (DEDUCED, unsafe). -/
def locate (p : Page) (va base : Nat) (extra : Int) (w : Nat) (raw : Bool) : Except Nat Elem :=
  if raw || isRaw p then
    if va % (w / 8) ≠ 0 then .error kMisaligned
    else
      let pa := p.pa + (va - p.va)
      let e : Elem := { pa := pa, bit := 8 * pa, width := w }
      if p.map && !raw then
        let t := tileAt p va
        .ok { e with tile := some t, idx := pa - t.pay }
      else .ok e
  else if isPacked p then
    let e : Int := (base : Int) - p.va + extra
    if e < 0 || (elemCount p : Int) ≤ e then .error kElemRange
    else
      let (sc, bit) := elemPlace p e.toNat
      .ok { pa := p.pa + bit / 8, bit := 8 * p.pa + bit, width := fmtWidth p.fmt,
            scale := sc.map (· + p.pa), idx := e.toNat }
  else
    let wd := fmtWidth p.fmt / 8
    if va % wd ≠ 0 then .error kMisaligned
    else
      let pa := p.pa + (va - p.va)
      let e : Elem := { pa := pa, bit := 8 * pa, width := 8 * wd }
      if p.map then
        let t := tileAt p va
        .ok { e with tile := some t, idx := (pa - t.pay) / wd }
      else .ok e

/-- Lines of a tile's payload and header. -/
def tileLines (t : TileRef) : List Nat := dedup (lineOf t.hdr :: linesOf t.pay (2 ^ (t.page.tg + 2)))

/-- The coherence lines an element's access touches: its own, its scale's, and its tile's (07 R120). -/
def elemLines (e : Elem) : List Nat :=
  dedup (linesOf (e.bit / 8) ((e.bit % 8 + e.width + 7) / 8) ++
    (match e.scale with | some a => [lineOf a] | none => []) ++
    (match e.tile with | some t => tileLines t | none => []))

end Sys2Proof.Machine
end

