-- ==== Sys2Proof/Machine/Tile.lean ====
section
/-! DEFINITION. Tile headers, the exact value they give an element, the composition of edits and
materialisation (11). -/

namespace Sys2Proof.Machine

/-- A tile header (11 Table 11-1). -/
structure Hdr where
  kind : Nat
  rnd : Nat
  pc : Nat
  pb : Nat
  a : Nat
  b : Nat
  lo : Nat
  hi : Nat
  ver : Nat
  lk : Bool
  rsv : Nat
  deriving DecidableEq, Repr

/-- The identity permutation's PB (11 Table 11-1). -/
def identPb : Nat := 0xBA9876543210

/-- A header from its 256 bits. -/
def hdrOf (v : Nat) : Hdr :=
  { kind := bits v 3 0, rnd := bits v 6 4, pc := bits v 18 7, pb := bits v 66 19, a := bits v 98 67,
    b := bits v 130 99, lo := bits v 162 131, hi := bits v 194 163, ver := bits v 226 195,
    lk := bitAt v 227, rsv := bits v 255 228 }

/-- A header's 256 bits. Log 25 (DEDUCED, unsafe). -/
def hdrBits (h : Hdr) : Nat :=
  h.kind + h.rnd * 2 ^ 4 + h.pc * 2 ^ 7 + h.pb * 2 ^ 19 + h.a * 2 ^ 67 + h.b * 2 ^ 99 + h.lo * 2 ^ 131 +
  h.hi * 2 ^ 163 + h.ver * 2 ^ 195 + (if h.lk then 2 ^ 227 else 0) + h.rsv * 2 ^ 228

/-- Source S*j* of a permutation. -/
def hdrS (h : Hdr) (j : Nat) : Nat := h.pb / 2 ^ (4 * j) % 16

/-- An identity tile (11 R205). -/
def Hdr.ident (h : Hdr) : Bool := h.kind = 0 && h.pc = 0 && h.pb = identPb

/-- -∞ and +∞ in binary32. -/
def f32NegInf : Nat := 0xFF800000
/-- See `f32NegInf`. -/
def f32PosInf : Nat := 0x7F800000

/-- Whether `x ≤ y` for binary32 values that are no NaN. -/
def leF32 (x y : Nat) : Bool := cmpVal (decodeVal 1 x) (decodeVal 1 y) != .gt

/-- Whether an affine map and clamp are the identity map (11 R205). -/
def affIdent (a b lo hi : Nat) : Bool :=
  a = 0x3F800000 && (b = 0 || b = 0x80000000) && lo = f32NegInf && hi = f32PosInf

/-- Whether the first `tl` sources are a permutation of the numbers below `tl`. -/
def isPerm (tl : Nat) (s : Nat → Nat) : Bool := (upto tl).all (fun i => (upto tl).any (fun j => s j = i))

/-- Whether a value is finite. -/
def Val.isFin : Val → Bool
  | .fin _ _ _ => true
  | _ => false

/-- A canonical header without a reserved code or bit and with LK = 0 (11 R205, R206). Log 25 (DEDUCED, unsafe). -/
def Hdr.valid (h : Hdr) (tl fmt : Nat) : Bool :=
  h.rsv = 0 && !h.lk && h.rnd ≤ 5 && h.kind ≤ 2 && (fmt ≠ 22 || h.kind = 0) &&
  isPerm tl (hdrS h) && (upto 12).all (fun j => j < tl || (hdrS h j = j && !bitAt h.pc j)) &&
  (if h.kind = 0 then h.a = 0 && h.b = 0 && h.lo = 0 && h.hi = 0
   else if h.kind = 1 then h.a = 0 && h.lo = 0 && h.hi = 0 && h.pc = 0 && h.pb = identPb
   else
     (decodeVal 1 h.a).isFin && !(decodeVal 1 h.a).isZero && (decodeVal 1 h.b).isFin &&
     !(decodeVal 1 h.lo).isNan && !(decodeVal 1 h.hi).isNan && leF32 h.lo h.hi && !affIdent h.a h.b h.lo h.hi)

/-- π of 11 R207. -/
def permIndex (h : Hdr) (tl i : Nat) : Nat :=
  (upto tl).foldl (fun a j => a + (if bitAt i (hdrS h j) != bitAt h.pc j then 2 ^ j else 0)) 0

/-- `a x + b` over the reals with infinities, an exact zero signed under `mode` (11 R208, 04 R76). -/
def affVal (a x b : Val) (mode : Nat) : Val :=
  match mulVal a x with
  | .nan s => .nan s
  | .inf s => .inf s
  | p =>
    match b with
    | .fin _ _ _ =>
      let d := p.dy.add b.dy
      if d.m = 0 then .fin (zeroSign mode [p, b]) 0 0 else .fin (d.m < 0) d.m.natAbs d.e
    | v => v

/-- clampx (11 R208). -/
def clampVal (y lo hi : Val) : Val :=
  if y.isNan then y
  else if cmpVal y lo == .lt then lo
  else if cmpVal y hi == .gt then hi
  else y

/-- Bytes of one payload element. -/
def elemBytes (p : Page) : Nat := if p.fmt = 22 then 1 else fmtWidth p.fmt / 8

/-- A number from bytes that a reader gives. -/
def readNat (rd : Nat → W8) (a : Nat) : Nat → Nat
  | 0 => 0
  | n + 1 => (rd a).toNat + 256 * readNat rd (a + 1) n

/-- The header of a tile, as a reader gives it. -/
def readHdr (rd : Nat → W8) (t : TileRef) : Hdr := hdrOf (readNat rd t.hdr 32)

/-- The logical value of element `i` (11 R208); `mode` signs an exact zero. -/
def tileVal (rd : Nat → W8) (t : TileRef) (h : Hdr) (mode i : Nat) : Val :=
  if h.kind = 1 then decodeVal 1 h.b
  else
    let n := elemBytes t.page
    let code := readNat rd (t.pay + n * permIndex h t.page.tl i) n
    let x := decodeVal t.page.fmt code
    if h.kind = 0 then x
    else if x.isNan then x
    else clampVal (affVal (decodeVal 1 h.a) x (decodeVal 1 h.b) mode) (decodeVal 1 h.lo) (decodeVal 1 h.hi)

/-- The edits of 11 R211, and materialisation. -/
inductive Edit where
  | fill (c : Nat)
  | perm (pb : Nat) (d : Nat)
  | aff (a b lo hi : Nat)
  | mat
  deriving DecidableEq, Repr

/-- Whether an edit's parameters meet R211 on a page. -/
def Edit.ok (e : Edit) (tl fmt : Nat) : Bool :=
  match e with
  | .fill _ => fmt ≠ 22
  | .perm pb d =>
    pb < 2 ^ 48 && isPerm tl (fun j => pb / 2 ^ (4 * j) % 16) &&
    (upto 12).all (fun j => j < tl || (pb / 2 ^ (4 * j) % 16 = j && !bitAt d j)) && d < 2 ^ 12
  | .aff a b lo hi =>
    fmt ≠ 22 && (decodeVal 1 a).isFin && (decodeVal 1 b).isFin && !(decodeVal 1 lo).isNan &&
    !(decodeVal 1 hi).isNan && leF32 lo hi
  | .mat => true

/-- The binary32 encoding of an exact value, where it has one; a zero is +0 (11 R212, R213). -/
def exactF32 (v : Val) : Option Nat :=
  match v with
  | .nan _ => some (defaultNan 1)
  | .inf s => some (infBits 1 s)
  | .fin s m e =>
    if m = 0 then some 0
    else match roundFloat 1 0 0 true s (.dy m e) with
      | (b, fl) => if fl = 0 then some b else none

/-- The header with an affine part and clamp; the identity map is KIND 0 (11 R212). -/
def hdrAff (h : Hdr) (a b lo hi : Nat) : Hdr :=
  if affIdent a b lo hi then { h with kind := 0, a := 0, b := 0, lo := 0, hi := 0 }
  else { h with kind := 2, a := a, b := b, lo := lo, hi := hi }

/-- The canonical fill (11 R205). -/
def hdrFill (h : Hdr) (c : Nat) : Hdr := { h with kind := 1, pc := 0, pb := identPb, a := 0, b := c, lo := 0, hi := 0 }

/-- The greater and the lesser of two values that are no NaN. -/
def vmax (x y : Val) : Val := if cmpVal x y == .lt then y else x
/-- See `vmax`. -/
def vmin (x y : Val) : Val := if cmpVal x y == .gt then y else x

/-- compose (11 R212): none where the composition is inexact. RND is the caller's. -/
def compose (h : Hdr) (tl : Nat) (e : Edit) : Option Hdr :=
  match e with
  | .mat => some h
  | .fill c => some (hdrFill h c)
  | .perm pb d =>
    if h.kind = 1 then some h
    else
      let pb' := (upto 12).foldl (fun a j =>
        a + (if j < tl then pb / 2 ^ (4 * hdrS h j) % 16 else j) * 2 ^ (4 * j)) 0
      let pc' := (upto 12).foldl (fun a j =>
        a + (if j < tl && (bitAt h.pc j != bitAt d (hdrS h j)) then 2 ^ j else 0)) 0
      some { h with pb := pb', pc := pc' }
  | .aff a2 b2 lo2 hi2 =>
    let va := decodeVal 1 a2
    let vb := decodeVal 1 b2
    let vlo := decodeVal 1 lo2
    let vhi := decodeVal 1 hi2
    if va.isZero then (exactF32 (clampVal vb vlo vhi)).map (hdrFill h)
    else if h.kind = 1 then
      let y := decodeVal 1 h.b
      (exactF32 (if y.isNan then .nan false else clampVal (affVal va y vb 0) vlo vhi)).map (hdrFill h)
    else
      let (a, b, lo, hi) : Val × Val × Val × Val :=
        if h.kind = 0 then (.fin false 1 0, .fin false 0 0, .inf true, .inf false)
        else (decodeVal 1 h.a, decodeVal 1 h.b, decodeVal 1 h.lo, decodeVal 1 h.hi)
      let up := !va.neg
      let l := affVal va (if up then lo else hi) vb 0
      let u := affVal va (if up then hi else lo) vb 0
      let (a', b', lo', hi') : Val × Val × Val × Val :=
        if cmpVal u vlo == .lt then (.fin false 1 0, .fin false 0 0, vlo, vlo)
        else if cmpVal l vhi == .gt then (.fin false 1 0, .fin false 0 0, vhi, vhi)
        else (mulVal va a, affVal va b vb 0, vmax l vlo, vmin u vhi)
      match exactF32 a', exactF32 b', exactF32 lo', exactF32 hi' with
      | some a, some b, some lo, some hi => some (hdrAff h a b lo hi)
      | _, _, _, _ => none

/-- The header after a materialisation (11 R214). -/
def hdrIdent (h : Hdr) : Hdr :=
  { h with kind := 0, pc := 0, pb := identPb, a := 0, b := 0, lo := 0, hi := 0, ver := (h.ver + 1) % 2 ^ 32 }

/-- The cells of a header. -/
def hdrCells (t : TileRef) (h : Hdr) : List Host.Cell := cellsAt t.hdr (natBytes (hdrBits h) 32)

/-- The write that materialises a tile (11 R214, R215). -/
def matCells (rd : Nat → W8) (t : TileRef) (h : Hdr) : List Host.Cell :=
  let n := elemBytes t.page
  let elem (i : Nat) : List Host.Cell :=
    let code :=
      if t.page.fmt = 22 then readNat rd (t.pay + permIndex h t.page.tl i) 1
      else
        (toFloat t.page.fmt h.rnd
          (srRand (BitVec.ofNat 64 (t.hdrVa % 2 ^ 57)) (BitVec.ofNat 32 h.ver) 0 2 0 i)
          (tileVal rd t h h.rnd i)).1
    cellsAt (t.pay + n * i) (natBytes code n)
  (upto (2 ^ t.page.tl)).flatMap elem ++ hdrCells t (hdrIdent h)

end Sys2Proof.Machine
end

