-- ==== Sys2Proof/Machine/Reduce.lean ====
section
/-! DEFINITION. The operators of reduction stores and the merge of an element (23 R393 to R397). -/

namespace Sys2Proof.Machine

/-- Bytes of a reduce-state element: 8 for `red.esum` (operator 2). -/
def redBytes (op ty : Nat) : Nat := if op = 2 then 8 else fmtWidth ty / 8

/-- The sum operator (23 R395). -/
def redSum (ty : Nat) (base : Nat) (parts : List Nat) : Nat :=
  if isInt ty then (parts.foldl (· + ·) base) % 2 ^ fmtWidth ty
  else (sumRound ty 0 0 false ((base :: parts).map (decodeVal ty))).1

/-- The max operator (23 R396): a NaN is stored as the default NaN. -/
def redMax (ty : Nat) (base : Nat) (parts : List Nat) : Nat :=
  let w := fmtWidth ty
  let b := parts.foldl (fun a c =>
    if tord (decodeVal ty c) (decodeVal ty a) == .gt then c else a) (base % 2 ^ w)
  if (decodeVal ty b).isNan then defaultNan ty else b % 2 ^ w

/-- `round(2^(x - m), .f32, RNE)` for the exponents of `combine` (23 R397). -/
def esumExp (x m : Val) : Nat :=
  if cmpVal x m == .eq then 0x3F800000
  else match x, m with
    | .fin _ _ _, .fin _ _ _ =>
      let d := x.dy.add m.negate.dy
      (roundFloat 1 0 0 true false (magExp2 (d.m < 0) d.m.natAbs d.e)).1
    | _, _ => 0

/-- `combine` of two pairs, each `m` in the low word and `s` in the high word (23 R397). -/
def esumCombine (x y : W64) : W64 :=
  let m1 := decodeVal 1 (lo32 x).toNat
  let s1 := decodeVal 1 (hi32 x).toNat
  let m2 := decodeVal 1 (lo32 y).toNat
  let s2 := decodeVal 1 (hi32 y).toNat
  let nan : W32 := BitVec.ofNat 32 (defaultNan 1)
  if m1.isNan || s1.isNan || m2.isNan || s2.isNan then pair64 nan nan
  else
    let (m, mb) := if cmpVal m1 m2 == .lt then (m2, lo32 y) else (m1, lo32 x)
    let e1 := decodeVal 1 (esumExp m1 m)
    let e2 := decodeVal 1 (esumExp m2 m)
    pair64 mb (BitVec.ofNat 32 (sumRound 1 0 0 false [mulVal s1 e1, mulVal s2 e2]).1)

/-- Whether pair `x` sorts before pair `y`: by `m`, then by `s`, in the total order. -/
def esumBefore (x y : W64) : Bool :=
  match tord (decodeVal 1 (lo32 x).toNat) (decodeVal 1 (lo32 y).toNat) with
  | .lt => true
  | .gt => false
  | .eq => tord (decodeVal 1 (hi32 x).toNat) (decodeVal 1 (hi32 y).toNat) == .lt

/-- Insertion into a sorted list of pairs. -/
def esumInsert (x : W64) : List W64 → List W64
  | [] => [x]
  | y :: r => if esumBefore x y then x :: y :: r else y :: esumInsert x r

/-- One level of the tree. -/
def esumLevel : List W64 → List W64
  | x :: y :: r => esumCombine x y :: esumLevel r
  | l => l

/-- The levels of the tree, `fuel` of them at most. -/
def esumTree : Nat → List W64 → W64
  | 0, l => l.headD 0
  | fuel + 1, l => match l with | [x] => x | _ => esumTree fuel (esumLevel l)

/-- The value of an element's merge (23 R395 to R397). -/
def redMerge (op ty : Nat) (base : W64) (parts : List W64) : W64 :=
  if parts = [] then base
  else if op = 2 then
    let leaves := base :: parts.foldl (fun l p => esumInsert p l) []
    esumTree leaves.length leaves
  else
    let p := parts.map (·.toNat)
    BitVec.ofNat 64 (if op = 1 then redMax ty base.toNat p else redSum ty base.toNat p)

end Sys2Proof.Machine
end

