-- ==== Sys2Proof/Machine/Cache.lean ====
section
/-! DEFINITION. The bytes of a die view, and the caches of a die: L1s, guest ways and home ways, their leases, generations and
retention, and the sectors of the home partition (07 R120, 17 R308 to R319). They decide no value (07 R116). -/

namespace Sys2Proof.Machine

/-! ### Views -/

/-- The lines a content touches. -/
def Content.lines : Content → List Nat
  | .cells c => cellLines c
  | .red pa op ty _ => linesOf pa (redBytes op ty)

/-- The contributions to the element of address `a` since the last write of that byte. -/
def Die.redsAt (d : Die) (t a : Nat) : List (Nat × Nat × Nat × W64) :=
  (d.applied t).foldl (fun l c => match c with
    | .cells x => if (cellGet x a).isSome then [] else l
    | .red pa op ty v => if pa ≤ a && a < pa + redBytes op ty then l ++ [(pa, op, ty, v)] else l) []

/-- The byte of a die view at time `t` (07 R120, R140). -/
def Die.byte (d : Die) (t a : Nat) : W8 :=
  match d.redsAt t a with
  | [] => d.cellByte t a
  | (pa, op, ty, v) :: r =>
    let n := redBytes op ty
    let base := bytesNat ((upto n).map (fun i => d.cellByte t (pa + i)))
    let x := redMerge op ty (BitVec.ofNat 64 base) (v :: r.map (·.2.2.2))
    BitVec.ofNat 8 (x.toNat / 2 ^ (8 * (a - pa)))

/-- The bytes of a line in a die view at its clock. -/
def Die.lineData (d : Die) (line : Nat) : List W8 := (upto lineBytes).map (fun i => d.byte d.clock (line * lineBytes + i))

/-! ### Units and indexes -/

/-- The L2 slices of a die (17 R313). -/
def nSlices : Nat := 128

/-- The guest ways of a slice, and its home ways, as units (17 R312, R313). -/
def guestUnit (slice : Nat) : Nat := coresPerDie + slice
/-- See `guestUnit`. -/
def homeUnit (slice : Nat) : Nat := coresPerDie + nSlices + slice

/-- Units of a die: the L1 of each core, then the guest ways of each slice, then its home ways (17 R308, R313). -/
def nUnits : Nat := coresPerDie + 2 * nSlices

/-- Ways of an L1 set, and home ways and guest ways of a slice's set (17 R308, R313). -/
def l1Ways : List Nat := upto 8
/-- See `l1Ways`. -/
def homeWays : Nat := 12
/-- See `l1Ways`: those that a function's mask GWM lets it use (17 R315). Log 104 (DEDUCED, safe). -/
def guestWays (gwm : Nat) : List Nat := ((upto 4).filter (bitAt gwm)).map (· + 12)

/-- The slice that the hash gives a line of the home partition (17 Table 17-3). -/
def hashSlice (line : Nat) : Nat := Nat.xor (bits (line * lineBytes) 16 10) (bits (line * lineBytes) 37 31)

/-- The colour of a 4 KiB or 64 KiB frame (17 Table 17-3). -/
def colourOf (pa : Nat) : Nat := Nat.xor (bits pa 23 17) (bits pa 30 24)

/-- The home set of a line: the colour of its frame (17 R314, Table 17-3). -/
def homeSet (line : Nat) : Nat := colourOf (line * lineBytes)

/-- The slice and the set of a guest copy, from its VA (17 R315). -/
def guestSlice (va : Nat) : Nat := Nat.xor (bits va 16 10) (bits va 43 37)
/-- See `guestSlice`. -/
def guestSet (va : Nat) : Nat := Nat.xor (bits va 23 17) (bits va 30 24)

/-! ### Stored times -/

/-- The generation of a time (17 R310). -/
def genOf (t : Nat) : Nat := bits t 37 30

/-- The generations since reset, which the device counts while a cache sleeps (17 R312). -/
def gensOf (t : Nat) : Nat := t / 2 ^ 30

/-- The time that bits 31 to 0 of it stand for in an awake cache: the latest with them that a lease may give (17 R310, R311). -/
def fullTime (clock : Nat) (x : W32) : Nat :=
  let m := clock + loadWindow
  m - (m + 2 ^ 32 - x.toNat) % 2 ^ 32

/-- Whether a copy serves loads (17 R311, R312). -/
def Copy.serves (c : Copy) (clock : Nat) : Bool := clock ≤ fullTime clock c.rts && !c.marked

/-- Whether a copy's lease lies two or more generations behind, by the generation bits of its stored time; one that lies ahead by
less than a lease counts as present (17 R310). -/
def Copy.behind (c : Copy) (clock : Nat) : Bool := (genOf clock + 4 - bits c.rts.toNat 31 30) % 4 = 2

/-- The copies of some awake caches swept (17 R310). -/
def Die.sweep (d : Die) (p : Nat → Bool) : Die :=
  { d with copies := d.copies.filter (fun c => !(p c.unit && (tget d.asleep c.unit).isNone && c.behind d.clock)) }

/-- A clock that has come to a new generation: each awake cache has swept its lines (17 R310). -/
def Die.nextGen (d : Die) : Die := if gensOf d.clock = d.gen then d else { d.sweep (fun _ => true) with gen := gensOf d.clock }

/-! ### Copies -/

/-- The set of a copy in its cache (17 R308, R315). -/
def Copy.set (c : Copy) : Nat := if c.unit < coresPerDie then c.va % 128 else guestSet (c.va * lineBytes)

/-- Whether two copies of one cache share a way: an L1 way holds a line, a guest way a sector (17 R308, R313). -/
def Copy.sameWay (c x : Copy) : Bool := c.asid = x.asid && (if c.unit < coresPerDie then c.va = x.va else c.va / 8 = x.va / 8)

/-- A copy put into one of some ways of its set: a way that holds its tag, a free one, or that of the oldest copy there, which goes (17
R308, R313, R315). -/
def Die.putCopy (d : Die) (c : Copy) (ways : List Nat) : Die :=
  let mates := d.copies.filter (fun x => x.unit = c.unit && x.set = c.set)
  let way := match mates.find? (fun x => c.sameWay x && ways.contains x.way) with
    | some x => x.way
    | none => match ways.find? (fun w => mates.all (fun x => x.way ≠ w)) with
      | some w => w
      | none => match mates.find? (fun x => ways.contains x.way) with | some x => x.way | none => ways.headD 0
  let gone (x : Copy) : Bool := x.unit = c.unit && x.set = c.set && ((x.way = way && !c.sameWay x) || (x.asid = c.asid && x.va = c.va))
  { d with copies := d.copies.filter (fun x => !gone x) ++ [{ c with way := way }] }

/-- The copies once a die has applied a write: the issuing core's L1 takes it, and guest copies of its lines are dropped (17 R308,
R320). -/
def Die.wroteCopies (d : Die) (lines : List Nat) (core : Option Nat) : Die :=
  { d with copies := (d.copies.filter (fun c => c.unit < coresPerDie || !lines.contains c.line)).map (fun c =>
      if lines.contains c.line && some c.unit = core then
        { c with wts := BitVec.ofNat 32 d.clock, rts := BitVec.ofNat 32 d.clock, data := d.lineData c.line }
      else c) }

/-! ### The home partition -/

/-- The slice of a line's sector: where it lies, or by the hash (17 Table 17-3, R316). Log 85 (DEDUCED, safe). -/
def Die.sliceOf (d : Die) (line : Nat) : Nat := match tget d.sectors (line / 8) with | some x => x.slice | none => hashSlice line

/-- The sectors that take a home way of a set of a slice: those that lie there, and those that have moved away and left a forwarding
entry (17 R313, R316). -/
def Die.inWays (d : Die) (slice set : Nat) : List (Nat × Sector) :=
  d.sectors.filter (fun e => homeSet (8 * e.1) = set && (e.2.slice = slice || hashSlice (8 * e.1) = slice))

/-- The older of two sectors by their last use. -/
def olderSector (a b : Nat × Sector) : Nat × Sector := if b.2.used < a.2.used then b else a

/-- The sector used least recently. -/
def oldestSector : List (Nat × Sector) → Option Nat
  | [] => none
  | x :: r => some (r.foldl olderSector x).1

/-- A sector evicted: a scratch one's lines become the backing value; its forwarding entry goes with it (17 Table 17-1, R316, 07
R129). -/
def State.evictSector (s : State) (d k : Nat) : State :=
  match tget (s.die d).sectors k with
  | none => s
  | some x =>
    let s := if x.scratch then
        (upto 8).foldl (fun s i => s.modMem (fun m => { m with
          backing := memSetAll m.backing (cellsAt ((8 * k + i) * lineBytes) ((s.die d).lineData (8 * k + i))) })) s
      else s
    s.modDie d (fun y => { y with sectors := tdel y.sectors k })

/-- A home way of a set made free. Log 60 (DEDUCED, unsafe). -/
def State.makeRoom (s : State) (d slice set : Nat) : Nat → State
  | 0 => s
  | n + 1 =>
    let l := (s.die d).inWays slice set
    if l.length < homeWays then s
    else match oldestSector l with | some k => (s.evictSector d k).makeRoom d slice set n | none => s

/-- A cache that wakes: after two generations or more it holds nothing, dirty lines written back; after fewer its copies are marked (17
R312). -/
def State.wakeUnit (s : State) (d unit : Nat) : State :=
  match tget (s.die d).asleep unit with
  | none => s
  | some g =>
    let n := min 255 (gensOf (s.die d).clock - g)
    let s := s.modDie d (fun x => { x with asleep := tdel x.asleep unit })
    if n < 2 then s.modDie d (fun x => { x with copies := x.copies.map (fun c => if c.unit = unit then { c with marked := true } else c) })
    else
      let s := s.modDie d (fun x => { x with copies := x.copies.filter (fun c => c.unit ≠ unit) })
      (((s.die d).sectors.filter (fun e => homeUnit e.2.slice = unit)).map (·.1)).foldl (fun s k => s.evictSector d k) s

/-- The cluster of an access that no core makes. -/
def noCluster : Nat := nCores

/-- A sector as it is brought in. -/
def newSector (k : Nat) : Sector := { slice := hashSlice (8 * k), recent := [], cols := false, cnt := 0 }

/-- A sector after a request, by rows or by columns: the fourth in a row against the stored orientation asks for a flip (17 R316,
R318). -/
def Sector.request (x : Sector) (cluster clock : Nat) (cols scratch : Bool) : Sector :=
  let r := x.recent ++ [cluster]
  let against := x.cols ≠ cols
  { x with recent := r.drop (r.length - 16), used := clock, scratch := x.scratch || scratch,
           cnt := if against then (x.cnt + 1) % 4 else 0, flip := x.flip || (against && x.cnt = 3) }

/-- A request for a line at its home: its slice wakes, its sector is brought in if it is absent, which counts as a miss of its
page, and the request counts for the sector (17 R312, R316, R318, R328); one to a page with host bias goes to the stack (25 R413).
Log 60 (DEDUCED, unsafe). -/
def State.homeRequest (s : State) (d cluster : Nat) (cols : Bool) (line : Nat) : State :=
  if s.hostBias line then s else
  let k := line / 8
  let s := s.wakeUnit d (homeUnit ((s.die d).sliceOf line))
  let hit := (tget (s.die d).sectors k).isSome
  let s := if hit then s else s.makeRoom d (hashSlice line) (homeSet line) (homeWays + nSlices)
  s.modDie d (fun y =>
    let scr := y.mtlb.any (fun t => t.page.cc = 1 && t.page.hasLine line)
    { y with
      mtlb := if hit then y.mtlb else y.mtlb.map (fun t => if t.page.hasLine line then { t with misses := t.misses + 1 } else t)
      sectors := tset y.sectors k ((tgetD y.sectors k (newSector k)).request cluster y.clock cols scr) })

/-- Requests for some lines at their home. -/
def State.homeRequests (s : State) (d cluster : Nat) (cols : Bool) (lines : List Nat) : State :=
  lines.foldl (fun s l => s.homeRequest d cluster cols l) s

/-- All lines of the sectors of some lines: a column line is served under leases on the 8 of its sector, renewed together (17 R319). -/
def sectorLines (ls : List Nat) : List Nat := (dedup (ls.map (· / 8))).flatMap (fun k => (upto 8).map (fun i => 8 * k + i))

end Sys2Proof.Machine
end

