-- ==== Sys2Proof/Machine/View.lean ====
section
/-! DEFINITION. The home value and the die views, and the sequencing and applying of writes (07 R118 to R121,
R140, 23 R393). -/

namespace Sys2Proof.Machine

/-- Bytes after contents, contributions apart. -/
def applyCells (m : List Host.Cell) (c : List Content) : List Host.Cell :=
  c.foldl (fun m x => memSetAll m x.cells?) m

/-- The home value of a byte, contributions merged (07 R140). -/
def State.homeByte (s : State) (a : Nat) : W8 :=
  match s.mem.reduce.find? (fun e => e.pa ≤ a && a < e.pa + redBytes e.op e.ty) with
  | some e =>
    let x := redMerge e.op e.ty (BitVec.ofNat 64 (memNat s.mem.home e.pa (redBytes e.op e.ty))) e.parts
    BitVec.ofNat 8 (x.toNat / 2 ^ (8 * (a - e.pa)))
  | none => memGet s.mem.home a

/-- The die view of a die at its clock. -/
def State.viewByte (s : State) (d a : Nat) : W8 := (s.die d).byte (s.die d).clock a

/-- The vector clock a write leaves a die with (07 R118). -/
def State.vcOf (s : State) (d : Nat) : List Nat := (s.die d).n

/-- A write numbered by its home sequencer and sent to every die's apply queue (07 R118); it is a request at its home (17 R316). -/
def State.seqRaw (s : State) (home : Nat) (vc : List Nat) (content : List Content) (gid : Option Nat) : State :=
  let num := (s.die home).h + 1
  let w : Wr := { home := home, num := num, vc := lset vc home num, content := content,
                  lines := dedup (content.flatMap Content.lines), gid := gid }
  let cl := match gid.bind (fun g => tget s.accs g) with | some a => clusterOf a.core | none => noCluster
  let s := (s.homeRequests home cl false w.lines).modDie home (fun d => { d with h := num })
  let s := s.modMem (fun m => { m with home := applyCells m.home content })
  (upto nDies).foldl (fun s d => s.modDie d (fun x => { x with aq := x.aq ++ [w] })) s

/-- The merge of one element, sequenced at home when it changes anything (23 R393). -/
def State.mergeElem (s : State) (home : Nat) (e : RedElem) : State :=
  if e.parts = [] then s
  else
    let n := redBytes e.op e.ty
    let x := redMerge e.op e.ty (BitVec.ofNat 64 (memNat s.mem.home e.pa n)) e.parts
    let s := s.seqRaw home (s.vcOf home) [.cells (cellsAt e.pa (natBytes x.toNat n))] none
    s.modMem (fun m => { m with reduce := m.reduce.map (fun r => if r.pa = e.pa then { r with parts := [] } else r) })

/-- The elements of some lines in reduce state. -/
def State.redOn (s : State) (lines : List Nat) : List RedElem :=
  s.mem.reduce.filter (fun e => lines.contains (lineOf e.pa))

/-- Every element of some lines merged, and the lines out of reduce state (23 Table 23-1). -/
def State.leaveReduce (s : State) (home : Nat) (lines : List Nat) : State :=
  let s := (s.redOn lines).foldl (fun s e => s.mergeElem home e) s
  s.modMem (fun m => { m with reduce := m.reduce.filter (fun e => !lines.contains (lineOf e.pa)) })

/-- The merges that a read of some bytes forces (23 Table 23-1). -/
def State.mergeRead (s : State) (home : Nat) (a n : Nat) : State :=
  (s.mem.reduce.filter (fun e => e.pa < a + n && a < e.pa + redBytes e.op e.ty)).foldl
    (fun s e => s.mergeElem home e) s

/-- Whether cells cover a whole line. -/
def coversLine (c : List Host.Cell) (l : Nat) : Bool :=
  (upto lineBytes).all (fun i => (cellGet c (l * lineBytes + i)).isSome)

/-- An ordinary write: its lines leave reduce state, and a line it covers whole is no longer poisoned (23
Table 23-1, 26 R428). -/
def State.seqWrite (s : State) (home : Nat) (vc : List Nat) (c : List Host.Cell) (gid : Option Nat) : State :=
  let s := s.leaveReduce home (cellLines c)
  let s := s.seqRaw home vc [.cells c] gid
  if s.mem.poison = [] then s
  else s.modMem (fun m => { m with poison := m.poison.filter (fun l => !coversLine c l) })

/-- A contribution sequenced at home (07 R140, 12 R238). -/
def State.seqRed (s : State) (home : Nat) (vc : List Nat) (pa op ty : Nat) (v : W64) (gid : Option Nat) : State :=
  let n := redBytes op ty
  let other := s.mem.reduce.filter (fun e => e.pa < pa + n && pa < e.pa + redBytes e.op e.ty &&
    !(e.pa = pa && e.op = op && e.ty = ty))
  let s := other.foldl (fun s e => s.mergeElem home e) s
  let s := s.seqRaw home vc [.red pa op ty v] gid
  s.modMem (fun m =>
    let k := m.redSeq + 1
    let keep := m.reduce.filter (fun e => !other.any (fun o => o.pa = e.pa))
    let r := if keep.any (fun e => e.pa = pa) then
        keep.map (fun e => if e.pa = pa then { e with parts := e.parts ++ [v], last := k } else e)
      else keep ++ [{ pa := pa, op := op, ty := ty, parts := [v], last := k, home := home }]
    { m with redSeq := k, reduce := r })

/-- The accessed and dirty bits of a page-table entry set at home (01 R38). -/
def State.setPte (s : State) (home pte : Nat) (dirty : Bool) : State :=
  let b := memGet s.mem.home pte
  let n := b ||| (if dirty then 0x18 else 0x08)
  if pte = 0 || b = n then s else s.seqWrite home (s.vcOf home) [(pte, n)] none

/-- The bits of a page-table entry that a page's access sets; none on a page of no table. -/
def State.touchPage (s : State) (p : Page) (dirty : Bool) : State := s.setPte p.die p.pte dirty

/-- The largest read lease of some lines. -/
def Die.rtsOf (d : Die) (lines : List Nat) : Nat := lines.foldl (fun m l => max m (tgetD d.rts l 0)) 0

/-- Read leases raised to `t`. -/
def Die.setRts (d : Die) (lines : List Nat) (t : Nat) : Die :=
  { d with rts := lines.foldl (fun r l => tset r l (max t (tgetD r l 0))) d.rts }

/-- Log entries that no load can reach behind, folded into the view, up to the first contribution. -/
def foldLog (view : List Host.Cell) (lim : Nat) : List Applied → List Host.Cell × List Applied
  | [] => (view, [])
  | e :: r =>
    if e.t ≤ lim && e.content.all (fun c => match c with | .cells _ => true | .red _ _ _ _ => false) then
      foldLog (applyCells view e.content) lim r
    else (view, e :: r)

/-- The log without the entries older than the load window (07 R120). -/
def Die.trim (d : Die) : Die :=
  let (v, l) := foldLog d.view (d.clock - loadWindow) d.log
  { d with view := v, log := l }

/-- Whether a die may apply a write (07 R119). -/
def Die.mayApply (d : Die) (w : Wr) : Bool :=
  (upto nDies).all (fun x =>
    if x = w.home then d.n.getD x 0 + 1 = w.vc.getD x 0 else w.vc.getD x 0 ≤ d.n.getD x 0)

/-- The apply step of a die (07 R119). -/
def Die.apply (d : Die) (w : Wr) : Die :=
  let t := max d.clock (d.rtsOf w.lines) + 1
  let d := d.setRts w.lines t
  let d := { d with clock := t, wts := w.lines.foldl (fun r l => tset r l t) d.wts, n := lset d.n w.home (d.n.getD w.home 0 + 1),
                    log := d.log ++ [(⟨t, w.home, w.num, w.content⟩ : Applied)],
                    aq := d.aq.filter (fun x => !(x.home = w.home && x.num = w.num)) }
  d.nextGen.trim

/-- GWM of a function: 0xF until it is written (17 Table 17-7). Log 104 (DEDUCED, safe). -/
def Die.gwmOf (d : Die) (v : Nat) : W64 := tgetD d.gwm v 0xF

/-- Memory poison on a line. -/
def State.poisoned (s : State) (lines : List Nat) : Bool := lines.any (fun l => s.mem.poison.contains l)

/-- Whether a ring register pair holds a legal base and size (20 R368, 26 R431). -/
def ringOkRegs (base size : Nat) : Bool :=
  [64, 128, 256, 512, 1024, 2048, 4096, 8192, 16384, 32768, 65536].contains size && base % 4096 = 0

/-- Whether the fault record queue has no room: FQHEAD − FQTAIL = FQSIZE, whatever else its registers hold (20 R368). -/
def Die.fqFull (d : Die) : Bool := d.fqHead - d.fqTail = d.fqSize

/-- OVF of FQCTL set while records wait for room (20 R368). -/
def Die.overflow (d : Die) : Die := if d.fqFull && !d.faults.isEmpty then { d with fqCtl := d.fqCtl ||| 4 } else d

/-- What a read of some bytes does beside giving them: merges, requests at home by a cluster, by rows or by columns, the accessed
bits, and read leases at time `t` (07 R120, 17 R316, 23 Table 23-1). -/
def State.readDone (s : State) (die t : Nat) (pages : List Page) (ranges : List (Nat × Nat × Nat)) (lines : List Nat)
    (cl : Nat := noCluster) (cols : Bool := false) : State :=
  let s := ranges.foldl (fun s r => s.mergeRead r.1 r.2.1 r.2.2) s
  let s := ranges.foldl (fun s r => s.homeRequests r.1 cl cols (linesOf r.2.1 r.2.2)) s
  let s := pages.foldl (fun s p => s.touchPage p false) s
  s.modDie die (fun d => d.setRts lines t)

/-- A fault record in the queue of a die (20 R442). -/
def State.queueFault (s : State) (die : Nat) (r : FaultRec) : State :=
  s.modDie die (fun d => { d with faults := d.faults ++ [r] }.overflow)

/-- A record of an event that parks no thread (20 Table 20-3). -/
def engRec (kind access asid va : Nat) : FaultRec :=
  { kind := kind, access := access, eng := true, asid := asid, va := BitVec.ofNat 64 va, pc := 0, frame := 0,
    vf := 0, wave := 0, lanes := 0, opa := 0, opb := 0, words := 0, opx := 0 }

/-- Whether an engine, a stream or the winnower owns some line (07 R137, 18 R352). -/
def State.owned (s : State) (lines : List Nat) : Bool :=
  s.engines.any (fun e => match e.2.job with | some j => lines.any (fun l => j.owned.contains l) | none => false) ||
  s.streams.any (fun x => match x.job with | some j => lines.any (fun l => j.owned.contains l) | none => false) ||
  s.launches.any (fun l => lines.any (fun x => l.2.owned.contains x))

/-- Whether a product pins some line (14 R268). -/
def State.pinned (s : State) (lines : List Nat) : Bool :=
  s.execs.any (fun c => c.2.products.any (fun p => lines.any (fun l => p.pins.contains l)))

end Sys2Proof.Machine
end

