-- ==== Sys2Proof/Machine/Order.lean ====
section
/-! DEFINITION. Program order (07 R122 to R126, R244): issue queues, what must wait for what, and the ends of
accesses and fences. -/

namespace Sys2Proof.Machine

/-- Whether an access acquires (07 Table 7-2). -/
def Acc.isAcq (a : Acc) : Bool := a.ord = .acq || a.ord = .acqrel || a.ord = .sc
/-- Whether an access releases. -/
def Acc.isRel (a : Acc) : Bool := a.ord = .rel || a.ord = .acqrel || a.ord = .sc
/-- An `.unp` or `.com` operation, which has no order (07 Table 7-4). -/
def Acc.weak (a : Acc) : Bool := a.use = .unp || a.use = .com
/-- A store whose element code is computed at home (12 R226). -/
def Acc.atHome (a : Acc) : Bool := a.kind = .store && !a.raw && a.page.blk ≠ 0

/-- Whether two accesses touch one line. Log 28 (DEDUCED, unsafe). -/
def Acc.sameLine (a b : Acc) : Bool := a.target = b.target && a.lines.any (fun l => b.lines.contains l)

/-- The keys of L for an access's lines: a line has one for each home that serves it, since two homes' accesses to one frame have no
further order (07 R120, 17 R307). -/
def Acc.floorKeys (a : Acc) : List Nat :=
  a.lines.map (fun l => 8 * l + (match a.target with | .pkg h => h % 4 | .other _ => 4 | .host => 5))

/-- Whether two elements share a bit. -/
def Elem.overlaps (a b : Elem) : Bool := a.bit < b.bit + b.width && b.bit < a.bit + a.width

/-- The cores of a core's cluster. -/
def clusterCores (c : Nat) : List Nat := (upto 4).map (· + 4 * clusterOf c)

/-- A store that the forwarding path of its cluster carries (07 R127). -/
def Acc.onPath (a : Acc) : Bool := a.kind = .store && a.page.cc = 3 && a.elem.tile.isNone && (match a.target with | .pkg _ => true | _ => false)

/-- Whether the path has delivered it to every core of the cluster. -/
def Acc.delivered (a : Acc) : Bool := (clusterCores a.core).all (a.deliv.contains ·)

/-- Whether an access whose end is still to come has performed at a scope (07 Table 7-3).
Log 111 (DEDUCED, unsafe). -/
def Acc.performedAt (a : Acc) (scope : Nat) : Bool :=
  match a.kind with
  | .load | .fence => false
  | _ => match a.target with
    | .pkg _ => if scope ≤ 3 then a.onPath && a.delivered else a.applied
    | .other _ => scope ≤ 2 && a.stage = .sent
    | .host => scope ≤ 4 && a.stage = .sent

/-- Whether an access has not left its store buffer. -/
def Acc.unsent (e : Acc) : Bool := e.stage = .waiting || e.stage = .issued

/-- The same-line row of 07 Table 7-2 for an earlier access that has not ended: stores go in program order, and a
load may take the bytes of its thread's own store (R120). `.unp` and `.com` operations have no order among themselves, and
a read sees any subset of them (Table 7-4). Log 27 (DEDUCED, unsafe). Log 28 (DEDUCED, unsafe). -/
def Acc.lineBlocks (e g : Acc) : Bool :=
  e.sameLine g && !(e.weak && g.weak) &&
  match e.kind, g.kind with
  | .atomic, .load | .red, .load => !e.weak
  | .store, .load =>
    match e.target with
    | .pkg _ => g.page.cc = 2 || (e.atHome && e.elem.overlaps g.elem)
    | _ => e.unsent
  | .store, .atomic | .red, .atomic | .edit, .atomic => e.stage != .numbered
  | .edit, .load => true
  | .store, _ | .red, _ | .edit, _ => e.unsent
  | .atomic, k => if e.weak then (if k = .atomic then e.stage != .numbered else e.unsent) else true
  | _, _ => true

/-- The channel rows of 07 Table 7-2. -/
def Acc.channelBlocks (e g : Acc) : Bool :=
  match e.target, g.target with
  | .other p, .other q => p = q && e.unsent
  | .host, .host => e.unsent
  | _, _ => false

/-- Whether a release, or a fence, of a scope waits for an earlier access (07 Table 7-2, R124).
Log 111 (DEDUCED, unsafe). -/
def Acc.delays (e : Acc) (scope : Nat) : Bool := !e.performedAt scope

/-- Whether an earlier access or fence, not yet ended, keeps a later one from performing, being sent or
completing (07 Table 7-2, R124). A fence of order `.rlx` is the gate of a release that is no access (13 R256): it
waits, and nothing waits for it. A store that is applied and waits in its queue for the forwarding path holds back releases
and fences only (R127). Log 27 (DEDUCED, unsafe). Log 28 (DEDUCED, unsafe). Log 111 (DEDUCED, unsafe). -/
def Acc.blocks (e g : Acc) : Bool :=
  if e.kind = .fence then e.ord ≠ .rlx && (e.ord ≠ .rel || (g.kind ≠ .load && g.kind ≠ .fence))
  else if g.kind = .fence then
    if g.vc ≠ [] then false
    else if g.ord = .acq then e.kind = .load || (e.kind = .atomic && !e.weak) else e.delays g.scope
  else
    (!e.applied && (e.isAcq || (e.page.cc = 2 && g.page.cc = 2) || e.lineBlocks g || e.channelBlocks g)) ||
    (g.isRel && e.delays g.scope)

/-- The stream of an owner. -/
def State.stream (s : State) (o : Owner) : Stream :=
  match o with
  | .thread tid => (s.thread tid).q
  | .uni wk => (s.wave wk).uq
  | _ => {}

/-- The stream of an owner changed. -/
def State.modStream (s : State) (o : Owner) (f : Stream → Stream) : State :=
  match o with
  | .thread tid => s.modThread tid (fun t => { t with q := f t.q })
  | .uni wk => s.modWave wk (fun w => { w with uq := f w.uq })
  | _ => s

/-- Every stream changed. -/
def State.modStreams (s : State) (f : Stream → Stream) : State :=
  { s with threads := tmapAll s.threads (fun _ t => { t with q := f t.q }),
           waves := tmapAll s.waves (fun _ w => { w with uq := f w.uq }) }

/-- A fence that a thread executes, or a barrier asks of it: it orders no other thread's accesses (07 R126).
Log 34 (DEDUCED, unsafe). -/
def Acc.ownFence (f : Acc) : Bool := f.kind = .fence && f.op = 0 && f.ord ≠ .rlx

/-- Whether an access or fence stands in a stream as its own. -/
def Stream.holds (q : Stream) (g : Acc) : Bool := q.iq.contains g.gid && !q.foreign.contains g.gid

/-- The accesses and fences of a stream before one of its own. -/
def State.before (s : State) (q : Stream) (g : Acc) : List Acc :=
  (q.iq.takeWhile (fun k => k ≠ g.gid)).filterMap (fun k => tget s.accs k)

/-- Whether an access or fence of a stream keeps a later one back. Another thread's accesses do not keep a fence back (07
R126), and its stores are not forwarded to a load (R120). -/
def Stream.blocks (q : Stream) (e g : Acc) : Bool :=
  if q.foreign.contains e.gid then
    !g.ownFence && (e.blocks g || (e.kind = .store && g.kind = .load && e.sameLine g && !e.applied))
  else e.blocks g

/-- Whether program order lets an access perform or be sent, or a fence complete: every stream that it stands in
lets it (07 R122, R124, R126). -/
def State.mayGo (s : State) (g : Acc) : Bool :=
  let ok (q : Stream) : Bool := !q.holds g || (s.before q g).all (fun e => !q.blocks e g)
  s.threads.all (fun t => ok t.2.q) && s.waves.all (fun w => ok w.2.uq)

/-- Whether a held atomic keeps an access or a fence back, in any stream that it stands in (07 R135).
Log 18 (DEDUCED, unsafe). -/
def State.heldBack (s : State) (f : Acc) : Bool :=
  let back (q : Stream) : Bool := q.holds f && (s.before q f).any (fun e => e.held && !e.drained && q.blocks e f)
  s.threads.any (fun t => back t.2.q) || s.waves.any (fun w => back w.2.uq)

/-- Whether a thread stalls at a release, a fence or another access, its own or its wave's uniform one, that must wait for a
held atomic (07 R135). Log 18 (DEDUCED, unsafe). -/
def State.detStalled (s : State) (tid : Nat) : Bool :=
  let stuck (q : Stream) : Bool := (q.iq.filterMap (fun k => tget s.accs k)).any (fun f =>
    q.holds f && (f.kind = .fence || f.isRel || !f.held) && s.heldBack f)
  s.isDet (tkOf tid) && (stuck (s.thread tid).q || stuck (s.wave (wkOf tid)).uq)

/-- An access gone from a stream. -/
def Stream.drop (q : Stream) (g : Nat) : Stream :=
  { q with iq := q.iq.filter (fun k => k ≠ g), foreign := q.foreign.filter (fun k => k ≠ g) }

/-- The end of an access in one stream: at time `t`, 0 for none (07 R120, R121, R132). It stays in the queue if it is `kept`
there. -/
def Stream.finish (q : Stream) (a : Acc) (t : Nat) (kept : Bool) : Stream :=
  if q.iq.contains a.gid then
    { (if kept then q else q.drop a.gid) with
      floor := if a.isAcq then max q.floor t else q.floor,
      lines := if t = 0 then q.lines else a.floorKeys.foldl (fun l x => tset l x (max t (tgetD l x 0))) q.lines,
      maxT := if (a.kind = .load || a.kind = .atomic) && !q.foreign.contains a.gid then max q.maxT t else q.maxT }
  else q

/-- The end of an access: it leaves the queues, and the table unless the forwarding path still holds it (07 R127) or
its package channel has yet to answer (R130). One that the path has not delivered everywhere keeps its place in the queues,
since it has not performed at every scope (Table 7-3). -/
def State.finishAcc (s : State) (a : Acc) (t : Nat) : State :=
  match tget s.accs a.gid with
  | some x =>
    let remote : Bool := match x.owner with | .remote _ _ _ => true | _ => false
    let path := x.onPath && !x.homed
    let s := s.modStreams (fun q => q.finish a t (path && !x.delivered && t ≠ 0))
    if remote || (path && t ≠ 0) then s.modAcc a.gid (fun x => { x with applied := true })
    else { s with accs := tdel s.accs a.gid }
  | none => s.modStreams (fun q => q.finish a t false)

/-- An access gone from every queue. -/
def State.dropAcc (s : State) (g : Nat) : State := s.modStreams (fun q => q.drop g)

/-- F of a stream. -/
def Stream.low (q : Stream) : Nat := max q.floor q.fenceF

/-- The end of a fence that sets F to `t`; one that a `.sc` access implies belongs to the access (07 R124, Table 7-2). -/
def Stream.endFence (q : Stream) (f : Acc) (t : Nat) : Stream :=
  if q.iq.contains f.gid then
    { q with iq := q.iq.filter (fun k => k ≠ f.gid),
             foreign := q.foreign.filter (fun k => k ≠ f.gid),
             floor := if f.op = 1 then max q.floor t else q.floor,
             fenceF := if f.op = 1 then q.fenceF else max q.fenceF t }
  else q

/-- The largest time of the loads before a fence, of every thread that it stands for. Log 63 (DEDUCED, unsafe). -/
def State.fenceT (s : State) (f : Acc) : Nat :=
  let up (m : Nat) (q : Stream) : Nat := if q.iq.contains f.gid then max m q.maxT else m
  s.waves.foldl (fun m w => up m w.2.uq) (s.threads.foldl (fun m t => up m t.2.q) 0)

/-- The end of a fence in every stream that it stands in (07 R124, R125): an acquire takes the largest time of the earlier
loads, a full fence the die clock. Log 111 (DEDUCED, unsafe). -/
def State.endFence (s : State) (f : Acc) : State :=
  let t := if f.ord = .sc || f.vc ≠ [] then (s.die f.die).clock else if f.ord = .acq then s.fenceT f else 0
  { (s.modStreams (fun q => q.endFence f t)) with accs := tdel s.accs f.gid }

/-- A new access at the end of its owner's queue. -/
def State.addAcc (s : State) (a : Acc) : Nat × State :=
  let (g, s) := s.fresh
  let s := { s with accs := tset s.accs g { a with gid := g } }
  (g, s.modStream a.owner (fun q => { q with iq := q.iq ++ [g] }))

/-- A fence of an owner. -/
def fenceOf (o : Owner) (core die team : Nat) (ord : Ord) (scope : Nat) : Acc :=
  { gid := 0, owner := o, core := core, die := die, team := team, kind := .fence, ord := ord, scope := scope }

/-- A fence added; an `.acqrel` one is an `.acq` and a `.rel` together (07 R124). The answer lists the fences. -/
def State.addFence (s : State) (o : Owner) (core die team : Nat) (ord : Ord) (scope : Nat) : List Nat × State :=
  match ord with
  | .acqrel =>
    let (a, s) := s.addAcc (fenceOf o core die team .acq scope)
    let (b, s) := s.addAcc (fenceOf o core die team .rel scope)
    ([a, b], s)
  | x =>
    let (a, s) := s.addAcc (fenceOf o core die team x scope)
    ([a], s)

/-- An access added with the fences that `.sc` implies around it (07 Table 7-2). -/
def State.addOrdered (s : State) (a : Acc) : Nat × State :=
  if a.ord = .sc then
    let f : Acc := { fenceOf a.owner a.core a.die a.team .sc a.scope with op := 1 }
    let (_, s) := s.addAcc f
    let (g, s) := s.addAcc a
    let (_, s) := s.addAcc f
    (g, s)
  else s.addAcc a

/-- One queue with the entries of another after its own. Log 34 (DEDUCED, unsafe). -/
def joinIq (a b : List Nat) : List Nat := a ++ b.filter (fun k => !a.contains k)

/-- What of a queue stands before other threads' later accesses: all but its thread's own fences (07 R126). -/
def State.joinable (s : State) (q : Stream) : List Nat :=
  q.iq.filter (fun k => match tget s.accs k with | some a => !a.ownFence | none => false)

/-- The larger of two line floors, line by line. Log 34 (DEDUCED, unsafe). -/
def joinLines (a b : Tbl Nat) : Tbl Nat := b.foldl (fun r e => tset r e.1 (max e.2 (tgetD r e.1 0))) a

/-- The program orders of several streams joined (13 R244): the accesses that stand in one stand before what any of
them adds from now on. No fence is added, and a thread's fences stay its own. Log 34 (DEDUCED, unsafe). -/
def State.joinStreams (s : State) (os : List Owner) : State :=
  let qs := os.map s.stream
  let iq := qs.foldl (fun a q => joinIq a (s.joinable q)) []
  let floor := qs.foldl (fun a q => max a q.floor) 0
  let lines := qs.foldl (fun a q => joinLines a q.lines) []
  os.foldl (fun s o => s.modStream o (fun q =>
    { q with iq := joinIq q.iq iq, foreign := q.foreign ++ iq.filter (fun k => !q.iq.contains k), floor := floor,
             lines := joinLines q.lines lines })) s

/-- The streams of a wave: its live threads' and its uniform stream. -/
def State.waveOwners (s : State) (wk : Nat) : List Owner := (s.liveOf wk).map Owner.thread ++ [.uni wk]

/-- One fence standing in several streams (07 R126). -/
def State.addShared (s : State) (os : List Owner) (f : Acc) : Nat × State :=
  let (g, s) := s.fresh
  let s := { s with accs := tset s.accs g { f with gid := g } }
  (g, os.foldl (fun s o => s.modStream o (fun q => { q with iq := q.iq ++ [g] })) s)

/-- Whether a fence needs the package drain (07 R125). -/
def Acc.drains (f : Acc) : Bool := f.ord = .sc && 5 ≤ f.scope

end Sys2Proof.Machine
end

