-- ==== Sys2Proof/Machine/Barrier.lean ====
section
/-! DEFINITION. The trees of the barriers: entries of the barrier tables, and the counts that arrivals and ends of teams give
them (18 R354 to R356, 15 R284). -/

namespace Sys2Proof.Machine

/-- The kind `BAR_SPILL` (20 Table 20-1). -/
def tBarSpill : Nat := 0x40

/-- A group id (18 R355). -/
def gidOf (num lev id : Nat) (barw : Bool) (inst : Nat) : W64 :=
  BitVec.ofNat 64 (num % 2 ^ 16 + lev % 8 * 2 ^ 16 + id % 256 * 2 ^ 19 + (if barw then 2 ^ 27 else 0) + inst * 2 ^ 28)

/-- The record of a barrier entry that is missing (18 R356, 20 R442). -/
def State.barSpill (s : State) (die : Nat) (gid : W64) : State :=
  s.queueFault die { engRec tBarSpill 11 0 gid.toNat with opa := BitVec.ofNat 64 die }

/-- Whether an entry is the node of a group. -/
def BtEntry.is (e : BtEntry) (gid : W64) (node : Nat) : Bool := e.gid = gid && e.node = node

/-- The entry of a node in a die's table. -/
def State.btFind (s : State) (die : Nat) (gid : W64) (node : Nat) : Option BtEntry := (s.die die).bt.find? (fun e => e.is gid node)

/-- An entry of a die's barrier table found, or allocated: none when there is no room or the entry has been
evicted (18 R355, R356). -/
def State.btGet (s : State) (die : Nat) (gid : W64) (node expected : Nat) : Option State :=
  let d := s.die die
  if (s.btFind die gid node).isSome then some s
  else if d.btOut.contains (gid, node) || 4096 ≤ d.bt.length then none
  else some (s.modDie die (fun d => { d with bt := d.bt ++ [{ gid := gid, node := node, expected := expected, arrived := 0, phase := 0 }] }))

/-- The counts of a node. -/
def State.btCount (s : State) (die : Nat) (gid : W64) (node expected arrived : Nat) : State :=
  s.modDie die (fun d => { d with bt := d.bt.map (fun e =>
    if e.is gid node then { e with expected := expected, arrived := arrived } else e) })

/-- Whether a node has every arrival that it expects. -/
def State.btFull (s : State) (die : Nat) (gid : W64) (node : Nat) : Bool :=
  match s.btFind die gid node with | some e => e.expected ≤ e.arrived | none => false

/-- The counts of a node, its entry allocated at its first arrival; the die whose table lacks the entry otherwise. -/
def State.btPut (s : State) (die : Nat) (gid : W64) (node expected arrived : Nat) : Except Nat State :=
  if arrived = 0 && (s.btFind die gid node).isNone then .ok s
  else match s.btGet die gid node expected with
    | some s => .ok (s.btCount die gid node expected arrived)
    | none => .error die

/-- Teams of an instance that lie on a die and have not ended (18 R354). -/
def State.instTeams (s : State) (l k inst die : Nat) : List Nat :=
  (s.teamsOf l).filter (fun tk =>
    s.instOf k (32 * tk) = inst && (match tget s.teams tk with | some t => t.die = die && t.place ≠ .ended | none => false))

/-- Whether a wait is an arrival at a barrier. -/
def Wait.atBar (w : Wait) (k id : Nat) : Bool := w.what = .bar k id

/-- Whether a thread has arrived at a barrier: at its core, or with `n` = 2 also in its team's arrival at the table. -/
def State.hasArrived (s : State) (k id n tid : Nat) : Bool :=
  s.waits.any (fun w => w.atBar k id && !w.spill && n ≤ w.arr && w.tids.contains tid)

/-- Whether every live thread of a team has arrived at a barrier: 1 at its core, 2 at the table. -/
def State.teamAtBar (s : State) (tk k id n : Nat) : Bool :=
  !(s.teamLive tk).isEmpty && (s.teamLive tk).all (s.hasArrived k id n)

/-- The group id of an instance's barrier. -/
def Launch.gid (l : Launch) (k id inst : Nat) : W64 := gidOf l.num k id false inst

/-- The upper nodes of a barrier bound to package or domain, in the admitting die's table: a package node counts the die
nodes that are complete, and a domain node this package and those whose arrivals were received (18 R354).
Log 119 (DEDUCED, unsafe). -/
def State.upperNodes (s : State) (l : Launch) (lk k inst : Nat) (gid : W64) : Except Nat State :=
  let dies := (upto nDies).filter (fun d => !(s.instTeams lk k inst d).isEmpty)
  let far := (tgetD s.bars gid.toNat []).length
  if l.dom k < 4 then .ok s
  else match s.btPut l.adie gid 1 dies.length (dies.filter (fun d => s.btFull d gid 0)).length with
    | .error d => .error d
    | .ok s => if l.dom k < 5 then .ok s else s.btPut l.adie gid 2 (1 + far) (far + (if s.btFull l.adie gid 1 then 1 else 0))

/-- The nodes of a barrier's instance after the arrivals of its teams so far, entries allocated at their first arrival; the
die that lacks an entry otherwise (18 R354, R355). Log 119 (DEDUCED, unsafe). -/
def State.barNodes (s : State) (lk k id inst : Nat) : Except Nat State :=
  match tget s.launches lk with
  | none => .ok s
  | some l =>
    let gid := l.gid k id inst
    let put (x : Except Nat State) (d : Nat) : Except Nat State := match x with
      | .error e => .error e
      | .ok s =>
        let ts := s.instTeams lk k inst d
        s.btPut d gid 0 ts.length (ts.filter (fun tk => s.teamAtBar tk k id 2)).length
    match (upto nDies).foldl put (.ok s) with
    | .error e => .error e
    | .ok s => s.upperNodes l lk k inst gid

/-- Whether the highest node of a barrier wider than its teams is complete (18 R354). -/
def State.barTop (s : State) (lk k id inst : Nat) : Bool :=
  match tget s.launches lk with
  | none => true
  | some l =>
    let gid := l.gid k id inst
    if k ≤ l.teamLevel then true
    else if 5 ≤ l.dom k then s.btFull l.adie gid 2
    else if 4 ≤ l.dom k then s.btFull l.adie gid 1
    else (upto nDies).all (fun d => (s.instTeams lk k inst d).isEmpty || s.btFull d gid 0)

/-- The barriers wider than their teams at which some waits stand: launch, level, id and instance. -/
def State.wideBars (s : State) (ws : List Wait) : List (Nat × Nat × Nat × Nat) :=
  (ws.filterMap (fun w => match w.what, tget s.teams (tkOfW w.wk), s.launchOf (tkOfW w.wk) with
    | .bar k id, some t, some l => if l.teamLevel < k then some (t.launch, k, id, s.instOf k w.wk) else none
    | _, _, _ => none)).eraseDups

/-- The nodes of some barriers counted again after a change that is no arrival; a node that lacks its entry then makes the
first fragment that waits there wait for it (18 R356). Log 119 (DEDUCED, unsafe). -/
def State.recount (s : State) (bs : List (Nat × Nat × Nat × Nat)) : State :=
  bs.foldl (fun s b =>
    match s.barNodes b.1 b.2.1 b.2.2.1 b.2.2.2 with
    | .ok s => s
    | .error d => match s.waits.find? (fun w => !w.spill && s.wideBars [w] = [b]), tget s.launches b.1 with
      | some w, some l =>
        { s.barSpill d (l.gid b.2.1 b.2.2.1 b.2.2.2) with waits := s.waits.map (fun x => if x = w then { w with spill := true } else x) }
      | _, _ => s) s

end Sys2Proof.Machine
end

