-- ==== Sys2Proof/Machine/Ops.lean ====
section
/-! DEFINITION. The operations that every instruction shares: filing threads, ending a sheaf, parking with
fault records, delivering traps and entering a handler, and the end of a thread and of a team (01 R8, R9, R23,
08 R143, R162, 18 R347, 20 R361 to R370). -/

namespace Sys2Proof.Machine

/-- Trap codes (20 Table 20-1). -/
def tIllegalOp : Nat := 0x20
def tReservedField : Nat := 0x21
def tInstPoison : Nat := 0x22
def tPriv : Nat := 0x23
def tFreedRead : Nat := 0x24
def tIntDiv : Nat := 0x25
def tSpRange : Nat := 0x26
def tSpStation : Nat := 0x27
def tSpAlign : Nat := 0x28
def tRingUnbound : Nat := 0x29
def tRingInvalid : Nat := 0x2A
def tRegPoison : Nat := 0x2B
def tMapParam : Nat := 0x2C
def tMxParam : Nat := 0x2D
def tGangMismatch : Nat := 0x2E
def tGangBroken : Nat := 0x2F
def tXlaneSplit : Nat := 0x30
def tBarLevel : Nat := 0x31
def tBarSplit : Nat := 0x32
def tWlParam : Nat := 0x33
def tWlFull : Nat := 0x34
def tEngineParam : Nat := 0x35
def tUserTrap : Nat := 0x36
def tBreak : Nat := 0x37
def tNested : Nat := 0x38

/-- The words of an instruction as records hold them: the first word low, the suffix high. -/
def wordsOf (p : Nat) (m : Option ModW) (f : Fields) : W64 :=
  match m with
  | some w => (packWord p f ++ packMod w : BitVec 64)
  | none => (packWord p f).setWidth 64

/-- Whether words are a pair with a modifier word. -/
def isPairWords (w : W64) : Bool := isModifier (lo32 w)

/-- The address after an instruction. -/
def afterPc (pc : Va) (w : W64) : Va := if isPairWords w then pc + 8 else pc + 4

/-- A number from a VA. -/
def vaNat (v : Va) : Nat := v.toNat

/-! ### Bins -/

/-- Whether a team's threads issue: it is in the active set of its executor. -/
def State.teamActive (s : State) (tk : Nat) : Bool :=
  match tget s.teams tk with | some t => t.place = .active | none => false

/-- The ready threads of a bin (18 R347). -/
def State.binMembers (s : State) (core : Nat) (key : Nat × Va) : List Nat :=
  let ov := (s.core core).overflow
  ((s.threads.filter (fun e => tkOf e.1 = key.1 && e.2.stat = .ready && e.2.pc = key.2)).map (·.1)).filter
    (fun t => !ov.contains t)

/-- The lowest bin number that a table does not use. -/
def freeBin (bins : Tbl (Nat × Va)) : Nat → Nat
  | 0 => 0
  | n + 1 => let k := 48 - (n + 1); if (tget bins k).isNone then k else freeBin bins n

/-- The bin number of a key. -/
def binOf (bins : Tbl (Nat × Va)) (key : Nat × Va) : Option Nat := (bins.find? (fun e => e.2 = key)).map (·.1)

/-- A thread's key entered in its core's bins, or the thread in the overflow queue (18 R347). -/
def State.binThread (s : State) (tid : Nat) : State :=
  let tk := tkOf tid
  if !s.teamActive tk then s
  else
    let c := s.coreOf tk
    let key := (tk, (s.thread tid).pc)
    let co := s.core c
    if (binOf co.bins key).isSome then s
    else if co.bins.length < 48 then
      s.modCore c (fun co => { co with bins := tset co.bins (freeBin co.bins 48) key })
    else s.modCore c (fun co => { co with overflow := co.overflow ++ [tid] })

/-- A thread filed under R9: ready at a PC. A saved chain that it belongs to is discarded when it stands
elsewhere at user level (01 R23). -/
def State.file (s : State) (tid : Nat) (pc : Va) : State :=
  let c := s.coreOf (tkOf tid)
  let s := s.modThread tid (fun t => { t with pc := pc, stat := .ready, filedAt := (s.die (dieOfCore c)).cycles.toNat })
  let s := if (s.thread tid).sup then s else
    s.modTeam (tkOf tid) (fun t => { t with saved := t.saved.filter (fun v => !(v.tids.contains tid && v.pc ≠ pc)) })
  s.binThread tid

/-- Empty bins freed, and freed bins taken by the oldest overflow entries (18 R347). -/
def State.cleanBins (s : State) (core : Nat) : State :=
  let s := s.modCore core (fun co => { co with
    bins := co.bins.filter (fun e => !(s.binMembers core e.2).isEmpty),
    overflow := co.overflow.filter (fun t => (s.thread t).stat = .ready) })
  ((s.core core).overflow).foldl (fun s t =>
    let key := (tkOf t, (s.thread t).pc)
    let co := s.core core
    if (binOf co.bins key).isSome || co.bins.length < 48 then
      s.modCore core (fun co => { co with
        bins := if (binOf co.bins key).isSome then co.bins else tset co.bins (freeBin co.bins 48) key,
        overflow := co.overflow.filter (fun u => !(tkOf u = key.1 && (s.thread u).pc = key.2)) })
    else s) s

/-! ### Fault records and parking -/

/-- A mask of lanes. -/
def laneMask (tids : List Nat) : W32 := tids.foldl (fun m t => m ||| BitVec.ofNat 32 (2 ^ laneOf t)) 0

/-- A record that names threads of one wave (20 Table 20-3). -/
def State.recOf (s : State) (tids : List Nat) (kind access : Nat) (asid : Nat) (va : Nat) (pc : Va)
    (words opa opb : W64) (opx : W32) : FaultRec :=
  let tid := tids.headD 0
  let tk := tkOf tid
  let frame := match tget s.teams tk with | some t => t.frame.getD 0 | none => 0
  { kind := kind, access := access, eng := false, asid := asid, va := BitVec.ofNat 64 va,
    pc := pc.setWidth 64, frame := frame, vf := s.vfOf tk, wave := waveIdx (wkOf tid), lanes := laneMask tids,
    opa := opa, opb := opb, words := words, opx := opx }

/-- A record queued on the die of its threads' team (20 R442). -/
def State.queueTeam (s : State) (tids : List Nat) (r : FaultRec) : State :=
  s.queueFault (s.dieOfTeam (tkOf (tids.headD 0))) r

/-- Threads parked, with the replay record they keep (20 R367). A thread in its handler parks as `NESTED`
(R365). Log 17 (DEDUCED, unsafe). -/
def State.parkThreads (s : State) (tids : List Nat) (p : Park) (k : Option Kept) : State :=
  s.modThreads tids (fun _ t =>
    { t with stat := .parked, pc := p.pc, park := some p, owed := none, kept := match k with | some x => some x | none => t.kept })

/-- Insertion in ascending order. -/
def insNat (x : Nat) : List Nat → List Nat
  | [] => [x]
  | y :: r => if x ≤ y then x :: y :: r else y :: insNat x r
/-- A list in ascending order. -/
def sortNat (l : List Nat) : List Nat := l.foldl (fun a x => insNat x a) []

/-- Threads grouped by wave, each group in ascending lane order. Log 17 (DEDUCED, unsafe). -/
def byWave (tids : List Nat) : List (List Nat) :=
  (dedup (tids.map wkOf)).map (fun w => sortNat (tids.filter (fun t => wkOf t = w)))

/-- Threads parked together at one PC, with one record for each wave (20 R367). Log 17 (DEDUCED, unsafe). -/
def State.parkAll (s : State) (tids : List Nat) (kind access asid va : Nat) (pc : Va) (words opa opb : W64)
    (opx : W32) (p : Park) (k : Option Kept) : State :=
  let (g, s) := s.fresh
  let s := s.parkThreads tids { p with grp := g } k
  (byWave tids).foldl (fun s l => s.queueTeam l (s.recOf l kind access asid va pc words opa opb opx)) s

/-- Threads in their handlers that stop with a record of kind `NESTED` (20 R365): a fault's keep what a replay needs (R367). -/
def State.parkNestedAs (s : State) (tids : List Nat) (pc : Va) (words : W64) (p : Park) (k : Option Kept) : State :=
  s.parkAll tids tNested 10 (s.asidOf (tids.headD 0)) 0 pc words 0 0 0 { p with kind := tNested } k

/-- Threads in their handlers that stop at an instruction which makes no access (20 R365). -/
def State.parkNested (s : State) (tids : List Nat) (pc : Va) (words : W64) : State :=
  s.parkNestedAs tids pc words
    { kind := tNested, set := .lane, grp := 0, trap := true, val := 0, rpc := pc, pc := pc, words := words, access := 10 } none

/-- Threads parked by a fault: those at supervisor level park as `NESTED` (20 R365, R367).
Log 17 (DEDUCED, unsafe). -/
def State.parkRecords (s : State) (tids : List Nat) (kind access asid va : Nat) (pc : Va) (words opa opb : W64)
    (opx : W32) (p : Park) (k : Option Kept) : State :=
  let nested := tids.filter (fun t => (s.thread t).sup)
  let user := tids.filter (fun t => !(s.thread t).sup)
  let s := if nested.isEmpty then s else s.parkNestedAs nested pc words p k
  if user.isEmpty then s else s.parkAll user kind access asid va pc words opa opb opx p k

/-! ### Traps -/

/-- The value that a register shows to a record or a debugger. -/
def regValue (t : Thread) (n : Nat) : W32 := match tget t.regs n with | some (.live v) => v | _ => 0

/-- A register written: live, and not poisoned (01 R17, 20 R380). -/
def Thread.setReg (t : Thread) (n : Nat) (v : W32) : Thread :=
  { t with regs := tset t.regs n (.live v), poison := t.poison &&& ~~~ (BitVec.ofNat 64 (2 ^ n)) }

/-- A pair written (01 R16). -/
def Thread.setPair (t : Thread) (n : Nat) (v : W64) : Thread := (t.setReg n (lo32 v)).setReg (n + 1) (hi32 v)

/-- A register freed (01 R17). -/
def Thread.freeReg (t : Thread) (n : Nat) : Thread :=
  { t with regs := tset t.regs n .freed, poison := t.poison &&& ~~~ (BitVec.ofNat 64 (2 ^ n)) }

/-- Sticky flags set (01 Table 1-7). -/
def Thread.flag (t : Thread) (f : W32) : Thread := { t with fcr := t.fcr ||| f }

/-- The trap registers of a team's function on its die (20 Table 20-6). Log 106 (DEDUCED, unsafe). -/
def State.trapRegs (s : State) (tk : Nat) : VfTrap := tgetD (s.die (s.dieOfTeam tk)).vfs (s.vfOf tk) {}

/-- The VA of a thread's trap record (20 R364). Log 44 (DEDUCED, unsafe). Log 106 (DEDUCED, unsafe). -/
def State.trapRecVa (s : State) (tid : Nat) : Nat :=
  let f := match tget s.teams (tkOf tid) with | some t => t.frame.getD 0 | none => 0
  ((s.trapRegs (tkOf tid)).trec.toNat + 64 * (1024 * f + idxOf tid)) % 2 ^ 57

/-- A trap record's bytes (20 Table 20-2). Log 31 (DEDUCED, unsafe). -/
def trapRecBytes (t : Thread) (code : Nat) (pc rpc : Va) (words val : W64) : List W8 :=
  let w (v : W64) := natBytes v.toNat 8
  w (BitVec.ofNat 64 (code + (if isPairWords words then 256 else 0))) ++ w (pc.setWidth 64) ++ w (rpc.setWidth 64) ++
  w words ++ w val ++ w 0 ++ w (pair64 (regValue t 60) (regValue t 61)) ++ w (pair64 (regValue t 62) (regValue t 63))

/-- A write of several bytes by a thread, sequenced at once; its later accesses to those lines wait for it.
Log 31 (DEDUCED, unsafe). -/
def State.threadWrite (s : State) (tid : Nat) (p : Page) (home : Nat) (cells : List Host.Cell) : State :=
  let tk := tkOf tid
  let die := s.dieOfTeam tk
  let a : Acc :=
    { gid := 0, owner := .thread tid, core := s.coreOf tk, die := die, team := tk, kind := .edit, stage := .numbered,
      page := p, target := .pkg home, lines := cellLines cells }
  let (g, s) := s.addAcc a
  (s.seqWrite home (s.vcOf die) cells (some g)).touchPage p true

/-- Taking a trap: the record written, v60 to v63 set, supervisor level, and the PC at the vector (20 R364). A
fault on the record parks the thread with `NESTED`. Log 31 (DEDUCED, unsafe). Log 106 (DEDUCED, unsafe). -/
def State.enterHandler (s : State) (tid code : Nat) (pc rpc : Va) (words val : W64) : State :=
  let r := s.trapRegs (tkOf tid)
  let va := s.trapRecVa tid
  let asid := bits r.tctl.toNat 15 0
  match s.translate asid va true false with
  | (.error _, s) => s.parkNested [tid] pc words
  | (.ok p, s) =>
    let s := s.threadWrite tid p p.die
      (cellsAt (p.pa + (va - p.va)) (trapRecBytes (s.thread tid) code pc rpc words val))
    let s := s.modThread tid (fun t =>
      { (t.setPair 60 (BitVec.ofNat 64 va)).setPair 62 (BitVec.ofNat 64 code) with
        sup := true, trapVa := some (BitVec.ofNat 57 va), park := none, kept := none, replay := false, owed := none })
    s.file tid (r.tvec.extractLsb' 2 55 ++ 0#2)

/-- A trap delivered to threads that stand together (20 R363, R365): each enters its handler, or they park with
one record for each wave. A thread in its handler parks as `NESTED`. -/
def State.deliver (s : State) (tids : List Nat) (code : Nat) (pc rpc : Va) (words val : W64) : State :=
  let nested := tids.filter (fun t => (s.thread t).sup)
  let user := tids.filter (fun t => !(s.thread t).sup)
  let s := if nested.isEmpty then s else s.parkNested nested pc words
  if user.isEmpty then s
  else if bitAt (s.trapRegs (tkOf (user.headD 0))).tvec.toNat 0 then
    user.foldl (fun s t => s.enterHandler t code pc rpc words val) s
  else
    s.parkRecords user code 10 (s.asidOf (user.headD 0)) 0 pc words val 0 0
      { kind := code, set := .lane, grp := 0, trap := true, val := val, rpc := rpc, pc := pc, words := words,
        access := 10 } none

/-- Lanes that one event traps at one PC: each enters its handler with its own trap; those that cannot park with one record
for each wave, which holds the kind and the value of its lowest lane (20 R363). Log 120 (DEDUCED, unsafe). -/
def State.deliverAt (s : State) (xs : List LaneTrap) : State :=
  let sup := xs.filter (fun x => (s.thread x.tid).sup)
  let user := xs.filter (fun x => !(s.thread x.tid).sup)
  let s := match sup with | [] => s | x :: _ => s.parkNested (sup.map (·.tid)) x.pc x.words
  match user with
  | [] => s
  | x :: _ =>
    if bitAt (s.trapRegs (tkOf x.tid)).tvec.toNat 0 then
      user.foldl (fun s y => s.enterHandler y.tid y.code y.pc y.pc y.words y.val) s
    else
      let s := user.foldl (fun s y => s.parkThreads [y.tid]
        { kind := y.code, set := .lane, grp := 0, trap := true, val := y.val, rpc := y.pc, pc := y.pc, words := y.words, access := 10 } none) s
      (byWave (user.map (·.tid))).foldl (fun s l =>
        match user.find? (fun y => y.tid = l.headD 0) with
        | some y => s.queueTeam l (s.recOf l y.code 10 (s.asidOf y.tid) 0 y.pc y.words y.val 0 0)
        | none => s) s

/-- The traps of a run's lanes delivered, those of one PC together. -/
def State.deliverLanes (s : State) (xs : List LaneTrap) : State :=
  (xs.map (·.pc)).eraseDups.foldl (fun s pc => s.deliverAt (xs.filter (fun x => x.pc = pc))) s

/-! ### The issuing sheaf -/

/-- The sheaf that issues. -/
def State.front (s : State) : Option Sheaf := s.sheaves.head?

/-- Its threads that take part: not trapped in this run (08 R143). -/
def Sheaf.active (h : Sheaf) : List Nat := h.tids.filter (fun t => !h.trapped.any (fun x => x.tid = t))

/-- The fragments of a sheaf: its active threads by wave (01 R11). -/
def Sheaf.fragments (h : Sheaf) : List (List Nat) := byWave h.active

/-- The issuing sheaf replaced. -/
def State.setFront (s : State) (h : Sheaf) : State :=
  match s.sheaves with
  | [] => s
  | _ :: r => { s with sheaves := h :: r }

/-- The issuing sheaf gone. -/
def State.dropFront (s : State) : State := { s with sheaves := s.sheaves.drop 1 }

/-- The sheaf ends: its active threads are filed at the PC that `next` names, and its trapped lanes get their
traps (01 R8, R9, 08 R143). Log 55 (DEDUCED, unsafe). -/
def State.endSheaf (s : State) (h : Sheaf) (next : Nat → Va) : State :=
  let s := s.dropFront
  let s := h.active.foldl (fun s t => s.file t (next t)) s
  let s := s.deliverLanes h.trapped
  s.cleanBins h.core

/-- The end of a latch run in a sheaf that goes on: trapped lanes leave it (08 R143). -/
def State.closeRun (s : State) (h : Sheaf) : State :=
  if h.active.isEmpty then s.endSheaf h (fun _ => h.pc)
  else
    let s := s.setFront { h with tids := h.active, trapped := [], inRun := false, refetch := 0 }
    s.deliverLanes h.trapped

/-- The sheaf goes on inside its run; one with no active lane ends. -/
def State.contSheaf (s : State) (h : Sheaf) : State :=
  if h.active.isEmpty then s.endSheaf h (fun _ => h.pc) else s.setFront { h with inRun := true, refetch := 0 }

/-- The sheaf's thread set and chain kept with its team when it ends inside a run (01 R23).
Log 32 (DEDUCED, unsafe). -/
def State.saveSheaf (s : State) (h : Sheaf) : State :=
  if (!h.inRun && h.latch.all Option.isNone) || h.active.isEmpty then s
  else s.modTeam h.team (fun t =>
    if t.saved.any (fun v => v.pc = h.pc && v.tids = h.active) then t
    else { t with saved := t.saved ++ [{ pc := h.pc, tids := h.active, latch := h.latch }] })

/-- Some active threads leave the issuing sheaf, which ends: `out` does with them what it does, and the others
are filed at `next`. -/
def State.splitSheaf (s : State) (h : Sheaf) (leave : List Nat) (next : Nat → Va) (out : State → State) : State :=
  let s := s.dropFront
  let s := out s
  let s := (h.active.filter (fun t => !leave.contains t)).foldl (fun s t => s.file t (next t)) s
  let s := s.deliverLanes h.trapped
  s.cleanBins h.core

/-- A trap on the whole sheaf, or on some fragments of it, at its PC (05 R106, 20 R362). The chain is kept. -/
def State.trapFront (s : State) (h : Sheaf) (tids : List Nat) (code : Nat) (rpc : Va) (words val : W64) : State :=
  let s := s.saveSheaf h
  s.splitSheaf h tids (fun _ => h.pc) (fun s => s.deliver tids code h.pc rpc words val)

/-- How an instruction leaves the issuing sheaf: it goes on in its run, its run ends, or it ends (01 R8, R22). -/
inductive RunEnd where
  | cont
  | run
  | sheaf
  deriving DecidableEq, Repr

/-- The issuing sheaf ends: the groups that have a PC are filed there. -/
def State.regroup (s : State) (h : Sheaf) (outs : List (List Nat × Option Va)) : State :=
  let s := s.dropFront
  let s := outs.foldl (fun s o => match o.2 with
    | some v => o.1.foldl (fun s t => s.file t v) s
    | none => s) s
  (s.deliverLanes h.trapped).cleanBins h.core

/-- The issuing sheaf after each group of its threads has a next PC, or has left it (none). -/
def State.afterGroups (s : State) (h : Sheaf) (e : RunEnd) (outs : List (List Nat × Option Va)) : State :=
  match outs with
  | (_, some v) :: r =>
    if r.all (fun o => o.2 = some v) then
      let h := { h with pc := v }
      match e with
      | .cont => s.contSheaf h
      | .run => s.closeRun h
      | .sheaf => s.endSheaf h (fun _ => v)
    else s.regroup h outs
  | _ => s.regroup h outs

/-- A uniform instruction: once for each fragment, one after another (01 R11). -/
def State.uniOp (s : State) (p : Nat) (m : Option ModW) (f : Fields) (ill : Bool) (e : RunEnd)
    (body : Sheaf → W64 → List Nat → State → State × Option Va) : Host.Outcome State Fault Refusal :=
  match s.front with
  | none => .fault .noSheaf
  | some h =>
    let words := wordsOf p m f
    let run (x : State × List (List Nat × Option Va)) (fr : List Nat) : State × List (List Nat × Option Va) :=
      let s := if ill then x.1.modThreads fr (fun _ t => t.flag fILLMOD) else x.1
      let (s, o) := body h words fr s
      (s, x.2 ++ [(fr, o)])
    let (s, outs) := h.fragments.foldl run (s, [])
    .next (s.afterGroups h e outs)

/-- A trap on a fragment (05 R106): its threads leave the sheaf. Log 32 (DEDUCED, unsafe). -/
def State.fragTrap (s : State) (h : Sheaf) (fr : List Nat) (code : Nat) (rpc : Va) (words val : W64) :
    State × Option Va :=
  ((s.saveSheaf h).deliver fr code h.pc rpc words val, none)

/-- A thread removed from whatever sheaf holds it; the other threads of that sheaf are filed at its PC. A trap of its run is
owed to it (08 R143). -/
def State.pullThread (s : State) (tid : Nat) : State :=
  match s.sheaves.find? (fun h => h.tids.contains tid) with
  | none => s
  | some h =>
    let s := { s with sheaves := s.sheaves.filter (fun x => !x.tids.contains tid) }
    let s := s.saveSheaf h
    let s := (h.active.filter (fun t => t ≠ tid)).foldl (fun s t => s.file t h.pc) s
    (s.modThread tid (fun t => { t with pc := h.pc, owed := h.trapped.find? (fun x => x.tid = tid) })).deliverLanes
      (h.trapped.filter (fun x => x.tid ≠ tid))

/-! ### The ends of threads, waves and teams -/

/-- The end of a team at the barrier tables: its `barw` entries go, and every node that counts it is counted again, with one
team less (18 R354, R355). -/
def State.dropBarriers (s : State) (tk : Nat) : State :=
  match tget s.teams tk, s.launchOf tk with
  | some t, some l =>
    let gone (e : BtEntry) : Bool :=
      let g := e.gid.toNat
      bits g 15 0 = l.num && bitAt g 27 && bits g 63 28 = t.idx
    let ws := s.waits.filter (fun w => match tget s.teams (tkOfW w.wk) with | some x => x.launch = t.launch | none => false)
    let s := s.modDie t.die (fun d => { d with bt := d.bt.filter (fun e => !gone e) })
    s.recount ((s.wideBars ws).filter (fun b => s.instOf b.2.1 (32 * tk) = b.2.2.2))
  | _, _ => s

/-- A team whose last wave has exited ends (08 R162): its banks, tiles, stations and bindings are given up. -/
def State.endTeam (s : State) (tk : Nat) : State :=
  let c := s.coreOf tk
  let s := s.modCore c (fun co => { co with
    bankTeam := if co.bankTeam = some tk then none else co.bankTeam,
    gangs := co.gangs.filter (fun g => g.team ≠ tk) })
  let s := { s with waits := s.waits.filter (fun w => tkOfW w.wk ≠ tk),
                    ringLoads := s.ringLoads.filter (fun r => r.team ≠ tk),
                    stationLoads := s.stationLoads.filter (fun x => x.team ≠ tk) }
  (s.modTeam tk (fun t => { t with place := .ended, stations := [], rings := [], saved := [], rowPoison := [],
                                   accData := [], spData := [], spPoison := [] })).dropBarriers tk

/-- The threads left waiting at a wave that misses a member of their gang (14 R259): each gets `GANG_BROKEN`. -/
def State.breakGangs (s : State) (tk w : Nat) : State :=
  let c := s.coreOf tk
  let member (g : GangEntry) : Bool :=
    g.team = tk && !g.arrived.contains w &&
    (upto (bits g.gang.toNat 2 0)).any (fun i => bits g.gang.toNat (8 + 5 * i) (4 + 5 * i) = w)
  let broken := (s.core c).gangs.filter member
  let s := s.modCore c (fun co => { co with gangs := co.gangs.filter (fun g => !member g) })
  broken.foldl (fun s g =>
    let tids := g.arrived.flatMap (fun v => s.liveOf (32 * tk + v))
    let s := { s with waits := s.waits.filter (fun x => !(x.what = WaitFor.latch && tkOfW x.wk = tk && g.arrived.contains (waveIdx x.wk))) }
    s.deliver tids tGangBroken g.pc g.pc g.words 0) s

/-- The end of a thread (08 R162): its registers are freed, what they held being kept beside them (16 R304, 19 R360, 24 R407), and its
wave and team end with their last thread. Log 105 (DEDUCED, unsafe). -/
def State.exitThread (s : State) (tid : Nat) : State :=
  let wk := wkOf tid
  let tk := tkOf tid
  let s := s.modThread tid (fun t =>
    { t with stat := .exited, regs := (upto 64).map (fun n => (n, VReg.freed)), last := t.regs, poison := 0, kept := none,
             park := none, sup := false, trapVa := none, replay := false, owed := none })
  let s := s.modTeam tk (fun t => { t with saved := t.saved.filter (fun v => !v.tids.contains tid) })
  let rest (w : Wait) : Wait := { w with tids := w.tids.filter (· ≠ tid) }
  let s := { s with waits := (s.waits.map rest).filter (fun w => !w.tids.isEmpty) }
  if !(s.liveOf wk).isEmpty then s
  else
    let s := s.modWave wk (fun w => { w with s := [], last := w.s, ended := true, q := 0, mprog := 0, yieldBit := false, haltBit := false, frag := none, far := [] })
    let s := s.breakGangs tk (waveIdx wk)
    if !(s.teamLive tk).isEmpty then s else s.endTeam tk

/-! ### Waiting -/

/-- Some threads of a wave wait (18 R345). -/
def State.addWait (s : State) (w : Wait) : State :=
  let s := s.modThreads w.tids (fun _ t => { t with stat := .waiting, pc := w.pc })
  { s with waits := s.waits ++ [w] }

/-- A wait ends: its threads are filed at the address after the instruction. -/
def State.endWait (s : State) (w : Wait) : State :=
  let s := { s with waits := s.waits.erase w }
  (w.tids.filter (fun t => (s.thread t).stat = .waiting)).foldl (fun s t => s.file t w.next) s

/-- Some streams acquire at a time (07 R132, R138). Log 66 (DEDUCED, unsafe). -/
def State.raiseFloor (s : State) (os : List Owner) (t : Nat) : State :=
  os.foldl (fun s o => s.modStream o (fun q => { q with floor := max q.floor t })) s

/-- Some streams take the die clock as F when they leave a barrier (07 R139). -/
def State.raiseFence (s : State) (os : List Owner) (t : Nat) : State :=
  os.foldl (fun s o => s.modStream o (fun q => { q with fenceF := max q.fenceF t })) s

/-- Idempotence ends (20 R376). -/
def State.voidIdem (s : State) (tk : Nat) : State := s.modTeam tk (fun t => { t with idem := false })

end Sys2Proof.Machine
end

