-- ==== Sys2Proof/Machine/Flags.lean ====
section
/-! DEFINITION. The flags of `c.fcr` (01 Table 1-7, R26, 05 R107): which threads they go to, and what a `csrw`
leaves of them. -/

namespace Sys2Proof.Machine

/-- LUT: a read of a freed register traps. -/
def Thread.lut (t : Thread) : Bool := t.fcr.getLsbD 4
/-- IDZ. -/
def Thread.idz (t : Thread) : Bool := t.fcr.getLsbD 5
/-- MXNAN. -/
def Thread.mxnan (t : Thread) : Bool := t.fcr.getLsbD 6
/-- RM (01 R26): 0 to 5. -/
def Thread.rm (t : Thread) : Nat := bits t.fcr.toNat 2 0

/-- The rounding mode of an instruction: its modifier, or `c.fcr.RM` (02 Table 2-2, 05 Table 5-3). -/
def modeOf (m : Option ModW) (t : Thread) : Nat :=
  match m with
  | some w => if w.rnd = 0 then t.rm else w.rnd.toNat - 1
  | none => t.rm

/-- Flags in some threads' `c.fcr`. -/
def State.flagThreads (s : State) (tids : List Nat) (f : W32) : State :=
  if f = 0 then s else s.modThreads tids (fun _ t => t.flag f)

/-- Flags in one thread's `c.fcr`, lost when it has exited. -/
def State.flagThread (s : State) (tid : Nat) (f : W32) : State := if f = 0 then s else s.modThread tid (fun t => t.flag f)

/-- Flags that an access raises: its lane's, or those that another package's request is answered with (04 R82, 07 R130). -/
def State.flagAcc (s : State) (a : Acc) (f : W32) : State :=
  match a.owner with
  | .remote _ _ _ => if f = 0 then s else s.modAcc a.gid (fun b => { b with flags := b.flags ||| f })
  | _ => s.flagThread a.flagTid f

/-- What a `csrw` leaves in `c.fcr`: flags are cleared by 1, RM 6 and 7 store 0 and set `W.ILLMOD`, reserved bits
keep 0 (01 R24 to R26). -/
def fcrWrite (old v : W32) : W32 :=
  let rm := bits v.toNat 2 0
  let rw : W32 := (if 6 ≤ rm then 0 else BitVec.ofNat 32 rm) ||| (v &&& 0x70)
  let fl : W32 := old &&& 0x7FF00 &&& ~~~ v
  rw ||| fl ||| (if 6 ≤ rm then fILLMOD else 0)

end Sys2Proof.Machine
end

