-- ==== Sys2Proof/Machine/Operands.lean ====
section
/-! DEFINITION. Operands of the lane set: reading with last use, latches, broadcast and inline constants (01 R17
to R21, 05 R95 to R100), writing, and the run of one instruction over the active lanes of the issuing sheaf (08
R143). -/

namespace Sys2Proof.Machine

/-- The integer column of 05 Table 5-6 as a number in two's complement of `w` bits; `lo` and `hi` are the limits
of the instruction's integer type. -/
def constInt (w code : Nat) (lo hi : Int) : Nat :=
  let v : Int := match code with
    | 104 => 0 | 105 => 1 | 106 => 2 | 107 => 3 | 108 => 4 | 109 => 5 | 110 => 6 | 111 => 7
    | 112 => 8 | 113 => 15 | 114 => 16 | 115 => 31 | 116 => 32 | 117 => 63 | 118 => 64 | 119 => 127
    | 120 => 128 | 121 => 255 | 122 => -1 | 123 => -2 | 124 => -8 | 125 => hi | 126 => lo | _ => 65535
  (v.emod (2 ^ w : Nat)).toNat

/-- The float column of 05 Table 5-6, encoded in a float format; a value that the format lacks is rounded to it, one above
its largest to that (log entry 11). Log 11 (DEDUCED, unsafe). -/
def constFloat (c code : Nat) : Nat :=
  let v (neg : Bool) (m : Nat) (e : Int) : Nat := (toFloat c 0 0 (.fin neg m e)).1
  match code with
  | 104 => 0 | 105 => v false 1 0 | 106 => v false 2 0 | 107 => v false 3 0 | 108 => v false 4 0
  | 109 => v false 1 (-1) | 110 => v false 1 (-2) | 111 => v false 1 (-3) | 112 => v false 8 0
  | 113 => v false 16 0 | 114 => v false 1 (-4) | 115 => v false 10 0 | 116 => v false 3 (-1)
  | 117 => v false 3 (-2) | 118 => zeroBits c true | 119 => v true 1 0 | 120 => v true 2 0
  | 121 => v true 1 (-1) | 122 => (toFloat c 0 0 (.inf false)).1 | 123 => (toFloat c 0 0 (.inf true)).1
  | 124 => defaultNan c
  | 125 => maxFinite c | 126 => 2 ^ (finfo c).mb | _ => 1

/-- The least and greatest values of an integer type. -/
def intLimits (c : Nat) : Int × Int :=
  let w := fmtWidth c
  if isSigned c then (-(2 ^ (w - 1) : Nat), (2 ^ (w - 1) : Nat) - 1) else (0, (2 ^ w : Nat) - 1)

/-- An inline constant in a position of format `c` (05 R98): a float format reads the float column, an integer
type the integer column at width `w`. -/
def constant (c w code : Nat) : Nat :=
  if isFloat c then constFloat c code
  else let (lo, hi) := intLimits c; constInt w code lo hi

/-- One lane in the run of an instruction: the thread as it stood, the thread so far, its latches, its wave's
uniform registers, the trap it takes and the value that enters the latch chain. -/
structure Lane where
  tid : Nat
  base : Thread
  t : Thread
  latch : List (Option W64)
  s : Tbl W64
  trap : Option (Nat × W64) := none
  out : W64 := 0
  deriving DecidableEq, Repr

/-- A flag in the lane's `c.fcr`. -/
def Lane.flag (l : Lane) (f : W32) : Lane := { l with t := l.t.flag f }

/-- The lane's trap, the first one raised (20 R362). -/
def Lane.raise (l : Lane) (code : Nat) (val : W64) : Lane :=
  match l.trap with | some _ => l | none => { l with trap := some (code, val) }

/-- A register read (01 R17, R18, 20 R380). Log 24 (DEDUCED, unsafe). Log 26 (DEDUCED, unsafe). -/
def Lane.rdReg (l : Lane) (n : Nat) (lu : Bool) : W32 × Lane :=
  if l.t.poison.getLsbD n then (0, l.raise tRegPoison (BitVec.ofNat 64 n))
  else
    let done (l : Lane) : Lane := if lu then { l with t := l.t.freeReg n } else l
    match tget l.t.regs n with
    | none => (0, done l)
    | some .unwritten => (0, done l)
    | some (.live v) => (v, done l)
    | some .freed => (0, if l.t.lut then l.raise tFreedRead 0 else done (l.flag fFREED))

/-- A source operand in a position of `w` bits (05 R96 to R98); `c` is the format that names its constants.
Log 26 (DEDUCED, unsafe). -/
def Lane.rd (l : Lane) (a : BitVec 7) (lu : Bool) (c w : Nat) : W64 × Lane :=
  let n := a.toNat
  if n < 64 then
    if w = 64 then
      let (x, l) := l.rdReg n lu
      let (y, l) := l.rdReg (n + 1) lu
      (pair64 x y, l)
    else
      let (x, l) := l.rdReg n lu
      (x.setWidth 64, l)
  else if n < 72 then
    match l.latch.getD (n - 64) none with
    | some v => (if w = 64 then v else (lo32 v).setWidth 64, l)
    | none => (0, l.flag fLATCH)
  else if n < 104 then
    let v := tgetD l.s (n - 72) 0
    (if w = 64 then v else (lo32 v).setWidth 64, l)
  else (BitVec.ofNat 64 (constant c (if w = 64 then 64 else 32) n), l)

/-- The addend, or a data register, of `w` bits (05 R95). Log 26 (DEDUCED, unsafe). -/
def Lane.rdVd (l : Lane) (vd : BitVec 6) (lu : Bool) (w : Nat) : W64 × Lane :=
  l.rd (vd.setWidth 7) lu 12 w

/-- A predicate (01 Table 1-1). -/
def predOf (p : W8) (n : Nat) : Bool := n = 7 || p.getLsbD n

/-- A predicate operand: 8 to 15 name the complements (05 R99). -/
def predOperand (p : W8) (a : Nat) : Bool := if a < 8 then predOf p a else !predOf p (a - 8)

/-- A predicate written; p7 ignores it. -/
def setPred (p : W8) (n : Nat) (v : Bool) : W8 :=
  if n = 7 then p
  else if v then p ||| BitVec.ofNat 8 (2 ^ n) else p &&& ~~~ (BitVec.ofNat 8 (2 ^ n))

/-- A destination of `w` bits written, or with NW the latch chain only (01 R20). -/
def Lane.wr (l : Lane) (vd : BitVec 6) (nw : Bool) (w : Nat) (v : W64) : Lane :=
  let v := if w = 64 then v else (lo32 v).setWidth 64
  { l with out := v,
           t := if nw then l.t
                else if w = 64 then l.t.setPair vd.toNat v else l.t.setReg vd.toNat (lo32 v) }

/-- A number written. -/
def Lane.wrNat (l : Lane) (vd : BitVec 6) (nw : Bool) (w v : Nat) : Lane := l.wr vd nw w (BitVec.ofNat 64 v)

/-- The thread at the end: one that trapped keeps what it had, and the flag that its trap names (08 R143, R147).
Log 127 (DEDUCED, unsafe). -/
def Lane.final (l : Lane) : Thread :=
  match l.trap with
  | none => l.t
  | some (c, v) => if c = tIntDiv then l.base.flag (if v = 14 then fIDIV else fIOV) else l.base

/-- The value of a latch row for a lane. -/
def latchVal (row : Option (Tbl LatchVal)) (tid : Nat) : Option W64 :=
  match row with
  | none => none
  | some r => match tget r tid with
    | some (.val v) => some v
    | _ => some 0

/-- A lane at the start of an instruction. -/
def State.lane (s : State) (h : Sheaf) (tid : Nat) (ill : Bool) : Lane :=
  let t := s.thread tid
  let t := if ill then t.flag fILLMOD else t
  { tid := tid, base := t, t := t, latch := h.latch.map (fun r => latchVal r tid), s := (s.wave (wkOf tid)).s }

/-- The chain with a new row in b0 (01 R20). -/
def shiftLatch (latch : List (Option (Tbl LatchVal))) (row : Tbl LatchVal) : List (Option (Tbl LatchVal)) :=
  some row :: latch.take 7

/-- The lanes of an instruction after its body. -/
def State.lanes (s : State) (h : Sheaf) (ill : Bool) (body : Lane → Lane) : List Lane :=
  h.active.map (fun t => body (s.lane h t ill))

/-- The threads of some lanes stored back. -/
def State.putLanes (s : State) (ls : List Lane) : State :=
  ls.foldl (fun s l => s.modThread l.tid (fun _ => l.final)) s

/-- The lanes that trapped, as the sheaf keeps them until the run ends (08 R143). Log 24 (DEDUCED, unsafe). -/
def trapsOf (ls : List Lane) (pc : Va) (words : W64) : List LaneTrap :=
  ls.filterMap (fun l => l.trap.map (fun c => ⟨l.tid, c.1, c.2, pc, words, afterPc pc words⟩))

/-- A lane's body run over every active lane: threads, traps and, for an instruction with a result, the latch
chain. The sheaf does not move. -/
def State.runLanes (s : State) (h : Sheaf) (words : W64) (ill shift : Bool) (body : Lane → Lane) : Sheaf × State :=
  let ls := s.lanes h ill body
  let s := s.putLanes ls
  let row : Tbl LatchVal := ls.map (fun l => (l.tid, .val (if l.trap.isSome then 0 else l.out)))
  ({ h with trapped := h.trapped ++ trapsOf ls h.pc words, latch := if shift then shiftLatch h.latch row else h.latch },
   s)

/-- A lane instruction that ends no run: its body over the active lanes, and the next PC. -/
def State.laneOp (s : State) (p : Nat) (m : Option ModW) (f : Fields) (ill shift : Bool) (body : Lane → Lane) :
    Host.Outcome State Fault Refusal :=
  match s.front with
  | none => .fault .noSheaf
  | some h =>
    let words := wordsOf p m f
    let (h, s) := s.runLanes h words ill shift body
    .next (s.contSheaf { h with pc := afterPc h.pc words })

/-- Whether a TY code is present and not among those that an instruction allows (05 Table 5-12). -/
def illTy (m : Option ModW) (ok : Nat → Bool) : Bool := let c := tyCode m; c ≠ 31 && !ok c

end Sys2Proof.Machine
end

