-- ==== Sys2Proof/Machine/IntLane.lean ====
section
/-! DEFINITION. Lane integer, logic and bit-field instructions (08 R142 to R152). -/

namespace Sys2Proof.Machine

/-- `int(T, x)` (08 R142). -/
def intOf (ty : Nat) (v : W64) : Int := intVal (isSigned ty) (fmtWidth ty) v.toNat

/-- `wrap(x, W)`. -/
def wrapInt (w : Nat) (x : Int) : Nat := (x.emod (2 ^ w : Nat)).toNat

/-- The lane integer types (08 R142). -/
def isLaneInt (c : Nat) : Bool := c = 12 || c = 13 || c = 16 || c = 17

/-- A lane instruction of two operands of one integer type (08 R144). -/
def intTwo (p : Nat) (m : Option ModW) (f : Alu) (res : Nat → Int → Int → Int) (s : State) :
    Host.Outcome State Fault Refusal :=
  let ty := intTy (tyCode m)
  let w := fmtWidth ty
  s.laneOp p m (.alu f) (illTy m isLaneInt) true (fun l =>
    let (x, l) := l.rd f.a f.alu ty w
    let (y, l) := l.rd f.b f.blu ty w
    l.wrNat f.vd f.nw w (wrapInt w (res ty (intOf ty x) (intOf ty y))))

/-- A lane instruction of one operand. -/
def intOne (p : Nat) (m : Option ModW) (f : Alu) (res : Nat → Int → Int) (s : State) :
    Host.Outcome State Fault Refusal :=
  let ty := intTy (tyCode m)
  let w := fmtWidth ty
  s.laneOp p m (.alu f) (illTy m isLaneInt) true (fun l =>
    let (x, l) := l.rd f.a f.alu ty w
    l.wrNat f.vd f.nw w (wrapInt w (res ty (intOf ty x))))

/-- A shift: B is a 32-bit position in every type (08 R151). -/
def intShift (p : Nat) (m : Option ModW) (f : Alu) (res : Nat → Nat → Nat → Nat) (s : State) :
    Host.Outcome State Fault Refusal :=
  let ty := intTy (tyCode m)
  let w := fmtWidth ty
  s.laneOp p m (.alu f) (illTy m isLaneInt) true (fun l =>
    let (x, l) := l.rd f.a f.alu ty w
    let (y, l) := l.rd f.b f.blu 12 32
    l.wrNat f.vd f.nw w (res w (x.toNat % 2 ^ w) (y.toNat % w) % 2 ^ w))

/-- An integer condition (05 Table 5-7). -/
def condInt (cond : Nat) (x y : Int) : Bool :=
  match cond with
  | 0 => x = y
  | 1 => x ≠ y
  | 2 => x < y
  | 3 => x ≤ y
  | 4 => y < x
  | _ => y ≤ x

/-- Bitwise operation on naturals of `w` bits, as an integer result. -/
def bitOp (f : Nat → Nat → Nat) (ty : Nat) (x y : Int) : Int :=
  let w := fmtWidth ty
  (f (wrapInt w x) (wrapInt w y) : Nat)

/-- Arithmetic right shift of a `w`-bit pattern. -/
def sarBits (w x n : Nat) : Nat := wrapInt w ((intVal true w x).ediv (2 ^ n : Nat))

/-- Left rotation of a `w`-bit pattern. -/
def rotBits (w x n : Nat) : Nat := x * 2 ^ n % 2 ^ w + x / 2 ^ (w - n)

/-- Leading zeros of a `w`-bit pattern. -/
def clzBits (w x : Nat) : Nat := if x = 0 then w else w - 1 - x.log2

/-- One bits of a pattern. -/
def popBits (w x : Nat) : Nat := ((upto w).filter (fun i => bitAt x i)).length

/-- A `w`-bit pattern reversed. -/
def revBits (w x : Nat) : Nat := (upto w).foldl (fun a i => a + (if bitAt x i then 2 ^ (w - 1 - i) else 0)) 0

/-- Division with the corner cases of 08 Table 8-2: the quotient, the remainder, and the flag bit. -/
def divRem (ty : Nat) (x y : Int) : Int × Int × Option Nat :=
  if y = 0 then (-1, x, some 14)
  else if isSigned ty && x = (intLimits ty).1 && y = -1 then (x, 0, some 15)
  else (x.tdiv y, x.tmod y, none)

/-- `div` and `rem` (08 R146, R147). -/
def intDiv (p : Nat) (m : Option ModW) (f : Alu) (rem : Bool) (s : State) : Host.Outcome State Fault Refusal :=
  let ty := intTy (tyCode m)
  let w := fmtWidth ty
  s.laneOp p m (.alu f) (illTy m isLaneInt) true (fun l =>
    let (x, l) := l.rd f.a f.alu ty w
    let (y, l) := l.rd f.b f.blu ty w
    let (q, r, fl) := divRem ty (intOf ty x) (intOf ty y)
    let out (l : Lane) : Lane := l.wrNat f.vd f.nw w (wrapInt w (if rem then r else q))
    match fl with
    | none => out l
    | some b =>
      if l.t.idz then l.raise tIntDiv (BitVec.ofNat 64 b)
      else out (l.flag (if b = 14 then fIDIV else fIOV)))

/-- ADD (R144). -/
def execAdd (m : Option ModW) (f : Alu) (s : State) := intTwo 0x000 m f (fun _ x y => x + y) s
/-- SUB (R144). -/
def execSub (m : Option ModW) (f : Alu) (s : State) := intTwo 0x001 m f (fun _ x y => x - y) s
/-- MUL (R144). -/
def execMul (m : Option ModW) (f : Alu) (s : State) := intTwo 0x002 m f (fun _ x y => x * y) s
/-- MULH (R144). -/
def execMulh (m : Option ModW) (f : Alu) (s : State) :=
  intTwo 0x003 m f (fun ty x y => (x * y).ediv (2 ^ fmtWidth ty : Nat)) s
/-- MIN (R144). -/
def execMin (m : Option ModW) (f : Alu) (s : State) := intTwo 0x008 m f (fun _ x y => min x y) s
/-- MAX (R144). -/
def execMax (m : Option ModW) (f : Alu) (s : State) := intTwo 0x009 m f (fun _ x y => max x y) s
/-- ABS (R144, R145). -/
def execAbs (m : Option ModW) (f : Alu) (s : State) := intOne 0x007 m f (fun _ x => x.natAbs) s
/-- MOV (R144, R145). -/
def execMov (m : Option ModW) (f : Alu) (s : State) := intOne 0x00C m f (fun _ x => x) s

/-- MAD (R144): vd is the addend (05 R95). -/
def execMad (m : Option ModW) (f : Alu) (s : State) : Host.Outcome State Fault Refusal :=
  let ty := intTy (tyCode m)
  let w := fmtWidth ty
  s.laneOp 0x004 m (.alu f) (illTy m isLaneInt) true (fun l =>
    let (x, l) := l.rd f.a f.alu ty w
    let (y, l) := l.rd f.b f.blu ty w
    let (z, l) := l.rdVd f.vd false w
    l.wrNat f.vd f.nw w (wrapInt w (intOf ty x * intOf ty y + intOf ty z)))

/-- DIV (R146). -/
def execDiv (m : Option ModW) (f : Alu) (s : State) := intDiv 0x005 m f false s
/-- REM (R146). -/
def execRem (m : Option ModW) (f : Alu) (s : State) := intDiv 0x006 m f true s

/-- CMP (R148): vd names a predicate and a condition (05 R99); the chain does not shift. -/
def execCmp (m : Option ModW) (f : Alu) (s : State) : Host.Outcome State Fault Refusal :=
  let ty := intTy (tyCode m)
  let w := fmtWidth ty
  s.laneOp 0x00A m (.alu f) (illTy m isLaneInt) false (fun l =>
    let (x, l) := l.rd f.a f.alu ty w
    let (y, l) := l.rd f.b f.blu ty w
    let v := condInt (condOf f.vd) (intOf ty x) (intOf ty y)
    { l with t := { l.t with p := setPred l.t.p (f.vd.toNat % 8) v } })

/-- SEL (R149): vd is read in every active lane and always written. -/
def execSel (m : Option ModW) (f : Alu) (s : State) : Host.Outcome State Fault Refusal :=
  let ty := intTy (tyCode m)
  let w := fmtWidth ty
  s.laneOp 0x00B m (.alu f) (illTy m isLaneInt) true (fun l =>
    let (x, l) := l.rd f.a f.alu ty w
    let (z, l) := l.rdVd f.vd false w
    l.wr f.vd f.nw w (if predOperand l.t.p f.b.toNat then x else z))

/-- CVT_I (R150). -/
def execCvtI (m : Option ModW) (f : Alu) (s : State) : Host.Outcome State Fault Refusal :=
  let dst := int8Ty 12 (orDef 12 (tyCode m))
  let src := int8Ty 12 (orDef 12 (stCode m))
  let wd := if fmtWidth dst = 64 then 64 else 32
  let ill := illTy m isInt || (stCode m ≠ 31 && !isInt (stCode m))
  s.laneOp 0x00D m (.alu f) ill true (fun l =>
    let (x, l) := l.rd f.a f.alu src (if fmtWidth src = 64 then 64 else 32)
    let y := wrapInt (fmtWidth dst) (intOf src x)
    l.wrNat f.vd f.nw wd (wrapInt wd (intVal (isSigned dst) (fmtWidth dst) y)))

/-- AND (R151). -/
def execAnd (m : Option ModW) (f : Alu) (s : State) := intTwo 0x020 m f (bitOp Nat.land) s
/-- OR (R151). -/
def execOr (m : Option ModW) (f : Alu) (s : State) := intTwo 0x021 m f (bitOp Nat.lor) s
/-- XOR (R151). -/
def execXor (m : Option ModW) (f : Alu) (s : State) := intTwo 0x022 m f (bitOp Nat.xor) s
/-- ANDN (R151). -/
def execAndn (m : Option ModW) (f : Alu) (s : State) :=
  intTwo 0x023 m f (fun ty x y => bitOp (fun a b => Nat.land a (2 ^ fmtWidth ty - 1 - b)) ty x y) s
/-- SHL (R151). -/
def execShl (m : Option ModW) (f : Alu) (s : State) := intShift 0x024 m f (fun _ x n => x * 2 ^ n) s
/-- SHR (R151). -/
def execShr (m : Option ModW) (f : Alu) (s : State) := intShift 0x025 m f (fun _ x n => x / 2 ^ n) s
/-- SHA (R151). -/
def execSha (m : Option ModW) (f : Alu) (s : State) := intShift 0x026 m f sarBits s
/-- ROT (R151). -/
def execRot (m : Option ModW) (f : Alu) (s : State) := intShift 0x027 m f rotBits s
/-- CLZ (R151). -/
def execClz (m : Option ModW) (f : Alu) (s : State) :=
  intOne 0x028 m f (fun ty x => clzBits (fmtWidth ty) (wrapInt (fmtWidth ty) x)) s
/-- POPC (R151). -/
def execPopc (m : Option ModW) (f : Alu) (s : State) :=
  intOne 0x029 m f (fun ty x => popBits (fmtWidth ty) (wrapInt (fmtWidth ty) x)) s
/-- BREV (R151). -/
def execBrev (m : Option ModW) (f : Alu) (s : State) :=
  intOne 0x02A m f (fun ty x => revBits (fmtWidth ty) (wrapInt (fmtWidth ty) x)) s

/-- The field of `bfx` and `bfi`: position and length, length 0 where there is none (08 R152). -/
def bitField (w b : Nat) : Nat × Nat :=
  let o := bits b 7 0
  if w ≤ o then (0, 0) else (o, min (bits b 15 8) (w - o))

/-- BFX (R152). -/
def execBfx (m : Option ModW) (f : Alu) (s : State) : Host.Outcome State Fault Refusal :=
  let ty := intTy (tyCode m)
  let w := fmtWidth ty
  s.laneOp 0x02B m (.alu f) (illTy m isLaneInt) true (fun l =>
    let (x, l) := l.rd f.a f.alu ty w
    let (y, l) := l.rd f.b f.blu 12 32
    let (o, n) := bitField w y.toNat
    let v := x.toNat % 2 ^ w / 2 ^ o % 2 ^ n
    l.wrNat f.vd f.nw w (if n = 0 then 0 else wrapInt w (intVal (isSigned ty) n v)))

/-- BFI (R152). -/
def execBfi (m : Option ModW) (f : Alu) (s : State) : Host.Outcome State Fault Refusal :=
  let ty := intTy (tyCode m)
  let w := fmtWidth ty
  s.laneOp 0x02C m (.alu f) (illTy m isLaneInt) true (fun l =>
    let (x, l) := l.rd f.a f.alu ty w
    let (y, l) := l.rd f.b f.blu 12 32
    let (z, l) := l.rdVd f.vd false w
    let (o, n) := bitField w y.toNat
    let old := z.toNat % 2 ^ w
    let v := old % 2 ^ o + x.toNat % 2 ^ n * 2 ^ o + old / 2 ^ (o + n) * 2 ^ (o + n)
    l.wrNat f.vd f.nw w (if n = 0 then old else v))

end Sys2Proof.Machine
end

