-- ==== Sys2Proof/Machine/Uniform.lean ====
section
/-! DEFINITION. Uniform scalar instructions and immediates (08 R153, R154, R157, 06 R114). -/

namespace Sys2Proof.Machine

/-- A uniform register of the fragment's wave. -/
def State.sreg (s : State) (fr : List Nat) (n : Nat) : W64 := tgetD (s.wave (wkOf (fr.headD 0))).s n 0

/-- A uniform register written. -/
def State.setSreg (s : State) (fr : List Nat) (n : Nat) (v : W64) : State :=
  s.modWave (wkOf (fr.headD 0)) (fun w => { w with s := tset w.s n v })

/-- The uniform predicates of the fragment's wave. -/
def State.qmask (s : State) (fr : List Nat) : W8 := (s.wave (wkOf (fr.headD 0))).q

/-- A uniform instruction that only writes one uniform register and moves on. -/
def uniSet (p : Nat) (m : Option ModW) (f : Fields) (ill : Bool) (sd : BitVec 6)
    (v : State → List Nat → W64) (s : State) : Host.Outcome State Fault Refusal :=
  s.uniOp p m f ill .cont (fun h words fr s => (s.setSreg fr sd.toNat (v s fr), some (afterPc h.pc words)))

/-- The `W`-bit result extended to 64 bits by the signedness of the type (08 R153). -/
def extTo64 (ty : Nat) (x : Int) : W64 :=
  BitVec.ofNat 64 (wrapInt 64 (intVal (isSigned ty) (fmtWidth ty) (wrapInt (fmtWidth ty) x)))

/-- Scalar arithmetic and logic (08 R153). -/
def uniTwo (p : Nat) (m : Option ModW) (f : SReg) (res : Nat → Int → Int → Int) (s : State) :
    Host.Outcome State Fault Refusal :=
  let ty := uniTy (tyCode m)
  uniSet p m (.sReg f) (illTy m isLaneInt) f.sd
    (fun s fr => extTo64 ty (res ty (intOf ty (s.sreg fr f.sa.toNat)) (intOf ty (s.sreg fr f.sb.toNat)))) s

/-- Scalar shifts: the amount is sb modulo `W` (08 R153). -/
def uniShift (p : Nat) (m : Option ModW) (f : SReg) (res : Nat → Nat → Nat → Nat) (s : State) :
    Host.Outcome State Fault Refusal :=
  let ty := uniTy (tyCode m)
  let w := fmtWidth ty
  uniSet p m (.sReg f) (illTy m isLaneInt) f.sd
    (fun s fr => extTo64 ty (res w ((s.sreg fr f.sa.toNat).toNat % 2 ^ w) ((s.sreg fr f.sb.toNat).toNat % w) : Nat)) s

/-- SADD (R153). -/
def execSadd (m : Option ModW) (f : SReg) (s : State) := uniTwo 0x100 m f (fun _ x y => x + y) s
/-- SSUB (R153). -/
def execSsub (m : Option ModW) (f : SReg) (s : State) := uniTwo 0x101 m f (fun _ x y => x - y) s
/-- SMUL (R153). -/
def execSmul (m : Option ModW) (f : SReg) (s : State) := uniTwo 0x102 m f (fun _ x y => x * y) s
/-- SAND (R153). -/
def execSand (m : Option ModW) (f : SReg) (s : State) := uniTwo 0x103 m f (bitOp Nat.land) s
/-- SOR (R153). -/
def execSor (m : Option ModW) (f : SReg) (s : State) := uniTwo 0x104 m f (bitOp Nat.lor) s
/-- SXOR (R153). -/
def execSxor (m : Option ModW) (f : SReg) (s : State) := uniTwo 0x105 m f (bitOp Nat.xor) s
/-- SSHL (R153). -/
def execSshl (m : Option ModW) (f : SReg) (s : State) := uniShift 0x106 m f (fun _ x n => x * 2 ^ n) s
/-- SSHR (R153). -/
def execSshr (m : Option ModW) (f : SReg) (s : State) := uniShift 0x107 m f (fun _ x n => x / 2 ^ n) s
/-- SSHA (R153). -/
def execSsha (m : Option ModW) (f : SReg) (s : State) := uniShift 0x108 m f sarBits s
/-- SMIN (R153). -/
def execSmin (m : Option ModW) (f : SReg) (s : State) := uniTwo 0x109 m f (fun _ x y => min x y) s
/-- SMAX (R153). -/
def execSmax (m : Option ModW) (f : SReg) (s : State) := uniTwo 0x10A m f (fun _ x y => max x y) s
/-- SMOV (R153). -/
def execSmov (m : Option ModW) (f : SReg) (s : State) := uniTwo 0x10B m f (fun _ x _ => x) s

/-- SCMP (R154). -/
def execScmp (m : Option ModW) (f : SReg) (s : State) : Host.Outcome State Fault Refusal :=
  let ty := uniTy (tyCode m)
  s.uniOp 0x10C m (.sReg f) (illTy m isLaneInt) .cont (fun h words fr s =>
    let v := condInt (condOf f.sd) (intOf ty (s.sreg fr f.sa.toNat)) (intOf ty (s.sreg fr f.sb.toNat))
    (s.modWave (wkOf (fr.headD 0)) (fun w => { w with q := setPred w.q (f.sd.toNat % 8) v }),
     some (afterPc h.pc words)))

/-- SSEL (R154): sd keeps its value where the operand reads 0. -/
def execSsel (m : Option ModW) (f : SReg) (s : State) : Host.Outcome State Fault Refusal :=
  uniSet 0x10D m (.sReg f) (illTy m isLaneInt) f.sd
    (fun s fr => if predOperand (s.qmask fr) f.sb.toNat then s.sreg fr f.sa.toNat else s.sreg fr f.sd.toNat) s

/-- SLI (06 R114). -/
def execSli (m : Option ModW) (f : SImm) (s : State) : Host.Outcome State Fault Refusal :=
  uniSet 0x120 m (.sImm f) false f.sd (fun _ _ => f.imm.signExtend 64) s

/-- 16 bits of a uniform register replaced, the others kept. -/
def putHalf (v : W64) (k : Nat) (imm : BitVec 16) : W64 :=
  (v &&& ~~~ ((0xFFFF : W64) <<< k)) ||| (imm.setWidth 64 <<< k)

/-- SLI_H1 (06 R114). -/
def execSliH1 (m : Option ModW) (f : SImm) (s : State) : Host.Outcome State Fault Refusal :=
  uniSet 0x121 m (.sImm f) false f.sd (fun s fr => putHalf (s.sreg fr f.sd.toNat) 16 f.imm) s
/-- SLI_H2 (06 R114). -/
def execSliH2 (m : Option ModW) (f : SImm) (s : State) : Host.Outcome State Fault Refusal :=
  uniSet 0x122 m (.sImm f) false f.sd (fun s fr => putHalf (s.sreg fr f.sd.toNat) 32 f.imm) s
/-- SLI_H3 (06 R114). -/
def execSliH3 (m : Option ModW) (f : SImm) (s : State) : Host.Outcome State Fault Refusal :=
  uniSet 0x123 m (.sImm f) false f.sd (fun s fr => putHalf (s.sreg fr f.sd.toNat) 48 f.imm) s
/-- SADD_IMM (06 R114). -/
def execSaddImm (m : Option ModW) (f : SImm) (s : State) : Host.Outcome State Fault Refusal :=
  uniSet 0x124 m (.sImm f) false f.sd (fun s fr => s.sreg fr f.sd.toNat + f.imm.signExtend 64) s

end Sys2Proof.Machine
end

