-- ==== Sys2Proof/Machine/Control.lean ====
section
/-! DEFINITION. Per-thread and uniform control (08 R158 to R164). -/

namespace Sys2Proof.Machine

/-- A branch target: PC + 4 offset, within 57 bits (05 R103). -/
def relTarget (pc : Va) (off : Int) : Va := BitVec.ofInt 57 ((pc.toNat : Int) + 4 * off)

/-- A register target: bits `<56:2>` (08 R160). -/
def regTarget (v : W64) : Va := (v.extractLsb' 2 55 ++ 0#2 : BitVec 57)

/-- The issuing sheaf's threads grouped by next PC: one group goes on at the end of its run, several end the sheaf
(01 R8). -/
def State.branch (s : State) (h : Sheaf) (next : Nat → Va) : State :=
  s.afterGroups h .run (h.active.map (fun t => ([t], some (next t))))

/-- BP (R158). -/
def execBp (m : Option ModW) (f : CCond) (s : State) : Host.Outcome State Fault Refusal :=
  match s.front with
  | none => .fault .noSheaf
  | some h =>
    let words := wordsOf 0x0A0 m (.cCond f)
    let tgt := relTarget h.pc f.off.toInt
    .next (s.branch h (fun t => if predOf (s.thread t).p f.p.toNat != f.n then tgt else afterPc h.pc words))

/-- JMP to a label (R160). -/
def execJmp (_ : Option ModW) (f : CFar) (s : State) : Host.Outcome State Fault Refusal :=
  match s.front with
  | none => .fault .noSheaf
  | some h => .next (s.branch h (fun _ => relTarget h.pc f.off.toInt))

/-- A jump through a register; `link` writes v62:v63 and shifts the chain after A is read (R159). -/
def jumpReg (p : Nat) (m : Option ModW) (f : CReg) (link : Bool) (s : State) : Host.Outcome State Fault Refusal :=
  match s.front with
  | none => .fault .noSheaf
  | some h =>
    let words := wordsOf p m (.cReg f)
    let ret : W64 := (afterPc h.pc words).setWidth 64
    let go (l : Lane) : W64 × Lane := l.rd f.a f.alu 13 64
    let tgts := (s.lanes h false (fun l => l)).map (fun l => (l.tid, regTarget (go l).1))
    let (h, s) := s.runLanes h words false link (fun l =>
      let (_, l) := go l
      if link then l.wr 62 false 64 ret else l)
    let next (t : Nat) : Va := ((tgts.find? (fun e => e.1 = t)).map (·.2)).getD 0
    .next (if h.active.isEmpty then s.closeRun h else s.branch h next)

/-- JMP_REG (R160). -/
def execJmpReg (m : Option ModW) (f : CReg) (s : State) := jumpReg 0x0A2 m f false s
/-- CALL_REG (R159). -/
def execCallReg (m : Option ModW) (f : CReg) (s : State) := jumpReg 0x0A4 m f true s
/-- RET (R159). -/
def execRet (m : Option ModW) (f : CReg) (s : State) := jumpReg 0x0A5 m f false s

/-- CALL to a label (R159). -/
def execCall (m : Option ModW) (f : CFar) (s : State) : Host.Outcome State Fault Refusal :=
  match s.front with
  | none => .fault .noSheaf
  | some h =>
    let words := wordsOf 0x0A3 m (.cFar f)
    let tgt := relTarget h.pc f.off.toInt
    let (h, s) := s.runLanes h words false true (fun l => l.wr 62 false 64 ((afterPc h.pc words).setWidth 64))
    .next (s.branch h (fun _ => tgt))

/-- REFORM (R161): the sheaf ends. -/
def execReform (m : Option ModW) (f : C0) (s : State) : Host.Outcome State Fault Refusal :=
  match s.front with
  | none => .fault .noSheaf
  | some h => .next (s.endSheaf h (fun _ => afterPc h.pc (wordsOf 0x0A6 m (.c0 f))))

/-- EXIT (R162). -/
def execExit (m : Option ModW) (f : C0) (s : State) : Host.Outcome State Fault Refusal :=
  let _ := (m, f)
  match s.front with
  | none => .fault .noSheaf
  | some h =>
    let s := s.dropFront
    let s := s.deliverLanes h.trapped
    .next ((h.active.foldl (fun s t => s.exitThread t) s).cleanBins h.core)

/-- NOP (R161): the run goes on and the chain does not shift. -/
def execNop (m : Option ModW) (f : C0) (s : State) : Host.Outcome State Fault Refusal :=
  s.laneOp 0x0A8 m (.c0 f) false false (fun l => l)

/-- UBR with a predicate (R163). -/
def execUbr (m : Option ModW) (f : CCond) (s : State) : Host.Outcome State Fault Refusal :=
  s.uniOp 0x140 m (.cCond f) false .run (fun h words fr s =>
    (s, some (if predOf (s.qmask fr) f.p.toNat != f.n then relTarget h.pc f.off.toInt else afterPc h.pc words)))

/-- UBR_FAR (R163). -/
def execUbrFar (m : Option ModW) (f : CFar) (s : State) : Host.Outcome State Fault Refusal :=
  s.uniOp 0x141 m (.cFar f) false .run (fun h _ _ s => (s, some (relTarget h.pc f.off.toInt)))

/-- UCALL (R163): the return address goes to s63. -/
def execUcall (m : Option ModW) (f : CFar) (s : State) : Host.Outcome State Fault Refusal :=
  s.uniOp 0x142 m (.cFar f) false .run (fun h words fr s =>
    (s.setSreg fr 63 ((afterPc h.pc words).setWidth 64), some (relTarget h.pc f.off.toInt)))

/-- URET (R163). -/
def execUret (m : Option ModW) (f : SReg) (s : State) : Host.Outcome State Fault Refusal :=
  s.uniOp 0x143 m (.sReg f) false .run (fun _ _ fr s => (s, some (regTarget (s.sreg fr f.sa.toNat))))

/-- ULOOP (R164). -/
def execUloop (m : Option ModW) (f : ULoop) (s : State) : Host.Outcome State Fault Refusal :=
  s.uniOp 0x144 m (.uLoop f) false .run (fun h words fr s =>
    let v := s.sreg fr f.s.toNat - 1
    (s.setSreg fr f.s.toNat v, some (if v ≠ 0 then relTarget h.pc f.off.toInt else afterPc h.pc words)))

end Sys2Proof.Machine
end

