-- ==== Sys2Proof/Machine/Float.lean ====
section
/-! DEFINITION. Lane float arithmetic, selection, comparison and functions (09 R165 to R173). -/

namespace Sys2Proof.Machine

/-- The types of float arithmetic (09 R165). -/
def isLaneFlt (c : Nat) : Bool := c ≤ 3

/-- The random value of a rounding under SR, at position `e` of the lane's result (04 R79, R80). -/
def Thread.rand (t : Thread) (mode e : Nat) : Nat :=
  if mode = 5 then srRand t.hkey t.hctr (logicalTid t) 0 0 e else 0

/-- Position width of a format of `w` bits: 64, or 32 (05 R96, 09 R166). -/
def posWidth (c : Nat) : Nat := if fmtWidth c = 64 then 64 else 32

/-- A float operand's encoding. -/
def Lane.rdFmt (l : Lane) (a : BitVec 7) (lu : Bool) (c : Nat) : Nat × Lane :=
  let (x, l) := l.rd a lu c (posWidth c)
  (x.toNat % 2 ^ fmtWidth c, l)

/-- A float result and its flags written. -/
def Lane.wrRes (l : Lane) (vd : BitVec 6) (nw : Bool) (c : Nat) (r : Res) : Lane :=
  (l.wrNat vd nw (posWidth c) r.1).flag r.2

/-- A float instruction of two operands: `res` has the mode and the random value. -/
def fltTwo (p : Nat) (m : Option ModW) (f : Alu) (res : Nat → Nat → Nat → Nat → Nat → Res) (s : State) :
    Host.Outcome State Fault Refusal :=
  let c := fltTy (tyCode m)
  s.laneOp p m (.alu f) (illTy m isLaneFlt) true (fun l =>
    let (x, l) := l.rdFmt f.a f.alu c
    let (y, l) := l.rdFmt f.b f.blu c
    let mode := modeOf m l.t
    l.wrRes f.vd f.nw c (res c mode (l.t.rand mode 0) x y))

/-- A float instruction of one operand. -/
def fltOne (p : Nat) (m : Option ModW) (f : Alu) (res : Nat → Nat → Nat → Nat → Res) (s : State) :
    Host.Outcome State Fault Refusal :=
  let c := fltTy (tyCode m)
  s.laneOp p m (.alu f) (illTy m isLaneFlt) true (fun l =>
    let (x, l) := l.rdFmt f.a f.alu c
    let mode := modeOf m l.t
    l.wrRes f.vd f.nw c (res c mode (l.t.rand mode 0) x))

/-- FADD (R168). -/
def execFadd (m : Option ModW) (f : Alu) (s : State) := fltTwo 0x040 m f addF s
/-- FSUB (R168). -/
def execFsub (m : Option ModW) (f : Alu) (s : State) := fltTwo 0x041 m f subF s
/-- FMUL (R168). -/
def execFmul (m : Option ModW) (f : Alu) (s : State) := fltTwo 0x042 m f mulF s
/-- FDIV (R168). -/
def execFdiv (m : Option ModW) (f : Alu) (s : State) := fltTwo 0x044 m f divF s
/-- FMIN (R170). -/
def execFmin (m : Option ModW) (f : Alu) (s : State) := fltTwo 0x045 m f (fun c _ _ x y => minF c x y) s
/-- FMAX (R170). -/
def execFmax (m : Option ModW) (f : Alu) (s : State) := fltTwo 0x046 m f (fun c _ _ x y => maxF c x y) s
/-- FMINN (R170). -/
def execFminn (m : Option ModW) (f : Alu) (s : State) := fltTwo 0x047 m f (fun c _ _ x y => numF false c x y) s
/-- FMAXN (R170). -/
def execFmaxn (m : Option ModW) (f : Alu) (s : State) := fltTwo 0x048 m f (fun c _ _ x y => numF true c x y) s
/-- FABS (R170). -/
def execFabs (m : Option ModW) (f : Alu) (s : State) := fltOne 0x049 m f (fun c _ _ x => (absF c x, 0)) s
/-- FNEG (R170). -/
def execFneg (m : Option ModW) (f : Alu) (s : State) := fltOne 0x04A m f (fun c _ _ x => (negF c x, 0)) s
/-- FRCP (R173). -/
def execFrcp (m : Option ModW) (f : Alu) (s : State) := fltOne 0x04C m f (funcF 0) s
/-- FRSQ (R173). -/
def execFrsq (m : Option ModW) (f : Alu) (s : State) := fltOne 0x04D m f (funcF 1) s
/-- FSQRT (R173). -/
def execFsqrt (m : Option ModW) (f : Alu) (s : State) := fltOne 0x04E m f (funcF 2) s
/-- FEXP2 (R173). -/
def execFexp2 (m : Option ModW) (f : Alu) (s : State) := fltOne 0x04F m f (funcF 3) s
/-- FLOG2 (R173). -/
def execFlog2 (m : Option ModW) (f : Alu) (s : State) := fltOne 0x050 m f (funcF 4) s
/-- FSIN (R173). -/
def execFsin (m : Option ModW) (f : Alu) (s : State) := fltOne 0x051 m f (funcF 5) s
/-- FCOS (R173). -/
def execFcos (m : Option ModW) (f : Alu) (s : State) := fltOne 0x052 m f (funcF 6) s
/-- FRND (R173). -/
def execFrnd (m : Option ModW) (f : Alu) (s : State) := fltOne 0x053 m f (funcF 7) s

/-- FMA (R168): vd is the addend. -/
def execFma (m : Option ModW) (f : Alu) (s : State) : Host.Outcome State Fault Refusal :=
  let c := fltTy (tyCode m)
  s.laneOp 0x043 m (.alu f) (illTy m isLaneFlt) true (fun l =>
    let (x, l) := l.rdFmt f.a f.alu c
    let (y, l) := l.rdFmt f.b f.blu c
    let (z, l) := l.rdFmt (f.vd.setWidth 7) false c
    let mode := modeOf m l.t
    l.wrRes f.vd f.nw c (fmaF c mode (l.t.rand mode 0) x y z))

/-- FCMP (R171). -/
def execFcmp (m : Option ModW) (f : Alu) (s : State) : Host.Outcome State Fault Refusal :=
  let c := fltTy (tyCode m)
  s.laneOp 0x04B m (.alu f) (illTy m isLaneFlt) false (fun l =>
    let (x, l) := l.rdFmt f.a f.alu c
    let (y, l) := l.rdFmt f.b f.blu c
    let (v, fl) := cmpF (condOf f.vd) c x y
    ({ l with t := { l.t with p := setPred l.t.p (f.vd.toNat % 8) v } } : Lane).flag fl)

/-- FCLASS (R172): an integer result in a 32-bit position. -/
def execFclass (m : Option ModW) (f : Alu) (s : State) : Host.Outcome State Fault Refusal :=
  let c := fltTy (tyCode m)
  s.laneOp 0x054 m (.alu f) (illTy m isLaneFlt) true (fun l =>
    let (x, l) := l.rdFmt f.a f.alu c
    l.wrNat f.vd f.nw 32 (classF c x))

end Sys2Proof.Machine
end

