-- ==== Sys2Proof/Machine/Conv.lean ====
section
/-! DEFINITION. Conversions of one lane: `cvt`, `cvt.lg6`, `pk` and `upk` (09 R174 to R180). -/

namespace Sys2Proof.Machine

/-- A value extended by its signedness to a 32-bit register, or as it stands (09 R176, 12 R225). -/
def regExt (c code : Nat) : Nat :=
  if isSigned c && fmtWidth c < 32 then wrapInt 32 (intVal true (fmtWidth c) code) else code % 2 ^ fmtWidth c

/-- The pairs that `cvt` allows (09 R176). -/
def cvtOk (t s : Nat) : Bool :=
  (isFloat t || isInt t) && (isFloat s || isInt s) && (isFloat t || isFloat s)

/-- The pairs that `cvt.lg6` allows (09 R178). -/
def lg6Ok (t s : Nat) : Bool := (t = 18 && s ≤ 3) || (s = 18 && t ≤ 3)

/-- Whether every value of one float format is a value of another (09 R177, CV1). -/
def holdsAll (t s : Nat) : Bool :=
  let a := finfo s
  let b := finfo t
  (isFloat t && isFloat s) &&
  (t = s ||
   (isIeee t || (!isIeee s && s ≠ 5)) &&
   a.mb ≤ b.mb &&
   1 - b.bias - (b.mb : Int) ≤ 1 - a.bias - (a.mb : Int) &&
   (match decodeVal s (maxFinite s), decodeVal t (maxFinite t) with
    | .fin _ m e, .fin _ n g => cmpReal false m e false n g != .gt
    | _, _ => false))

/-- One conversion between allowed formats. -/
def cvtCode (t s mode r code : Nat) : Res :=
  if t = s && isFloat t then
    let v := decodeVal s code
    if v.isNan then toFloat t mode r v else (code % 2 ^ fmtWidth s, 0)
  else convVal t mode r (decodeVal s code)

/-- A unary conversion: a pair that it does not allow copies the bits (09 R175). -/
def convOne (p : Nat) (m : Option ModW) (f : Alu) (t s : Nat) (ok : Bool) (st : State) :
    Host.Outcome State Fault Refusal :=
  st.laneOp p m (.alu f) (!ok) true (fun l =>
    let (x, l) := l.rdFmt f.a f.alu s
    if ok then
      let mode := modeOf m l.t
      let (c, fl) := cvtCode t s mode (l.t.rand mode 0) x
      (l.wrNat f.vd f.nw (posWidth t) (regExt t c)).flag fl
    else l.wrNat f.vd f.nw (posWidth t) (x % 2 ^ fmtWidth t))

/-- CVT (R177). -/
def execCvt (m : Option ModW) (f : Alu) (s : State) : Host.Outcome State Fault Refusal :=
  let (t, src) := cvtPair 1 1 m
  convOne 0x060 m f t src (cvtOk t src) s

/-- CVT_LG6 (R178). -/
def execCvtLg6 (m : Option ModW) (f : Alu) (s : State) : Host.Outcome State Fault Refusal :=
  let (t, src) := cvtPair 18 1 m
  convOne 0x062 m f t src (lg6Ok t src) s

/-- The formats of `pk` (09 R179). -/
def pkOk (t s : Nat) : Bool := (2 ≤ t && t ≤ 8) && s ≤ 3

/-- PK (R179): the two codes enter at the top of vd. A pair of formats that it does not allow copies A's bits.
Log 128 (DEDUCED, unsafe). -/
def execPk (m : Option ModW) (f : Alu) (s : State) : Host.Outcome State Fault Refusal :=
  let (t, src) := cvtPair 3 1 m
  let w := fmtWidth t
  s.laneOp 0x064 m (.alu f) (!pkOk t src) true (fun l =>
    let (x, l) := l.rdFmt f.a f.alu src
    let (y, l) := l.rdFmt f.b f.blu src
    let (z, l) := l.rdVd f.vd false 32
    if pkOk t src then
      let mode := modeOf m l.t
      let (ca, fa) := cvtCode t src mode (l.t.rand mode 0) x
      let (cb, fb) := cvtCode t src mode (l.t.rand mode 1) y
      let pair := cb * 2 ^ w + ca
      (l.wrNat f.vd f.nw 32 ((z.toNat / 2 ^ (2 * w) + pair * 2 ^ (32 - 2 * w)) % 2 ^ 32)).flag (fa ||| fb)
    else l.wrNat f.vd f.nw 32 (x % 2 ^ 32))

/-- The formats of `upk` (09 R180). -/
def upkOk (t s : Nat) : Bool := t ≤ 1 && ((2 ≤ s && s ≤ 8) || s = 18)

/-- UPK (R180). Log 129 (DEDUCED, unsafe). -/
def execUpk (m : Option ModW) (f : Alu) (s : State) : Host.Outcome State Fault Refusal :=
  let (t, src) := cvtPair 1 3 m
  let w := fmtWidth src
  s.laneOp 0x065 m (.alu f) (!upkOk t src) true (fun l =>
    let (x, l) := l.rd f.a f.alu src (posWidth src)
    let (y, l) := l.rd f.b f.blu 12 32
    if upkOk t src then
      let j := y.toNat % (32 / w)
      let v := decodeVal src (x.toNat / 2 ^ (w * j) % 2 ^ w)
      let (c, fl) := toFloat t 0 0 v
      (l.wrNat f.vd f.nw (posWidth t) c).flag fl
    else l.wrNat f.vd f.nw (posWidth t) (x.toNat % 2 ^ fmtWidth src % 2 ^ fmtWidth t))

end Sys2Proof.Machine
end

