-- ==== Sys2Proof/Machine/Perform.lean ====
section
/-! DEFINITION. What an access to global memory is: its order after the fallbacks of 05 Table 5-12, its type on
its page (12 R224), where it goes, and the values that a load returns and a store writes (12 R225, R226). -/

namespace Sys2Proof.Machine

/-- An order, its relaxed use, its scope, and whether a fallback applied. -/
abbrev OrdSpec := Ord × Use × Nat × Bool

/-- The ORD and SCO codes of a modifier word (05 Table 5-3). -/
def ordCode (m : Option ModW) : Nat := match m with | some w => w.ord.toNat | none => 0
/-- See `ordCode`. -/
def scoCode (m : Option ModW) : Nat := match m with | some w => w.sco.toNat | none => 0
/-- The FL bits of a modifier word. -/
def flCode (m : Option ModW) : Nat := match m with | some w => w.fl.toNat | none => 0

/-- A scope code, `.sys` where absent (02 Table 2-2). -/
def scoOr (c : Nat) : Nat := if c = 0 then 7 else c

/-- The order of a load, `own` its ordered form and the codes that fall back to it (05 Table 5-12). -/
def lsOrd (m : Option ModW) (own : Ord) (ownCode other : Nat) : OrdSpec :=
  let o := ordCode m
  let c := scoCode m
  if o = 5 then (.sc, .none, scoOr c, false)
  else if o = ownCode then (own, .none, scoOr c, false)
  else if o = other || o = 4 then (own, .none, scoOr c, true)
  else (.rlx, .none, 7, c ≠ 0 || 6 ≤ o)

/-- The order of `ld`, `ldraw`, `sld` and `ldsp`. -/
def loadOrd (m : Option ModW) : OrdSpec := lsOrd m .acq 2 3
/-- The order of `st`, `sst` and `stsp`. -/
def storeOrd (m : Option ModW) : OrdSpec := lsOrd m .rel 3 2

/-- A scope of an atomic or a `red`: `.wave` runs as `.core`. -/
def homeSco (m : Option ModW) : Nat × Bool := let c := scoCode m; if c = 1 then (2, true) else (scoOr c, false)

/-- The order or use of `atom` and `amaxi`: `nw` its NW bit, `add` and `cas` what it is (05 Table 5-12, 12
R236). -/
def atomOrd (m : Option ModW) (nw add cas : Bool) : OrdSpec :=
  let (c, ill) := homeSco m
  match ordCode m with
  | 0 => (.sc, .none, c, true)
  | 2 => (.acq, .none, c, ill)
  | 3 => (.rel, .none, c, ill)
  | 4 => (.acqrel, .none, c, ill)
  | 5 => (.sc, .none, c, ill)
  | 6 => if nw then (.rlx, .unp, c, ill) else (.rlx, .nor, c, true)
  | 7 => if nw then (.rlx, .com, c, ill) else (.rlx, .nor, c, true)
  | 9 => if add then (.rlx, .qnt, c, ill) else (.rlx, .nor, c, true)
  | 10 => if cas then (.rlx, .spc, c, ill) else (.rlx, .nor, c, true)
  | _ => (.rlx, .nor, c, ill)

/-- The order or use of `red` (05 Table 5-12, 12 R238). -/
def redOrd (m : Option ModW) : OrdSpec :=
  let (c, ill) := homeSco m
  match ordCode m with
  | 0 => (.rlx, .com, c, true)
  | 1 => (.rlx, .com, c, ill)
  | 3 => (.rel, .none, c, ill)
  | 6 => (.rlx, .unp, c, ill)
  | 7 => (.rlx, .com, c, ill)
  | 2 => (.rel, .none, c, true)
  | 4 => (.rel, .none, c, true)
  | 5 => (.rel, .none, c, true)
  | _ => (.rlx, .com, c, true)

/-- The order of `fence` (12 R233). -/
def fenceOrd (m : Option ModW) : OrdSpec :=
  let c := scoOr (scoCode m)
  match ordCode m with
  | 0 => (.sc, .none, c, false)
  | 2 => (.acq, .none, c, false)
  | 3 => (.rel, .none, c, false)
  | 4 => (.acqrel, .none, c, false)
  | 5 => (.sc, .none, c, false)
  | _ => (.sc, .none, c, true)

/-! ### Types -/

/-- Whether an access takes its page as bit patterns of raw bytes. Log 39 (DEDUCED, unsafe). -/
def asRaw (p : Page) (raw : Bool) : Bool := raw || isRaw p

/-- A page whose elements are float values: binary formats, packed and block formats (12 Table 12-1). -/
def isFltPage (p : Page) : Bool := p.fmt ≤ 8 || p.fmt = 18 || (p.fmt = 10 && p.blk ≠ 0)

/-- The natural type of an access (12 Table 12-1). -/
def naturalTy (p : Page) (raw st : Bool) : Nat :=
  if asRaw p raw then 12
  else if isFltPage p then (if p.fmt ≤ 3 then p.fmt else 1)
  else if p.fmt = 9 then (if st then 14 else 1)
  else p.fmt

/-- Whether a page allows a type (12 Table 12-1). -/
def tyAllowed (p : Page) (raw st : Bool) (c : Nat) : Bool :=
  if asRaw p raw then c ≤ 3 || isInt c
  else if isFltPage p then c ≤ 3
  else if p.fmt = 9 then (if st then c = 14 else c ≤ 3 || c = 14)
  else if isInt p.fmt then isInt c
  else c = p.fmt

/-- The type of an access and whether it fell back (12 R224). -/
def accessTy (p : Page) (raw st : Bool) (c : Nat) : Nat × Bool :=
  if c = 31 then (naturalTy p raw st, false)
  else if tyAllowed p raw st c then (c, false) else (naturalTy p raw st, true)

/-! ### Values -/

/-- The bits of an element, as a reader of bytes gives them. -/
def readBits (rd : Nat → W8) (e : Elem) : Nat :=
  readNat rd (e.bit / 8) ((e.bit % 8 + e.width + 7) / 8) / 2 ^ (e.bit % 8) % 2 ^ e.width

/-- The bits of raw bytes of a mapped tile: each byte through the tile's permutation (11 R208). -/
def readPermuted (rd : Nat → W8) (t : TileRef) (idx n : Nat) : Nat :=
  let h := readHdr rd t
  (upto n).foldl (fun a i => a + (rd (t.pay + permIndex h t.page.tl (idx + i))).toNat * 2 ^ (8 * i)) 0

/-- Bits of an element with later writes of elements laid over them: the bits, and which of them were covered.
Log 33 (DEDUCED, unsafe). -/
def overlay (e : Elem) (ws : List (Elem × Nat)) (base : Nat) : Nat × Nat :=
  ws.foldl (fun (b, c) (o, v) =>
    (upto e.width).foldl (fun (b, c) i =>
      let p := e.bit + i
      if o.bit ≤ p && p < o.bit + o.width then
        (b - (if bitAt b i then 2 ^ i else 0) + (if bitAt v (p - o.bit) then 2 ^ i else 0),
         if bitAt c i then c else c + 2 ^ i)
      else (b, c)) (b, c)) (base, 0)

/-- Whether an access reads through a tile's header. -/
def Acc.mapped (a : Acc) : Bool := a.elem.tile.isSome && !a.raw

/-- The random value of an access's rounding (12 R225, R226). -/
def Acc.rand (a : Acc) : Nat := if a.mode = 5 then srRand a.hkey a.hctr a.tid40 0 0 0 else 0

/-- The value of an element whose code is `code`, in the register format `ty` (12 R225): `scale` is the block's
scale code. Log 112 (DEDUCED, unsafe). -/
def decodeElem (p : Page) (raw : Bool) (ty mode r code scale : Nat) : Res :=
  if asRaw p raw || ty = 14 && p.fmt = 9 || 19 ≤ p.fmt then (regExt ty code, 0)
  else if isInt p.fmt && p.blk = 0 then
    (regExt ty (wrapInt (fmtWidth ty) (intVal (isSigned p.fmt) (fmtWidth p.fmt) code)), 0)
  else if p.blk ≠ 0 then
    let v := if p.sp = 2 then elemVal p.fmt true code else mxVal p.fmt code scale
    toFloat ty mode r v
  else cvtCode ty p.fmt mode r code

/-- The result of a load: `rd` reads the view, `ws` are the writes laid over it. None when its tile's header is
invalid (11 R206). The Boolean says that no byte of the view was used. A `tread`, of `op` 1, takes the bytes as they
stand (15 R281). -/
def Acc.loadValue (a : Acc) (rd : Nat → W8) (ws : List (Elem × Nat)) : Option (Res × Bool) :=
  match (if a.mapped then a.elem.tile else none) with
  | some t =>
    let h := readHdr rd t
    let (b0, m) := overlay a.elem ws 0
    if m = 2 ^ a.elem.width - 1 then some (decodeElem a.page a.raw a.ty a.mode a.rand b0 127, true)
    else if !h.valid t.page.tl t.page.fmt then none
    else if isRaw a.page then
      let (b, _) := overlay a.elem ws (readPermuted rd t a.elem.idx (a.elem.width / 8))
      some (decodeElem a.page a.raw a.ty a.mode a.rand b 127, false)
    else some (toFloat a.ty a.mode a.rand (tileVal rd t h a.mode a.elem.idx), false)
  | none =>
    let (b, m) := overlay a.elem ws (readBits rd a.elem)
    let sc := match a.elem.scale with | some x => (rd x).toNat | none => 127
    let r : Res := if a.op = 1 then (b, 0) else decodeElem a.page a.raw a.ty a.mode a.rand b sc
    some (r, m = 2 ^ a.elem.width - 1)

/-- The code that a store writes, without a block's scale (12 R226): flags at issue. -/
def storeCode (p : Page) (raw : Bool) (ty mode r data : Nat) : Res :=
  if asRaw p raw || p.fmt = 9 || 19 ≤ p.fmt then (data % 2 ^ fmtWidth ty, 0)
  else if isInt p.fmt then (wrapInt (fmtWidth p.fmt) (intVal (isSigned ty) (fmtWidth ty) data), 0)
  else cvtCode p.fmt ty mode r (data % 2 ^ fmtWidth ty)

/-- The code of an element of a block, computed at home under the scale code found there (12 R226). -/
def blockCode (p : Page) (ty mode r data scale : Nat) : Res :=
  let x := decodeVal ty (data % 2 ^ fmtWidth ty)
  let y := if p.sp = 2 || scale = 255 then x else x.scale (127 - (scale : Int))
  if p.fmt = 10 then toMxInt mode r y else convVal p.fmt mode r y

/-- The bytes that an element's code changes, its other bits as a reader gives them. -/
def elemCells (rd : Nat → W8) (e : Elem) (code : Nat) : List Host.Cell :=
  let n := (e.bit % 8 + e.width + 7) / 8
  let old := readNat rd (e.bit / 8) n
  let k := e.bit % 8
  let v := old % 2 ^ k + code % 2 ^ e.width * 2 ^ k + old / 2 ^ (k + e.width) * 2 ^ (k + e.width)
  cellsAt (e.bit / 8) (natBytes v n)

/-- The stores of an owner through one home not yet applied at its die, whose bytes its loads through that home take (07 R120 case 2,
17 R307). Log 33 (DEDUCED, unsafe). -/
def State.ownStores (s : State) (o : Owner) (home : Target) : List (Elem × Nat) :=
  let q := s.stream o
  ((q.iq.filter (fun g => !q.foreign.contains g)).filterMap (fun g => tget s.accs g)).filterMap (fun a =>
    match a.target with
    | .pkg _ => if a.target = home && a.kind = .store && !a.atHome && !a.applied && a.page.cc ≠ 2 then some (a.elem, a.data.toNat) else none
    | _ => none)

/-- `n` raw bytes read by an owner at its die's clock: its own stores over the view (07 R120).
Log 33 (DEDUCED, unsafe). -/
def State.readNow (s : State) (o : Owner) (die home pa n : Nat) : Nat :=
  (upto n).foldl (fun v i =>
    let e : Elem := { pa := pa + i, bit := 8 * (pa + i), width := 8 }
    v + (overlay e (s.ownStores o (.pkg home)) (s.viewByte die (pa + i)).toNat).1 * 2 ^ (8 * i)) 0

/-- The byte that a load of raw bytes takes at time `t`: its owner's stores `ws` over the view (07 R120). -/
def State.rawByte (s : State) (ws : List (Elem × Nat)) (die t pa : Nat) : W8 :=
  BitVec.ofNat 8 (overlay { pa := pa, bit := 8 * pa, width := 8 } ws ((s.die die).byte t pa).toNat).1

/-! ### Where an access goes -/

/-- The page that stands for the host window, and for another package's memory as seen from here: raw bytes at
their VA (12 R222). Log 46 (DEDUCED, unsafe). -/
def farPage (asid : Nat) : Page := { asid := asid, fmt := 22, bits := 57 }

/-- Where a VA goes and the page that describes it, or the fault. -/
def State.reach (s : State) (asid va : Nat) (write : Bool) : Except Nat (Target × Page) × State :=
  match s.vaTarget asid va with
  | .error k => (.error k, s)
  | .ok (.pkg d) => match s.translate asid va write false with
    | (.error k, s) => (.error k, s)
    | (.ok p, s) => (.ok (.pkg d, p), s)
  | .ok t => (.ok (t, farPage asid), s)

/-- A fault of an access: kind, ACCESS code and the VA of its record. -/
structure AccFault where
  kind : Nat
  access : Nat
  va : Nat
  deriving DecidableEq, Repr

/-- The element of an access, with its tile's header translated, and for a write checked (11 R218): `access` is
its ACCESS code. Log 37 (DEDUCED, unsafe). -/
def State.place (s : State) (p : Page) (va base : Nat) (extra : Int) (w : Nat) (raw write : Bool) (access : Nat) :
    Except AccFault Elem × State :=
  let fva := if isPacked p && !raw then base else va
  match locate p va base extra w raw with
  | .error k => (.error ⟨k, access, fva⟩, s)
  | .ok e => match e.tile with
    | none => (.ok e, s)
    | some t => match s.withHeader t false with
      | (.error (k, hva), s) => (.error ⟨k, if write then 9 else access, hva⟩, s)
      | (.ok t, s) =>
        if write && !(readHdr s.homeByte t).valid t.page.tl t.page.fmt then (.error ⟨kHeaderInvalid, 9, t.hdrVa⟩, s)
        else (.ok { e with tile := some t }, s)

/-- The VA that an access translates: the base's page for a packed page (12 R222). Packed pages are found by the
base, so the base is tried first and stands when its page is packed. -/
def State.reachOf (s : State) (asid va base : Nat) (raw write : Bool) : Except AccFault (Target × Page) × State :=
  let packed : Bool := !raw && (match s.vaTarget asid base with
    | .ok (.pkg d) => (match s.pageOf d asid base with | .ok p => isPacked p | .error _ => false)
    | _ => false)
  let v := if packed then base else va
  match s.reach asid v write with
  | (.error k, s) => (.error ⟨k, 0, v⟩, s)
  | (.ok r, s) => (.ok r, s)

/-- What every access of an owner carries: whose it is, where it issues and its rounding state. -/
def State.accOf (s : State) (o : Owner) (tid : Nat) (kind : AccKind) (ord : OrdSpec) (pc : Va) (words : W64)
    (asid va mode : Nat) : Acc :=
  let tk := tkOf tid
  let t := s.thread tid
  { gid := 0, owner := o, core := s.coreOf tk, die := s.dieOfTeam tk, team := tk, kind := kind, ord := ord.1,
    use := ord.2.1, scope := ord.2.2.1, pc := pc, words := words, va := BitVec.ofNat 57 va, asid := asid,
    mode := mode, hkey := t.hkey, hctr := t.hctr, tid40 := logicalTid t, flagTid := tid }

/-- A read of `n` raw bytes outside the package, whose answer is kept (07 R130, R131). Log 46 (DEDUCED, unsafe). -/
def State.addBlock (s : State) (a : Acc) (t : Target) (va n : Nat) : Nat × State :=
  s.addAcc { a with kind := .load, stage := .issued, va := BitVec.ofNat 57 va, page := farPage a.asid, target := t,
                    elem := { pa := va, bit := 8 * va, width := 8 * n }, lines := [lineOf va], raw := true, block := true, tyc := 22 }

/-- The reads outside the package, once every one of them is answered: the kind and the VA of the first fault, or the bytes. -/
def State.blocks (s : State) (gs : List Nat) : Option (Except (Nat × Nat) (List W8)) :=
  let xs := gs.filterMap (fun g => tget s.accs g)
  if !xs.all (·.applied) then none
  else match xs.find? (fun a => a.cmp ≠ 0) with
    | some a => some (.error (a.cmp.toNat, a.va.toNat))
    | none => some (.ok (xs.flatMap (fun a => a.cells.map (·.2))))

/-- Answered reads gone. -/
def State.dropBlocks (s : State) (gs : List Nat) : State := gs.foldl (fun s g => { s with accs := tdel s.accs g }) s

/-- Whether a step still awaits a read outside the package. -/
def State.wanted (s : State) (g : Nat) : Bool :=
  s.waits.any (fun w => w.fences.contains g) || s.ringLoads.any (fun r => r.far.contains g) || s.launches.any (fun l => l.2.waitAcc = some g) ||
  s.waves.any (fun w => w.2.far.contains g)

/-- The answer to a read outside the package kept, while a step awaits it. -/
def State.endBlock (s : State) (a : Acc) (t kind : Nat) (cells : List Host.Cell) (bad : Bool) : State :=
  if s.wanted a.gid then
    (s.modStreams (fun q => q.finish a t false)).modAcc a.gid (fun b => { b with applied := true, cmp := BitVec.ofNat 64 kind, cells := cells, bad := bad })
  else s.finishAcc a t

/-- The lines of an access. -/
def accLines (t : Target) (e : Elem) (va : Nat) : List Nat :=
  match t with | .pkg _ => elemLines e | _ => [lineOf va]

end Sys2Proof.Machine
end

