-- ==== Sys2Proof/Machine/MemLane.lean ====
section
/-! DEFINITION. The accesses of one lane or of one fragment, as first issued and as replayed from kept operands
(12 R222 to R239, 08 R155, R156). -/

namespace Sys2Proof.Machine

/-- The operands of a lane's access: base, index, displacement, data operand and, for `cas`, the new value. -/
structure MemOps where
  a : Nat
  x : Nat := 0
  d : Int := 0
  b : W64 := 0
  c : W64 := 0
  deriving DecidableEq, Repr

/-- The effective address (12 R222). -/
def MemOps.ea (o : MemOps) : Nat := (((o.a + o.x : Nat) + o.d).emod (2 ^ 57 : Nat)).toNat
/-- The base VA. -/
def MemOps.base (o : MemOps) : Nat := o.a % 2 ^ 57
/-- Index plus displacement. -/
def MemOps.extra (o : MemOps) : Int := (o.x : Int) + o.d

/-- The replay record of a lane's operands (12 R227); the X operand of `cas` is its new value (05 R102). -/
def MemOps.kept (o : MemOps) (cas : Bool) (pc : Va) (words : W64) : Kept :=
  if cas then { pc := pc, words := words, a := BitVec.ofNat 64 o.a, b := o.b, x := o.c }
  else { pc := pc, words := words, a := BitVec.ofNat 64 o.a, b := o.b, x := BitVec.ofNat 64 o.x, data := o.c }

/-- How one access of a lane ended: what enters the latch chain, a trap, or a fault with the data operand of its
record; `rd` says that a store's data register was read (12 R227). -/
inductive MemEnd where
  | done (row : LatchVal)
  | trap (code : Nat) (val : W64)
  | fault (f : AccFault) (opb : W64) (rd : Bool)
  deriving DecidableEq, Repr

/-- The displacement of a MEM word. -/
def dispOf (d : BitVec 8) : Int := d.toInt

/-- A register and, for a pair, the one after it, awaiting a load. -/
def pendRegs (t : Tbl Nat) (vd : Nat) (wide : Bool) (g : Nat) : Tbl Nat :=
  let t := tset t vd g
  if wide then tset t (vd + 1) g else t

/-- A load issued for a lane: its destination register waits for it. -/
def State.issueLoad (s : State) (tid : Nat) (a : Acc) (nw : Bool) (vd : Nat) : State × LatchVal :=
  let wide := a.wide || fmtWidth a.ty = 64
  let a := { a with dst := if nw then none else some vd, wide := wide, latch := true, stage := .issued }
  let (g, s) := s.addOrdered a
  let s := if nw then s else s.modThread tid (fun t => { t with pend := pendRegs t.pend vd wide g })
  (s, .pend g)

/-- Whether an access leaves for another package, where its page decides its type, its alignment and its element. -/
def Target.far : Target → Bool
  | .other _ => true
  | _ => false

/-- An access of `w` bits sent to another package. Log 46 (DEDUCED, unsafe). -/
def Acc.toFar (a : Acc) (p : Page) (t : Target) (ea w c : Nat) : Acc :=
  { a with page := p, target := t, elem := { pa := ea, bit := 8 * ea, width := w }, lines := [lineOf ea],
           ty := if c = 31 then 12 else c, tyc := c, stage := .issued }

/-- `ld` and `ldraw` in one lane (12 R222 to R225, R228 to R230). -/
def State.laneLoad (s : State) (tid : Nat) (raw : Bool) (m : Option ModW) (nw : Bool) (vd : Nat) (o : MemOps)
    (pc : Va) (words : W64) : State × MemEnd :=
  let asid := s.asidOf tid
  match s.reachOf asid o.ea o.base raw false with
  | (.error f, s) => (s, .fault f 0 false)
  | (.ok (tgt, p), s) =>
    let c := tyCode m
    let (ty, ill) := accessTy p raw false c
    if tgt.far then
      let a := (s.accOf (.thread tid) tid .load (loadOrd m) pc words asid o.ea (s.thread tid).rm).toFar p tgt o.ea (fmtWidth ty) c
      let (s, row) := s.issueLoad tid { a with raw := raw, wide := vd % 2 = 0, kept := o.kept false pc words } nw vd
      (s, .done row)
    else if (c = 31 || ill) && fmtWidth ty = 64 && !nw && vd % 2 = 1 then (s, .trap tReservedField 0)
    else match s.place p o.ea o.base o.extra (fmtWidth ty) raw false 0 with
      | (.error f, s) => (s, .fault f 0 false)
      | (.ok e, s) =>
        let s := if ill then s.flagThread tid fILLMOD else s
        let ord := loadOrd m
        let a := s.accOf (.thread tid) tid .load ord pc words asid o.ea (s.thread tid).rm
        let dead := !raw && bitAt (flCode m) 0 && ord.1 = .rlx && p.cc = 1 && !p.map
        let a := { a with page := p, target := tgt, elem := e, lines := accLines tgt e o.ea, ty := ty, raw := raw, dead := dead,
                          kept := o.kept false pc words }
        let (s, row) := s.issueLoad tid a nw vd
        (s, .done row)

/-- Near-forward stores reach their own core at issue (07 R127). Log 41 (DEDUCED, unsafe). -/
def nfOwn (p : Page) (mapped : Bool) (core : Nat) : List Nat := if p.cc = 3 && !mapped then [core] else []

/-- A store of an element issued: its code is fixed at issue, but for a block's element (12 R226).
Log 30 (DEDUCED, unsafe). -/
def State.issueStore (s : State) (a : Acc) (data : W64) : State :=
  let (code, fl) := if a.atHome then (data.toNat, 0) else storeCode a.page a.raw a.ty a.mode a.rand data.toNat
  let s := s.flagThread a.flagTid fl
  let s := s.voidIdem a.team
  (s.addOrdered { a with data := BitVec.ofNat 64 code, stage := .issued,
                         deliv := nfOwn a.page a.elem.tile.isSome a.core }).2

/-- The register after a store's data register, once that register has been freed by its read as a last use. -/
def Thread.freedPair (t : Thread) (vd w : Nat) : Option Nat :=
  if w = 32 && vd % 2 = 0 && tget t.regs vd = some .freed then some (vd + 1) else none

/-- `st` in one lane, its data register read by `data` for the type of the access (12 R224, R226 to R228): with no type
written it is read after translation. To another package go the register and, where it is the first of a pair, the other
one, which `hi` gives: the page's type decides there whether it is used, and only then is it freed.
Log 30 (DEDUCED, unsafe). Log 36 (DEDUCED, unsafe). Log 46 (DEDUCED, unsafe). -/
def State.laneStore (s : State) (tid : Nat) (m : Option ModW) (vd : Nat) (o : MemOps) (pc : Va) (words : W64)
    (data : State → Nat → State × Except (Nat × W64) W64) (hi : State → W32) : State × MemEnd :=
  let asid := s.asidOf tid
  let c := tyCode m
  let wide (ty : Nat) : Nat := if fmtWidth ty = 64 then 64 else 32
  match s.reachOf asid o.ea o.base false true with
  | (.error f, s) =>
    if c = 31 then (s, .fault { f with access := 1 } 0 false)
    else match data s (wide c) with
      | (s, .error t) => (s, .trap t.1 t.2)
      | (s, .ok v) => (s, .fault { f with access := 1 } v true)
  | (.ok (tgt, p), s) =>
    let (ty, ill) := accessTy p false true c
    if tgt.far then
      let w := if c = 31 then 32 else wide c
      match data s w with
      | (s, .error t) => (s, .trap t.1 t.2)
      | (s, .ok v) =>
        let v := if w = 32 && vd % 2 = 0 then pair64 (lo32 v) (hi s) else v
        let a := (s.accOf (.thread tid) tid .store (storeOrd m) pc words asid o.ea (modeOf none (s.thread tid))).toFar p tgt o.ea
          (if vd % 2 = 0 then 64 else 32) c
        let s := s.voidIdem a.team
        ((s.addOrdered { a with data := v, dst := (s.thread tid).freedPair vd w,
                                kept := { o.kept false pc words with data := v, pd := true } }).2, .done (.val 0))
    else if (c = 31 || ill) && fmtWidth ty = 64 && vd % 2 = 1 then (s, .trap tReservedField 0)
    else match data s (wide ty) with
      | (s, .error t) => (s, .trap t.1 t.2)
      | (s, .ok v) => match s.place p o.ea o.base o.extra (fmtWidth ty) false true 1 with
        | (.error f, s) => (s, .fault f v true)
        | (.ok e, s) =>
          let s := if ill then s.flagThread tid fILLMOD else s
          let a := s.accOf (.thread tid) tid .store (storeOrd m) pc words asid o.ea (modeOf none (s.thread tid))
          let k : Kept := { o.kept false pc words with data := v, pd := true }
          (s.issueStore { a with page := p, target := tgt, elem := e, lines := accLines tgt e o.ea, ty := ty, kept := k } v, .done (.val 0))

/-- The type of an atomic: 12 "Atomics", by its primary opcode number. -/
def atomTy (p c : Nat) : Nat × Bool :=
  let flt := p = 0x090 || p = 0x091
  if p = 0x092 then (17, false)
  else if c = 31 then (if flt then 1 else 12, false)
  else if flt then (if c ≤ 3 then (c, false) else (1, true))
  else if c = 12 || c = 13 || c = 16 || c = 17 then (c, false) else (12, true)

/-- Whether a page takes an atomic of a type (12 R234, R237). -/
def atomPageOk (pg : Page) (ty : Nat) : Bool :=
  isRaw pg ||
  (!isPacked pg && (pg.fmt = ty || (isInt ty && isInt pg.fmt && fmtWidth pg.fmt = fmtWidth ty)))

/-- The element of an atomic or a `red` on a page that takes it: aligned, `w` bits wide. -/
def State.placeWide (s : State) (t : Target) (p : Page) (va w access : Nat) : Except AccFault Elem × State :=
  if t.far then (.ok { pa := va, bit := 8 * va, width := w }, s)
  else if va % (w / 8) ≠ 0 then (.error ⟨kMisaligned, access, va⟩, s)
  else match s.place p va va 0 w (!p.map) true access with
    | (.ok e, s) => (.ok { e with width := w }, s)
    | r => r

/-- `atom` and `amaxi` in one lane (12 R234 to R237). A launch with DET holds it (07 R135).
Log 30 (DEDUCED, unsafe). -/
def State.laneAtom (s : State) (tid p : Nat) (m : Option ModW) (nw : Bool) (vd : Nat) (o : MemOps) (pc : Va)
    (words : W64) : State × MemEnd :=
  let asid := s.asidOf tid
  match s.reachOf asid o.ea o.base false true with
  | (.error f, s) => (s, .fault { f with access := 2 } o.b false)
  | (.ok (tgt, pg), s) =>
    let (ty, _) := atomTy p (tyCode m)
    if !atomPageOk pg ty then (s, .fault ⟨kFormatAccess, 2, if isPacked pg then o.base else o.ea⟩ o.b false)
    else match s.placeWide tgt pg o.ea (fmtWidth ty) 2 with
      | (.error f, s) => (s, .fault f o.b false)
      | (.ok e, s) =>
        let ord := atomOrd m nw (p = 0x088) (p = 0x08F)
        let a := s.accOf (.thread tid) tid .atomic ord pc words asid o.ea (s.thread tid).rm
        let use := if (tgt = .host) && (a.use = .unp || a.use = .com || a.use = .qnt) then Use.nor else a.use
        let wide := fmtWidth ty = 64
        let det := s.isDet (tkOf tid)
        let a := { a with use := use, page := pg, target := tgt, elem := e, lines := accLines tgt e o.ea, ty := ty, tyc := ty, op := p,
                          data := o.b, cmp := o.c, dst := if nw then none else some vd, wide := wide, latch := true,
                          stage := .issued, held := det, kept := o.kept (p = 0x08F) pc words }
        let s := s.voidIdem a.team
        let (g, s) := s.addOrdered a
        let s := if nw then s else s.modThread tid (fun t => { t with pend := pendRegs t.pend vd wide g })
        (s, .done (if nw && (ord.2.1 = .unp || ord.2.1 = .com) then .val 0 else .pend g))

/-- The type of a `red`. -/
def redTy (p c : Nat) : Nat × Bool :=
  if p = 0x095 then (1, c ≠ 31 && c ≠ 1)
  else if c = 31 then (12, false) else if isInt c || c ≤ 1 then (c, false) else (12, true)

/-- `red` in one lane (12 R238). Log 30 (DEDUCED, unsafe). -/
def State.laneRed (s : State) (tid p : Nat) (m : Option ModW) (o : MemOps) (pc : Va) (words : W64) : State × MemEnd :=
  let asid := s.asidOf tid
  match s.reachOf asid o.ea o.base false true with
  | (.error f, s) => (s, .fault { f with access := 3 } o.b false)
  | (.ok (tgt, pg), s) =>
    let (ty, _) := redTy p (tyCode m)
    let ok := tgt ≠ .host && (isRaw pg || (!isPacked pg && pg.fmt = ty)) && (pg.cc = 0 || pg.cc = 1)
    if !ok then (s, .fault ⟨kFormatAccess, 3, if isPacked pg then o.base else o.ea⟩ o.b false)
    else match s.placeWide tgt pg o.ea (if p = 0x095 then 64 else fmtWidth ty) 3 with
      | (.error f, s) => (s, .fault f o.b false)
      | (.ok e, s) =>
        let a := s.accOf (.thread tid) tid .red (redOrd m) pc words asid o.ea 0
        let s := s.voidIdem a.team
        let (_, s) := s.addOrdered { a with page := pg, target := tgt, elem := e, lines := accLines tgt e o.ea, ty := ty, tyc := ty,
                                            op := p - 0x093, data := o.b, stage := .issued, kept := o.kept false pc words }
        (s, .done (.val 0))

/-! ### The uniform stream -/

/-- How one uniform access ended. -/
inductive UniEnd where
  | done
  | fault (f : AccFault)
  deriving DecidableEq, Repr

/-- The type of an `sld` or `sst`: one that is no integer type runs as `.i64` (08 R155). Log 121 (DEDUCED, unsafe). -/
def sTy (c : Nat) : Nat := if c = 31 then 13 else if isInt c then c else 13

/-- `sld` of a fragment (08 R155, R156). Log 38 (DEDUCED, unsafe). -/
def State.fragLoad (s : State) (fr : List Nat) (m : Option ModW) (sd : Nat) (a : W64) (d : Int) (pc : Va)
    (words : W64) : State × UniEnd :=
  let tid := fr.headD 0
  let wk := wkOf tid
  let asid := s.asidOf tid
  let o : MemOps := { a := a.toNat, d := d }
  match s.reachOf asid o.ea o.base false false with
  | (.error f, s) => (s, .fault { f with access := 5 })
  | (.ok (tgt, p), s) =>
    let (ty, ill) := accessTy p false false (sTy (tyCode m))
    if o.ea % (fmtWidth ty / 8) ≠ 0 then (s, .fault ⟨kMisaligned, 5, o.ea⟩)
    else match s.place p o.ea o.base o.extra (fmtWidth ty) false false 5 with
      | (.error f, s) => (s, .fault f)
      | (.ok e, s) =>
        let s := if ill then s.flagThread tid fILLMOD else s
        let x := s.accOf (.uni wk) tid .load (loadOrd m) pc words asid o.ea (s.thread tid).rm
        let (g, s) := s.addOrdered { x with page := p, target := tgt, elem := e, lines := accLines tgt e o.ea, ty := ty, tyc := ty,
                                            dst := some sd, wide := true, stage := .issued, tids := fr,
                                            kept := { pc := pc, words := words, a := a } }
        (s.modWave wk (fun w => { w with pend := tset w.pend sd g }), .done)

/-- `sst` of a fragment (08 R155, R156). -/
def State.fragStore (s : State) (fr : List Nat) (m : Option ModW) (data a : W64) (d : Int) (pc : Va) (words : W64) :
    State × UniEnd :=
  let tid := fr.headD 0
  let asid := s.asidOf tid
  let o : MemOps := { a := a.toNat, d := d }
  match s.reachOf asid o.ea o.base false true with
  | (.error f, s) => (s, .fault { f with access := 5 })
  | (.ok (tgt, p), s) =>
    let (ty, ill) := accessTy p false true (sTy (tyCode m))
    if o.ea % (fmtWidth ty / 8) ≠ 0 then (s, .fault ⟨kMisaligned, 5, o.ea⟩)
    else match s.place p o.ea o.base o.extra (fmtWidth ty) false true 5 with
      | (.error f, s) => (s, .fault f)
      | (.ok e, s) =>
        let s := if ill then s.flagThread tid fILLMOD else s
        let x := s.accOf (.uni (wkOf tid)) tid .store (storeOrd m) pc words asid o.ea (s.thread tid).rm
        (s.issueStore { x with page := p, target := tgt, elem := e, lines := accLines tgt e o.ea, ty := ty, tyc := ty, tids := fr,
                               kept := { pc := pc, words := words, a := a, b := data } } data, .done)

end Sys2Proof.Machine
end

