-- ==== Sys2Proof/Machine/MemInstr.lean ====
section
/-! DEFINITION. Memory instructions: `ld`, `st`, `ldraw`, `ldsp`, `stsp`, `pref`, the atomics, `red`, `sld`, `sst`
(12 R228 to R239, 08 R155, R156). -/

namespace Sys2Proof.Machine

/-- A lane that a memory instruction parks (12 R227). -/
structure LanePark where
  tid : Nat
  fault : AccFault
  kept : Kept
  opb : W64
  deriving DecidableEq, Repr

/-- The parking of one lane with its record. -/
def State.parkLane (s : State) (x : LanePark) : State :=
  let k := x.kept
  s.parkRecords [x.tid] x.fault.kind x.fault.access (s.asidOf x.tid) x.fault.va k.pc k.words k.a x.opb (lo32 k.x)
    { kind := x.fault.kind, set := .lane, grp := 0, trap := false, val := 0, rpc := k.pc, pc := k.pc, words := k.words,
      access := x.fault.access } (some k)

/-- The lanes of a memory instruction so far: latch row, traps, and lanes parked. -/
structure MemRun where
  row : Tbl LatchVal := []
  traps : List LaneTrap := []
  parks : List LanePark := []
  /-- Threads that wait for a held atomic (07 R135). -/
  holds : List (Nat × Nat) := []
  deriving DecidableEq, Repr

/-- What an access ended as, entered in the run: `kept` is its replay record. -/
def MemRun.add (r : MemRun) (tid : Nat) (h : Sheaf) (words : W64) (kept : Kept) (held : Bool) : MemEnd → MemRun
  | .done row =>
    { r with row := r.row ++ [(tid, row)],
             holds := match row with | .pend g => if held then r.holds ++ [(tid, g)] else r.holds | _ => r.holds }
  | .trap c v => { r with row := r.row ++ [(tid, .val 0)], traps := r.traps ++ [⟨tid, c, v, h.pc, words, afterPc h.pc words⟩] }
  | .fault f opb _ => { r with row := r.row ++ [(tid, .val 0)], parks := r.parks ++ [⟨tid, f, kept, opb⟩] }

/-- Insertion of a parked lane in ascending lane order, waves in order within a lane (21 R385). -/
def insPark (x : LanePark) : List LanePark → List LanePark
  | [] => [x]
  | y :: r => if laneOf x.tid < laneOf y.tid || (laneOf x.tid = laneOf y.tid && wkOf x.tid < wkOf y.tid) then x :: y :: r else y :: insPark x r

/-- The issuing sheaf after a memory instruction: its run ends, and a park ends the sheaf (01 R8, R22). -/
def State.afterMem (s : State) (h : Sheaf) (words : W64) (shift : Bool) (r : MemRun) : State :=
  let next := afterPc h.pc words
  let h' := { h with pc := next, trapped := h.trapped ++ r.traps, latch := if shift then shiftLatch h.latch r.row else h.latch }
  if r.parks.isEmpty then
    r.holds.foldl (fun s x => s.addWait { wk := wkOf x.1, tids := [x.1], pc := h.pc, next := next, what := .held x.2 })
      (s.closeRun { h' with tids := h'.tids.filter (fun t => !r.holds.any (fun x => x.1 = t)) })
  else
    s.splitSheaf h' (r.parks.map (·.tid) ++ r.holds.map (·.1)) (fun _ => next) (fun s =>
      let s := (r.parks.foldl (fun l x => insPark x l) []).foldl State.parkLane s
      r.holds.foldl (fun s x =>
        s.addWait { wk := wkOf x.1, tids := [x.1], pc := h.pc, next := next, what := .held x.2 }) s)

/-- A lane memory instruction: the operands of each active lane are read, then its access is made. `read` reads the
operands, `acc` makes the access. -/
def State.memOp (s : State) (p : Nat) (m : Option ModW) (f : Fields) (ill shift held : Bool)
    (read : Lane → MemOps × Lane) (acc : State → Lane → MemOps → Va → W64 → State × MemEnd) :
    Host.Outcome State Fault Refusal :=
  match s.front with
  | none => .fault .noSheaf
  | some h =>
    let words := wordsOf p m f
    let one (x : State × MemRun) (tid : Nat) : State × MemRun :=
      let (s, r) := x
      let l := s.lane h tid ill
      let (o, l) := read l
      match l.trap with
      | some (c, v) => (s.modThread tid (fun _ => l.final), r.add tid h words {} false (.trap c v))
      | none =>
        let s := s.modThread tid (fun _ => l.t)
        let (s, e) := acc s l o h.pc words
        let s := match e with | .trap _ _ => s.modThread tid (fun _ => l.base) | _ => s
        let kept : Kept := o.kept (p = 0x08F) h.pc words
        (s, r.add tid h words (match e with
          | .fault _ opb rd => if p = 0x081 then { kept with data := opb, pd := rd } else kept
          | _ => kept) (held && s.isDet h.team) e)
    let (s, r) := h.active.foldl one (s, {})
    .next (s.afterMem h words shift r)

/-- The index register of a layout-1 modifier word (05 R101). -/
def Lane.rdX (l : Lane) (m : Option ModW) : Nat × Lane :=
  match m with
  | some w => if w.l1 then let (x, l) := l.rd w.x w.xlu 12 32; (x.toNat, l) else (0, l)
  | none => (0, l)

/-- Base, index and displacement of a MEM word. -/
def readMem (m : Option ModW) (f : Sys2Proof.Mem) (l : Lane) : MemOps × Lane :=
  let (a, l) := l.rd f.a f.alu 13 64
  let (x, l) := l.rdX m
  ({ a := a.toNat, x := x, d := dispOf f.d }, l)

/-- LD (R228, R229). Log 36 (DEDUCED, unsafe). -/
def execLd (m : Option ModW) (f : Sys2Proof.Mem) (s : State) : Host.Outcome State Fault Refusal :=
  s.memOp 0x080 m (.mem f) (loadOrd m).2.2.2 true false (readMem m f)
    (fun s l o pc w => s.laneLoad l.tid false m f.nw f.vd.toNat o pc w)

/-- LDRAW (R230). Log 36 (DEDUCED, unsafe). -/
def execLdraw (m : Option ModW) (f : Sys2Proof.Mem) (s : State) : Host.Outcome State Fault Refusal :=
  s.memOp 0x084 m (.mem f) (loadOrd m).2.2.2 true false (readMem m f)
    (fun s l o pc w => s.laneLoad l.tid true m f.nw f.vd.toNat o pc w)

/-- The data register of a store read in a lane, as it stands. -/
def State.readData (s : State) (l : Lane) (vd : BitVec 6) (lu : Bool) (w : Nat) : State × Except (Nat × W64) W64 :=
  let (v, l') := ({ l with t := s.thread l.tid } : Lane).rdVd vd lu w
  match l'.trap with
  | some t => (s, .error t)
  | none => (s.modThread l.tid (fun _ => l'.t), .ok v)

/-- ST (R228): a data register whose width the page decides is read after translation (R227). -/
def execSt (m : Option ModW) (f : Sys2Proof.Mem) (s : State) : Host.Outcome State Fault Refusal :=
  s.memOp 0x081 m (.mem f) (storeOrd m).2.2.2 false false (readMem m f)
    (fun s l o pc w => s.laneStore l.tid m f.vd.toNat o pc w (fun s wd => s.readData l f.vd f.nw wd)
      (fun s => regValue (s.thread l.tid) (f.vd.toNat + 1)))

/-- PREF (R232): the operands are read; there is no other effect. -/
def execPref (m : Option ModW) (f : Sys2Proof.Mem) (s : State) : Host.Outcome State Fault Refusal :=
  s.memOp 0x085 m (.mem f) false false false (readMem m f) (fun s _ _ _ _ => (s, .done (.val 0)))

/-! ### Scratchpad -/

/-- The scratchpad bytes that a team's lanes reach: the core's, or the team's own while they are spilled. -/
def State.spByte (s : State) (tk a : Nat) : W8 :=
  let c := s.core (s.coreOf tk)
  if c.bankTeam = some tk then memGet c.sp a
  else match tget s.teams tk with | some t => memGet t.spData a | none => 0

/-- Scratchpad bytes written, and their words no longer poisoned when `clean` covers them. -/
def State.spWrite (s : State) (tk : Nat) (cells : List Host.Cell) : State :=
  let cov (w : Nat) : Bool := (upto 8).all (fun i => (cellGet cells (8 * w + i)).isSome)
  let c := s.coreOf tk
  if (s.core c).bankTeam = some tk then
    s.modCore c (fun co => { co with sp := memSetAll co.sp cells, spPoison := co.spPoison.filter (fun w => !cov w) })
  else
    s.modTeam tk (fun t => { t with spData := memSetAll t.spData cells, spPoison := t.spPoison.filter (fun w => !cov w) })

/-- The 64-bit bank words (offset / 8) of a team's scratchpad that are poisoned (20 R382). -/
def State.spPoisoned (s : State) (tk : Nat) : List Nat :=
  let c := s.core (s.coreOf tk)
  if c.bankTeam = some tk then c.spPoison
  else match tget s.teams tk with | some t => t.spPoison | none => []

/-- Fields of a station descriptor (14 Table 14-3). -/
def stV (d : W64) : Bool := d.getLsbD 0
/-- ORI. -/
def stOri (d : W64) : Bool := d.getLsbD 1
/-- BSY. -/
def stBsy (d : W64) : Bool := d.getLsbD 2
/-- BB. -/
def stBB (d : W64) : Nat := bits d.toNat 13 8
/-- FMT. -/
def stFmt (d : W64) : Nat := bits d.toNat 20 16
/-- BLK. -/
def stBlk (d : W64) : Nat := bits d.toNat 22 21
/-- R. -/
def stR (d : W64) : Nat := bits d.toNat 41 32 + 1
/-- C. -/
def stC (d : W64) : Nat := bits d.toNat 51 42 + 1
/-- NB. -/
def stNB (d : W64) : Nat := bits d.toNat 57 52 + 1

/-- The valid station of a team that holds a bank. -/
def State.stationOf (s : State) (tk bank : Nat) : Option W64 :=
  match tget s.teams tk with
  | some t => t.stations.find? (fun d => stV d && stBB d ≤ bank && bank < stBB d + stNB d)
  | none => none

/-- Banks of a team's partition. -/
def State.spbOf (s : State) (tk : Nat) : Nat := match tget s.teams tk with | some t => t.spb | none => 0

/-- The type of a scratchpad access and whether it fell back (12 R231). -/
def spTy (c : Nat) : Nat × Bool := if c = 31 then (12, false) else if c ≤ 3 || isInt c then (c, false) else (12, true)

/-- The checks of a scratchpad access at an offset (01 R30, 12 R231). -/
def State.spCheck (s : State) (tk off w : Nat) (st : Bool) : Option (Nat × W64) :=
  if off % w ≠ 0 then some (tSpAlign, BitVec.ofNat 64 off)
  else if 2 ^ 20 ≤ off || s.spbOf tk ≤ off / 0x4000 then some (tSpRange, BitVec.ofNat 64 off)
  else if st && (s.stationOf tk (off / 0x4000)).isSome then some (tSpStation, BitVec.ofNat 64 off) else none

/-- The offset (12 R231). -/
def MemOps.offset (o : MemOps) : Nat := ((o.a : Int) + o.d).emod (2 ^ 32 : Nat) |>.toNat

/-- An acquiring scratchpad access orders the thread's later accesses after the die clock (12 R231).
Log 40 (DEDUCED, unsafe). -/
def State.spAcquire (s : State) (tid : Nat) (ord : Ord) : State :=
  if ord = .acq || ord = .sc then s.raiseFloor [.thread tid] (s.die (s.dieOfTeam (tkOf tid))).clock else s

/-- Operands of a scratchpad word. -/
def readSp (f : Sys2Proof.Mem) (l : Lane) : MemOps × Lane :=
  let (a, l) := l.rd f.a f.alu 12 32
  ({ a := a.toNat, d := dispOf f.d }, l)

/-- LDSP (R231). A poisoned bank word poisons the registers (20 R380). -/
def execLdsp (m : Option ModW) (f : Sys2Proof.Mem) (s : State) : Host.Outcome State Fault Refusal :=
  let (ty, ill) := spTy (tyCode m)
  let ord := loadOrd m
  let n := fmtWidth ty / 8
  s.memOp 0x082 m (.mem f) (ill || ord.2.2.2) true false (readSp f) (fun s l o _ _ =>
    let tk := tkOf l.tid
    let off := o.offset
    match s.spCheck tk off n false with
    | some (c, v) => (s, .trap c v)
    | none =>
      let v := BitVec.ofNat 64 (regExt ty (readNat (s.spByte tk) off n))
      let bad := (s.spPoisoned tk).any (fun w => 8 * w < off + n && off < 8 * w + 8)
      let wide := fmtWidth ty = 64
      let put (t : Thread) : Thread :=
        let t := if wide then t.setPair f.vd.toNat v else t.setReg f.vd.toNat (lo32 v)
        let bit (k : Nat) : W64 := BitVec.ofNat 64 (2 ^ k)
        if bad then { t with poison := t.poison ||| bit f.vd.toNat ||| (if wide then bit (f.vd.toNat + 1) else 0) } else t
      let s := if f.nw then s else s.modThread l.tid put
      (s.spAcquire l.tid ord.1, .done (.val v)))

/-- STSP (R231): it performs at issue. -/
def execStsp (m : Option ModW) (f : Sys2Proof.Mem) (s : State) : Host.Outcome State Fault Refusal :=
  let (ty, ill) := spTy (tyCode m)
  let ord := storeOrd m
  let n := fmtWidth ty / 8
  s.memOp 0x083 m (.mem f) (ill || ord.2.2.2) false false
    (fun l =>
      let (o, l) := readSp f l
      let (v, l) := l.rdVd f.vd f.nw (if fmtWidth ty = 64 then 64 else 32)
      ({ o with b := v }, l))
    (fun s l o _ _ =>
      let tk := tkOf l.tid
      let off := o.offset
      match s.spCheck tk off n true with
      | some (c, v) => (s, .trap c v)
      | none => ((s.spWrite tk (cellsAt off (natBytes o.b.toNat n))).spAcquire l.tid ord.1, .done (.val 0)))

/-! ### Atomics -/

/-- Operands of an atomic or a `red` of a type, which names the data's constants (05 R98): base, data, and the index or, for `cas`, the new value (05 R102). -/
def readAtom (m : Option ModW) (f : Alu) (ty w : Nat) (cas : Bool) (l : Lane) : MemOps × Lane :=
  let (a, l) := l.rd f.a f.alu 13 64
  let (b, l) := l.rd f.b f.blu ty w
  if cas then
    match m with
    | some mw => let (c, l) := l.rd mw.x mw.xlu ty w; ({ a := a.toNat, b := b, c := c }, l)
    | none => ({ a := a.toNat, b := b }, l)
  else
    let (x, l) := l.rdX m
    ({ a := a.toNat, x := x, b := b }, l)

/-- An atomic (12 R234 to R237). -/
def atomOp (p : Nat) (m : Option ModW) (f : Alu) (s : State) : Host.Outcome State Fault Refusal :=
  let (ty, ill) := atomTy p (tyCode m)
  let ord := atomOrd m f.nw (p = 0x088) (p = 0x08F)
  s.memOp p m (.alu f) (ill || ord.2.2.2) true true
    (readAtom m f (if p = 0x092 then 13 else ty) (if fmtWidth ty = 64 then 64 else 32) (p = 0x08F))
    (fun s l o pc w => s.laneAtom l.tid p m f.nw f.vd.toNat o pc w)

/-- ATOM_ADD (R234). -/
def execAtomAdd (m : Option ModW) (f : Alu) (s : State) := atomOp 0x088 m f s
/-- ATOM_MIN (R234). -/
def execAtomMin (m : Option ModW) (f : Alu) (s : State) := atomOp 0x089 m f s
/-- ATOM_MAX (R234). -/
def execAtomMax (m : Option ModW) (f : Alu) (s : State) := atomOp 0x08A m f s
/-- ATOM_AND (R234). -/
def execAtomAnd (m : Option ModW) (f : Alu) (s : State) := atomOp 0x08B m f s
/-- ATOM_OR (R234). -/
def execAtomOr (m : Option ModW) (f : Alu) (s : State) := atomOp 0x08C m f s
/-- ATOM_XOR (R234). -/
def execAtomXor (m : Option ModW) (f : Alu) (s : State) := atomOp 0x08D m f s
/-- ATOM_XCHG (R234). -/
def execAtomXchg (m : Option ModW) (f : Alu) (s : State) := atomOp 0x08E m f s
/-- ATOM_CAS (R234). -/
def execAtomCas (m : Option ModW) (f : Alu) (s : State) := atomOp 0x08F m f s
/-- ATOM_FADD (R235). -/
def execAtomFadd (m : Option ModW) (f : Alu) (s : State) := atomOp 0x090 m f s
/-- ATOM_FMAX (R234). -/
def execAtomFmax (m : Option ModW) (f : Alu) (s : State) := atomOp 0x091 m f s
/-- AMAXI (R237). -/
def execAmaxi (m : Option ModW) (f : Alu) (s : State) := atomOp 0x092 m f s

/-- A `red` (12 R238). -/
def redOp (p : Nat) (m : Option ModW) (f : Alu) (s : State) : Host.Outcome State Fault Refusal :=
  let (ty, ill) := redTy p (tyCode m)
  s.memOp p m (.alu f) (ill || (redOrd m).2.2.2) false false
    (readAtom m f (if p = 0x095 then 13 else ty) (if p = 0x095 || fmtWidth ty = 64 then 64 else 32) false)
    (fun s l o pc w => s.laneRed l.tid p m o pc w)

/-- RED_ADD (R238). -/
def execRedAdd (m : Option ModW) (f : Alu) (s : State) := redOp 0x093 m f s
/-- RED_MAX (R238). -/
def execRedMax (m : Option ModW) (f : Alu) (s : State) := redOp 0x094 m f s
/-- RED_ESUM (R238). -/
def execRedEsum (m : Option ModW) (f : Alu) (s : State) := redOp 0x095 m f s

/-! ### Uniform accesses -/

/-- A fragment parked at one PC with its record, and what a replay needs kept with the wave (20 R367). -/
def State.parkFrag (s : State) (fr : List Nat) (f : AccFault) (k : Kept) (opb : W64) : State :=
  let s := s.modWave (wkOf (fr.headD 0)) (fun w => { w with frag := some k })
  s.parkRecords fr f.kind f.access (s.asidOf (fr.headD 0)) f.va k.pc k.words k.a opb 0
    { kind := f.kind, set := .fragment, grp := 0, trap := false, val := 0, rpc := k.pc, pc := k.pc, words := k.words,
      access := f.access } (some k)

/-- A uniform access: its fragment goes on, or parks. Log 38 (DEDUCED, unsafe). -/
def uniAccess (p : Nat) (m : Option ModW) (f : SMem) (ill : Bool) (data : Bool)
    (acc : State → List Nat → W64 → W64 → Va → W64 → State × UniEnd) (s : State) :
    Host.Outcome State Fault Refusal :=
  s.uniOp p m (.sMem f) ill .run (fun h words fr s =>
    let a := s.sreg fr f.sa.toNat
    let b := if data then s.sreg fr f.sd.toNat else 0
    match acc s fr a b h.pc words with
    | (s, .done) => (s, some (afterPc h.pc words))
    | (s, .fault x) => (s.parkFrag fr x { pc := h.pc, words := words, a := a, b := b } b, none))

/-- SLD (R155). -/
def execSld (m : Option ModW) (f : SMem) (s : State) : Host.Outcome State Fault Refusal :=
  uniAccess 0x10E m f ((loadOrd m).2.2.2 || illTy m isInt) false
    (fun s fr a _ pc w => s.fragLoad fr m f.sd.toNat a f.d.toInt pc w) s

/-- SST (R155). -/
def execSst (m : Option ModW) (f : SMem) (s : State) : Host.Outcome State Fault Refusal :=
  uniAccess 0x10F m f ((storeOrd m).2.2.2 || illTy m isInt) true
    (fun s fr a b pc w => s.fragStore fr m b a f.d.toInt pc w) s

end Sys2Proof.Machine
end

