-- ==== Sys2Proof/Machine/Stook.lean ====
section
/-! DEFINITION. Stook values, rings and the `stk` instructions (10). A set of cells is a number whose bit `c` says
that cell `c` belongs to it. -/

namespace Sys2Proof.Machine

/-- Cells of a ring: twice its points (10 R185). -/
def skCells (ty : Nat) : Nat := if ty = 20 then 32 else if ty = 21 then 64 else 16
/-- Bytes of a table entry (10 R192). -/
def skEntry (ty : Nat) : Nat := if ty = 20 then 4 else 2
/-- Bytes of a ring image (10 R192). -/
def skImage (ty : Nat) : Nat := 0x400 + 4 * (skCells ty * skCells ty * skEntry ty)

/-- The arc of `n` cells from `first` on, on a ring of `cells` cells. -/
def arcMask (cells first n : Nat) : Nat :=
  (upto n).foldl (fun a i => let c := (first + i) % cells; if bitAt a c then a else a + 2 ^ c) 0

/-- The set that an encoding stands for (10 R187, R188). -/
def skSet (ty x : Nat) : Nat :=
  if ty = 20 then x % 2 ^ 32
  else if ty = 21 then
    let f := bits x 15 12
    if f = 0 then arcMask 64 (bits x 5 0) (bits x 11 6 + 1)
    else if f = 1 then 0 else 2 ^ 64 - 1
  else x % 2 ^ 16

/-- The cells of a set, in order. -/
def skList (n set : Nat) : List Nat := (upto n).filter (fun c => bitAt set c)

/-- Length of the run of absent cells that starts at a cell. -/
def gapLen (n set c : Nat) : Nat := ((upto n).takeWhile (fun i => !bitAt set ((c + i) % n))).length

/-- The hull as its first cell and its length; none for the empty set and the whole ring (10 R189). -/
def hullArc (n set : Nat) : Option (Nat × Nat) :=
  if set = 0 || set = 2 ^ n - 1 then none
  else
    let starts := (upto n).filter (fun c => !bitAt set c && bitAt set ((c + n - 1) % n))
    let best := starts.foldl (fun (b : Nat × Nat) c => let l := gapLen n set c; if b.2 < l then (c, l) else b) (0, 0)
    some ((best.1 + best.2) % n, n - best.2)

/-- The hull of a set (10 R189). -/
def hullSet (n set : Nat) : Nat :=
  match hullArc n set with
  | some (f, l) => arcMask n f l
  | none => set

/-- The encoding of a set: for `.skc`, the canonical code of its hull (10 R188, R195). -/
def skEnc (ty set : Nat) : Nat :=
  if ty = 21 then
    match hullArc 64 set with
    | some (f, l) => f + 64 * (l - 1)
    | none => if set = 0 then 0x1000 else 0x2000
  else set

/-- The inline constants of stook operands (10 Table 10-3). -/
def skConst (ty code : Nat) : Nat := if code = 104 then skEnc ty 0 else skEnc ty (2 ^ skCells ty - 1)

/-- A stook operand's set. -/
def Lane.rdSk (l : Lane) (a : BitVec 7) (lu : Bool) (ty : Nat) : Nat × Lane :=
  if 104 ≤ a.toNat then (skSet ty (skConst ty a.toNat), l)
  else
    let (x, l) := l.rd a lu 12 32
    (skSet ty x.toNat, l)

/-- The image bound to a type in a team (10 R191). -/
def State.ringOf (s : State) (tk ty : Nat) : Option (List W8) :=
  match tget s.teams tk with
  | some t => (t.rings.find? (fun r => r.bound = ty)).map (·.image)
  | none => none

/-- `n` bytes of an image as a number. -/
def imgNat (img : List W8) (off n : Nat) : Nat := bytesNat ((img.drop off).take n)

/-- The set in a table of an image. -/
def imgSet (img : List W8) (ty table i : Nat) : Nat := skSet ty (imgNat img (table + i * skEntry ty) (skEntry ty))

/-- The union of a binary table's entries over two sets (10 R196): `op` 0 add, 1 sub, 2 mul, 3 div. -/
def skBin (img : List W8) (ty op x y : Nat) : Nat :=
  let n := skCells ty
  let table := 0x400 + op * (n * n * skEntry ty)
  (skList n x).foldl (fun u i => (skList n y).foldl (fun u j => Nat.lor u (imgSet img ty table (i * n + j))) u) 0

/-- The union of a unary table's entries over a set (10 R197): `op` 0 neg, 1 rcp, 2 sq. -/
def skUn (img : List W8) (ty op x : Nat) : Nat :=
  (skList (skCells ty) x).foldl (fun u i => Nat.lor u (imgSet img ty (0x100 + 0x80 * op) i)) 0

/-- The points of an image, -0 read as +0 (10 R193). -/
def imgPoints (img : List W8) (ty : Nat) : List Nat :=
  (upto (skCells ty / 2)).map (fun i => let p := imgNat img (0x20 + 4 * i) 4; if p = 0x80000000 then 0 else p)

/-- Whether an image is valid for a type (10 R193). -/
def imgValid (img : List W8) (ty : Nat) : Bool :=
  let m := skCells ty / 2
  let p := imgPoints img ty
  let v (i : Nat) : Val := decodeVal 1 (p.getD i 0)
  imgNat img 0 1 = ty && imgNat img 1 1 = m && (upto (m - 1)).all (fun i => (v i).isFin) &&
  (upto (m - 2)).all (fun i => cmpVal (v i) (v (i + 1)) == .lt) && p.getD (m - 1) 0 = 0x7F800000

/-- The cell of a finite value, or of the point ∞ (10 R185). -/
def cellOf (p : List Nat) (x : Val) : Nat :=
  let m := p.length
  match x with
  | .fin _ _ _ =>
    let below := ((p.take (m - 1)).filter (fun q => cmpVal (decodeVal 1 q) x == .lt)).length
    if below < m - 1 && cmpVal (decodeVal 1 (p.getD below 0)) x == .eq then 2 * below
    else if below = 0 then 2 * m - 1 else 2 * below - 1
  | _ => 2 * m - 2

/-- Whether a value is one of the infinities. -/
def Val.isInf : Val → Bool
  | .inf _ => true
  | _ => false

/-- The set of `stk.from` (10 Table 10-5). -/
def skFrom (p : List Nat) (a b : Val) : Nat :=
  let n := 2 * p.length
  let whole := 2 ^ n - 1
  if a.isNan || b.isNan then whole
  else if a.isInf && a.neg && b.isInf && !b.neg then whole
  else
    let i := cellOf p a
    let j := cellOf p b
    let same := (a.isInf && b.isInf) || (!a.isInf && !b.isInf && cmpVal a b == .eq)
    if same then 2 ^ i
    else if i = j then (if cmpVal a b == .lt then 2 ^ i else whole)
    else arcMask n i ((j + n - i) % n + 1)

/-- The bounds of `stk.to`, the low one in the low word (10 R200, Table 10-6). Log 113 (DEDUCED, unsafe). -/
def skTo (p : List Nat) (set : Nat) : W64 :=
  let m := p.length
  let n := 2 * m
  let pt (i : Nat) : Nat := if i = m - 1 then f32PosInf else p.getD i 0
  let lower (c : Nat) : Nat := if c = n - 1 then f32NegInf else pt (c / 2)
  let upper (c : Nat) : Nat := if c = n - 1 then pt 0 else if c % 2 = 0 then pt (c / 2) else pt (c / 2 + 1)
  match hullArc n set with
  | some (f, l) => pair64 (BitVec.ofNat 32 (lower f)) (BitVec.ofNat 32 (upper ((f + l - 1) % n)))
  | none =>
    if set = 0 then pair64 (BitVec.ofNat 32 (defaultNan 1)) (BitVec.ofNat 32 (defaultNan 1))
    else pair64 (BitVec.ofNat 32 f32NegInf) (BitVec.ofNat 32 f32PosInf)

/-- A stook instruction in each lane: `ring` says that it needs a bound context (10 R195); the body answers the
result for the image. -/
def stkOp (p : Nat) (m : Option ModW) (f : Alu) (ring : Bool) (w : Nat)
    (body : Nat → List W8 → Lane → Nat × Lane) (s : State) : Host.Outcome State Fault Refusal :=
  let ty := stkTy (tyCode m)
  match s.front with
  | none => .fault .noSheaf
  | some h =>
    let img := s.ringOf h.team ty
    s.laneOp p m (.alu f) (illTy m (fun c => 19 ≤ c && c ≤ 21)) true (fun l =>
      let (v, l) := body ty (img.getD []) l
      let l := if ring && img.isNone then l.raise tRingUnbound 0 else l
      l.wrNat f.vd f.nw w v)

/-- A binary table instruction (10 R196). -/
def stkBin (p op : Nat) (m : Option ModW) (f : Alu) (s : State) : Host.Outcome State Fault Refusal :=
  stkOp p m f true 32 (fun ty img l =>
    let (x, l) := l.rdSk f.a f.alu ty
    let (y, l) := l.rdSk f.b f.blu ty
    (skEnc ty (skBin img ty op x y), l)) s

/-- A unary table instruction (10 R197). -/
def stkUn (p op : Nat) (m : Option ModW) (f : Alu) (s : State) : Host.Outcome State Fault Refusal :=
  stkOp p m f true 32 (fun ty img l =>
    let (x, l) := l.rdSk f.a f.alu ty
    (skEnc ty (skUn img ty op x), l)) s

/-- A set operation (10 R198). -/
def stkLogic (p : Nat) (m : Option ModW) (f : Alu) (op : Nat → Nat → Nat) (s : State) :
    Host.Outcome State Fault Refusal :=
  stkOp p m f false 32 (fun ty _ l =>
    let (x, l) := l.rdSk f.a f.alu ty
    let (y, l) := l.rdSk f.b f.blu ty
    (skEnc ty (op x y), l)) s

/-- STK_ADD (R196). -/
def execStkAdd (m : Option ModW) (f : Alu) (s : State) := stkBin 0x0E0 0 m f s
/-- STK_SUB (R196). -/
def execStkSub (m : Option ModW) (f : Alu) (s : State) := stkBin 0x0E1 1 m f s
/-- STK_MUL (R196). -/
def execStkMul (m : Option ModW) (f : Alu) (s : State) := stkBin 0x0E2 2 m f s
/-- STK_DIV (R196). -/
def execStkDiv (m : Option ModW) (f : Alu) (s : State) := stkBin 0x0E3 3 m f s
/-- STK_NEG (R197). -/
def execStkNeg (m : Option ModW) (f : Alu) (s : State) := stkUn 0x0E4 0 m f s
/-- STK_RCP (R197). -/
def execStkRcp (m : Option ModW) (f : Alu) (s : State) := stkUn 0x0E5 1 m f s
/-- STK_SQ (R197). -/
def execStkSq (m : Option ModW) (f : Alu) (s : State) := stkUn 0x0E6 2 m f s
/-- STK_UNI (R198). -/
def execStkUni (m : Option ModW) (f : Alu) (s : State) := stkLogic 0x0E7 m f Nat.lor s
/-- STK_ISECT (R198). -/
def execStkIsect (m : Option ModW) (f : Alu) (s : State) := stkLogic 0x0E8 m f Nat.land s

/-- STK_HULL (R198, R189). -/
def execStkHull (m : Option ModW) (f : Alu) (s : State) : Host.Outcome State Fault Refusal :=
  stkOp 0x0E9 m f false 32 (fun ty _ l =>
    let (x, l) := l.rdSk f.a f.alu ty
    (skEnc ty (hullSet (skCells ty) x), l)) s

/-- STK_FROM (R199): its constants are floats. -/
def execStkFrom (m : Option ModW) (f : Alu) (s : State) : Host.Outcome State Fault Refusal :=
  stkOp 0x0EA m f true 32 (fun ty img l =>
    let (x, l) := l.rd f.a f.alu 1 32
    let (y, l) := l.rd f.b f.blu 1 32
    (skEnc ty (skFrom (imgPoints img ty) (decodeVal 1 x.toNat) (decodeVal 1 y.toNat)), l)) s

/-- STK_TO (R200). -/
def execStkTo (m : Option ModW) (f : Alu) (s : State) : Host.Outcome State Fault Refusal :=
  stkOp 0x0EB m f true 64 (fun ty img l =>
    let (x, l) := l.rdSk f.a f.alu ty
    ((skTo (imgPoints img ty) x).toNat, l)) s

/-! ### Loading a ring -/

/-- The page and the PA of each 256-byte block of an image in package memory, or the fault (10 R201). -/
def State.ringBlocks (s : State) (asid va n : Nat) : Except AccFault (List (Page × Nat)) × State :=
  (upto (n / 256)).foldl (fun (r, s) i =>
    match r with
    | .error f => (.error f, s)
    | .ok l =>
      let v := (va + 256 * i) % 2 ^ 57
      match s.translate asid v false false with
      | (.error k, s) => (.error ⟨k, 0, v⟩, s)
      | (.ok p, s) =>
        if p.fmt ≠ 22 || p.map then (.error ⟨kFormatInvalid, 0, v⟩, s) else (.ok (l ++ [(p, p.pa + (v - p.va))]), s))
    ((.ok [] : Except AccFault (List (Page × Nat))), s)

/-- Some lanes' ring load begins, or they park together (10 R201, R202). Log 46 (DEDUCED, unsafe). -/
def State.ringLoad (s : State) (tids : List Nat) (ty ctx va : Nat) (kept : Kept) : State × Bool :=
  let tid := tids.headD 0
  let tk := tkOf tid
  let n := skImage ty
  let tgt : Target := match s.vaTarget (s.asidOf tid) va with | .ok t => t | _ => .pkg 0
  let here : Bool := match tgt with | .pkg _ => true | _ => false
  let r := if va % 256 ≠ 0 then (.error ⟨kMisaligned, 0, va⟩, s) else if here then s.ringBlocks (s.asidOf tid) va n else (.ok [], s)
  match r with
  | (.error f, s) =>
    (s.parkRecords tids f.kind f.access (s.asidOf tid) f.va kept.pc kept.words kept.a 0 0
      { kind := f.kind, set := .fragment, grp := 0, trap := false, val := 0, rpc := kept.pc, pc := kept.pc,
        words := kept.words, access := f.access } (some kept), false)
  | (.ok bs, s) =>
    let a := s.accOf (.thread tid) tid .load (.rlx, .none, 7, false) kept.pc kept.words (s.asidOf tid) va 0
    let r : RingLoad := { team := tk, ctx := ctx, ty := ty, pa := bs.map (·.2), pages := bs.map (·.1), tids := tids, pc := kept.pc,
                          words := kept.words, die := s.dieOfTeam tk }
    if here then
      let p := match bs with | x :: _ => x.1 | [] => {}
      let (g, s) := s.addAcc { a with page := p, target := .pkg p.die, lines := dedup (bs.flatMap (fun x => linesOf x.2 256)),
                                      raw := true, stage := .issued }
      ({ s with ringLoads := s.ringLoads ++ [{ r with g := g }] }, true)
    else
      let (gs, s) := (upto (n / 64)).foldl (fun (x : List Nat × State) i =>
        let (g, s) := x.2.addBlock { a with op := 2, kept := kept } tgt (va + 64 * i) 64
        (x.1 ++ [g], s)) ([], s)
      ({ s with ringLoads := s.ringLoads ++ [{ r with far := gs }] }, true)

/-- The lowest-numbered lane of some threads: by lane, then by wave. Log 48 (DEDUCED, unsafe). -/
def lowestLane (tids : List Nat) : Nat :=
  tids.foldl (fun b t => if laneOf t < laneOf b || (laneOf t = laneOf b && t < b) then t else b) (tids.headD 0)

/-- STK_LDRING (R201, R202): every active lane reads its base; the address is that of the lowest lane that does not trap.
Log 47 (DEDUCED, unsafe). -/
def execStkLdring (m : Option ModW) (f : Sys2Proof.Mem) (s : State) : Host.Outcome State Fault Refusal :=
  let ty := stkTy (tyCode m)
  match s.front with
  | none => .fault .noSheaf
  | some h =>
    let words := wordsOf 0x0EC m (.mem f)
    let next := afterPc h.pc words
    let rd (l : Lane) : W64 × Lane := l.rd f.a f.alu 13 64
    let (s0, h0) := (s, h)
    let (h, s) := s.runLanes h words (illTy m (fun c => 19 ≤ c && c ≤ 21)) false (fun l => (rd l).2)
    if h.active.isEmpty then .next (s.closeRun { h with pc := next })
    else
      let low := lowestLane h.active
      let base := (rd (s0.lane h0 low false)).1
      let va := (((base.toNat : Int) + dispOf f.d).emod (2 ^ 57 : Nat)).toNat
      let tids := low :: h.active.filter (fun t => t ≠ low)
      let k : Kept := { pc := h.pc, words := words, a := base }
      match s.ringLoad tids ty f.vd.toNat va k with
      | (s', true) => .next (s'.closeRun { h with pc := next })
      | (s', false) => .next (s'.splitSheaf { h with pc := next } h.active (fun _ => next) (fun s => s))

end Sys2Proof.Machine
end

