-- ==== Sys2Proof/Machine/Wave.lean ====
section
/-! DEFINITION. The wave rendezvous and the cross-lane instructions, with `harrow`, `cvt.mx`, `mxsc` and `fence`
(13 R240 to R252, 09 R181 to R184, 07 R126). -/

namespace Sys2Proof.Machine

/-- Whether a halt keeps a wave from issuing (20 R374, R378). -/
def State.halted (s : State) (wk : Nat) : Bool := (s.wave wk).haltBit

/-- Whether a rendezvous executes: every live thread of the wave waits at one PC, none parked, and the wave's
uniform registers have their values (13 R242). Log 49 (DEDUCED, unsafe). -/
def State.meets (s : State) (wk : Nat) : Bool :=
  let live := s.liveOf wk
  match live with
  | [] => false
  | t :: _ =>
    live.all (fun x => (s.thread x).stat = .rendezvous && (s.thread x).pc = (s.thread t).pc) &&
    (s.wave wk).pend.isEmpty && s.teamActive (tkOfW wk)

/-- The words that a waiting wave executes. -/
def State.meetWords (s : State) (wk : Nat) : Va × W64 :=
  match (s.thread ((s.liveOf wk).headD 0)).kept with | some k => (k.pc, k.words) | none => (0, 0)

/-- Every live thread of a wave filed at one PC (13 R242). -/
def State.fileWave (s : State) (wk : Nat) (pc : Va) : State :=
  let live := s.liveOf wk
  let s := s.modThreads live (fun _ t => { t with kept := none })
  live.foldl (fun s t => s.file t pc) s

/-- A rendezvous instruction issued: each active lane reads its operands and waits, the sheaf ends, and every wave
whose rendezvous is now complete executes it by `run` (13 R241, R242), which answers none while the wave must wait
for something else. A front sheaf of no threads stands for the meeting of wave `team`, which executes now. -/
def State.crossOpt (s : State) (p : Nat) (m : Option ModW) (f : Fields) (ill : Bool) (read : Lane → Kept × Lane)
    (run : State → Nat → Option State) : Host.Outcome State Fault Refusal :=
  match s.front with
  | none => .fault .noSheaf
  | some h =>
    if h.tids.isEmpty then
      match run s.dropFront h.team with
      | some s => .next s
      | none => notEnabled "RENDEZVOUS_EXECUTE"
    else
      let words := wordsOf p m f
      let one (x : State × List LaneTrap) (tid : Nat) : State × List LaneTrap :=
        let (s, tr) := x
        let (k, l) := read (s.lane h tid ill)
        let l := if l.base.sup then { l with trap := some (tNested, 0) } else l
        match l.trap with
        | some (c, v) => (s.modThread tid (fun _ => l.final), tr ++ [⟨tid, c, v, h.pc, words, afterPc h.pc words⟩])
        | none =>
          (s.modThread tid (fun _ => { l.t with stat := .rendezvous, pc := h.pc, kept := some { k with pc := h.pc, words := words } }), tr)
      let (s, tr) := h.active.foldl one (s, [])
      let s := (s.dropFront.deliverLanes (h.trapped ++ tr)).cleanBins h.core
      let waves := dedup (h.active.map wkOf)
      .next (waves.foldl (fun s wk => if s.meets wk then (run s wk).getD s else s) s)

/-- See `crossOpt`: nothing else to wait for. -/
def State.crossOp (s : State) (p : Nat) (m : Option ModW) (f : Fields) (ill : Bool) (read : Lane → Kept × Lane)
    (run : State → Nat → State) : Host.Outcome State Fault Refusal :=
  s.crossOpt p m f ill read (fun s wk => some (run s wk))

/-- A lane of W at execution: its operands, `s` registers and constants read now (13 R241). -/
structure XLane where
  tid : Nat
  lane : Nat
  t : Thread
  a : W64
  b : W64
  pd : Bool
  deriving DecidableEq, Repr

/-- An operand at execution. Log 125 (DEDUCED, unsafe). -/
def State.xop (s : State) (wk : Nat) (kept : W64) (a : BitVec 7) (c w : Nat) : W64 :=
  let n := a.toNat
  if n < 72 then kept
  else if n < 104 then
    let v := tgetD (s.wave wk).s (n - 72) 0
    if w = 64 then v else (lo32 v).setWidth 64
  else BitVec.ofNat 64 (constant c (if w = 64 then 64 else 32) n)

/-- The lanes of W. -/
def State.xlanes (s : State) (wk : Nat) (a b : BitVec 7) (ca wa cb wb : Nat) : List XLane :=
  (s.liveOf wk).map (fun tid =>
    let t := s.thread tid
    let k := t.kept.getD {}
    { tid := tid, lane := laneOf tid, t := t, a := s.xop wk k.a a ca wa, b := s.xop wk k.b b cb wb, pd := k.pd })

/-- The rendezvous executes: program orders join, results and flags are written, and the wave is filed at the next
PC (13 R242, R244). -/
def State.crossRun (s : State) (wk : Nat) (vd : BitVec 6) (nw : Bool) (w : Nat) (res : List (Nat × Nat × W32)) : State :=
  let (pc, words) := s.meetWords wk
  let s := s.joinStreams (s.waveOwners wk)
  let s := res.foldl (fun s r => s.modThread r.1 (fun t =>
    let v := BitVec.ofNat 64 r.2.1
    let t := t.flag r.2.2
    if nw then t else if w = 64 then t.setPair vd.toNat v else t.setReg vd.toNat (lo32 v))) s
  s.fileWave wk (afterPc pc words)

/-- The operands of an arrival: positions of `wa` and `wb` bits, constants named by formats `ca` and `cb`; fields
from 72 up wait for execution. -/
def readCross (a : BitVec 7) (alu : Bool) (ca wa : Nat) (b : Option (BitVec 7 × Bool × Nat × Nat)) (l : Lane) : Kept × Lane :=
  let (x, l) := if a.toNat < 72 then l.rd a alu ca wa else (0, l)
  match b with
  | some (b, blu, cb, wb) =>
    let (y, l) := if b.toNat < 72 then l.rd b blu cb wb else (0, l)
    ({ a := x, b := y }, l)
  | none => ({ a := x }, l)

/-- The value that lane `n` holds among the lanes of W. -/
def laneA (xs : List XLane) (n : Nat) : Option Nat := (xs.find? (fun x => x.lane = n)).map (fun x => (lo32 x.a).toNat)

/-- A permutation of lane values (13 R246, Table 13-2): `src` gives the source lane of a lane, or none for 0. -/
def permute (xs : List XLane) (src : XLane → Option Nat) : List (Nat × Nat × W32) :=
  xs.map (fun x => (x.tid, (match src x with | some n => (laneA xs n).getD 0 | none => 0), 0))

/-- The selected lanes of `cmpr` and `expd`, and the flagged ones of `wfind`. -/
def selected (xs : List XLane) : List Nat := (xs.filter (fun x => lo32 x.b ≠ 0)).map (·.lane)

/-- A permutation instruction of the ALU layout, B an integer of its position's width (05 R98). -/
def permOp (p : Nat) (m : Option ModW) (f : Alu) (wb : Nat) (src : List XLane → XLane → Option Nat) (s : State) :
    Host.Outcome State Fault Refusal :=
  let cb := if wb = 64 then 13 else 12
  s.crossOp p m (.alu f) false (readCross f.a f.alu 12 32 (some (f.b, f.blu, cb, wb)))
    (fun s wk => let xs := s.xlanes wk f.a f.b 12 32 cb wb; s.crossRun wk f.vd f.nw 32 (permute xs (src xs)))

/-- A permutation instruction of the ALU-imm layout. -/
def permImmOp (p : Nat) (m : Option ModW) (f : AluI) (src : XLane → Option Nat) (s : State) :
    Host.Outcome State Fault Refusal :=
  s.crossOp p m (.aluI f) false (readCross f.a f.alu 12 32 none)
    (fun s wk => s.crossRun wk f.vd f.nw 32 (permute (s.xlanes wk f.a f.a 12 32 12 32) src))

/-- Sources of `shfl`. -/
def srcShfl (_ : List XLane) (x : XLane) : Option Nat := some (x.b.toNat % 32)
/-- Sources of `slup`. -/
def srcSlup (_ : List XLane) (x : XLane) : Option Nat := if x.lane < x.b.toNat then none else some (x.lane - x.b.toNat)
/-- Sources of `sldn`. -/
def srcSldn (_ : List XLane) (x : XLane) : Option Nat := if 31 < x.lane + x.b.toNat then none else some (x.lane + x.b.toNat)
/-- Sources of `cmpr`. -/
def srcCmpr (xs : List XLane) (x : XLane) : Option Nat := (selected xs)[x.lane]?
/-- Sources of `expd`. -/
def srcExpd (xs : List XLane) (x : XLane) : Option Nat :=
  let s := selected xs
  if s.contains x.lane then some ((s.takeWhile (fun l => l ≠ x.lane)).length) else none
/-- Sources of `shfli`, by mode and count. -/
def srcShfli (imm : Nat) (x : XLane) : Option Nat :=
  let c := imm % 32
  match imm / 32 with
  | 0 => some (Nat.xor x.lane c)
  | 1 => some (if x.lane < c then x.lane else x.lane - c)
  | 2 => some (if 31 < x.lane + c then x.lane else x.lane + c)
  | _ => some ((x.lane + c) % 32)

/-- SHFL (R246). -/
def execShfl (m : Option ModW) (f : Alu) (s : State) := permOp 0x0C0 m f 32 srcShfl s
/-- CMPR (R246). -/
def execCmpr (m : Option ModW) (f : Alu) (s : State) := permOp 0x0C6 m f 32 srcCmpr s
/-- EXPD (R246). -/
def execExpd (m : Option ModW) (f : Alu) (s : State) := permOp 0x0C7 m f 32 srcExpd s
/-- SLUP (R246). -/
def execSlup (m : Option ModW) (f : Alu) (s : State) := permOp 0x0C8 m f 64 srcSlup s
/-- SLDN (R246). -/
def execSldn (m : Option ModW) (f : Alu) (s : State) := permOp 0x0C9 m f 64 srcSldn s
/-- SHFLI (R246). -/
def execShfli (m : Option ModW) (f : AluI) (s : State) := permImmOp 0x0C1 m f (srcShfli f.imm.toNat) s
/-- BCAST (R246). -/
def execBcast (m : Option ModW) (f : AluI) (s : State) := permImmOp 0x0CA m f (fun _ => some (f.imm.toNat % 32)) s

/-- The result of `vote` (13 R247). -/
def voteVal (code : Nat) (xs : List XLane) : Nat :=
  match code with
  | 0 => if xs.any (·.pd) then 1 else 0
  | 1 => if xs.all (·.pd) then 1 else 0
  | _ => (laneMask ((xs.filter (·.pd)).map (·.tid))).toNat

/-- One value written to every lane of W. -/
def sameAll (xs : List XLane) (v : Nat) : List (Nat × Nat × W32) := xs.map (fun x => (x.tid, v, 0))

/-- VOTE (R247). -/
def execVote (m : Option ModW) (f : AluI) (s : State) : Host.Outcome State Fault Refusal :=
  s.crossOp 0x0C2 m (.aluI f) false (fun l => ({ pd := predOperand l.t.p f.a.toNat }, l))
    (fun s wk => let xs := s.xlanes wk 0 0 12 32 12 32; s.crossRun wk f.vd f.nw 32 (sameAll xs (voteVal f.imm.toNat xs)))

/-- The result of `wfind` (13 R248). -/
def wfindVal (xs : List XLane) : Nat :=
  (xs.filter (fun x => lo32 x.a ≠ 0)).foldl (fun m x => min m (lo32 x.b).toNat) 0xFFFFFFFF

/-- WFIND (R248). -/
def execWfind (m : Option ModW) (f : Alu) (s : State) : Host.Outcome State Fault Refusal :=
  s.crossOp 0x0CB m (.alu f) false (readCross f.a f.alu 12 32 (some (f.b, f.blu, 12, 32)))
    (fun s wk => let xs := s.xlanes wk f.a f.b 12 32 12 32; s.crossRun wk f.vd f.nw 32 (sameAll xs (wfindVal xs)))

/-- An integer operation over a set of values (13 Table 13-3). -/
def reduInt (code ty : Nat) (vs : List Nat) : Nat :=
  let w := fmtWidth ty
  let i (v : Nat) : Int := intVal (isSigned ty) w v
  match code with
  | 0 => vs.foldl (fun a v => (a + v) % 2 ^ w) 0
  | 1 => wrapInt w (vs.foldl (fun a v => min a (i v)) (intLimits ty).2)
  | 2 => wrapInt w (vs.foldl (fun a v => max a (i v)) (intLimits ty).1)
  | 3 => vs.foldl Nat.land (2 ^ w - 1)
  | 4 => vs.foldl Nat.lor 0
  | _ => vs.foldl Nat.xor 0

/-- A float operation over a set of values (13 Table 13-3, R250). -/
def reduFlt (code ty mode r : Nat) (vs : List Nat) : Res :=
  match code with
  | 6 => if vs = [] then (0, 0) else sumRound ty mode r true (vs.map (decodeVal ty))
  | 7 => vs.foldl (fun a v => let x := minF ty a.1 v; (x.1, a.2 ||| x.2)) (infBits ty false, 0)
  | _ => vs.foldl (fun a v => ((maxF ty a.1 v).1, a.2)) (infBits ty true, 0)

/-- The results of `redu` and `scan` over lanes chosen by `pick` (13 R249, R250). -/
def reduAll (m : Option ModW) (code ty : Nat) (among : XLane → XLane → Bool) (xs : List XLane) : List (Nat × Nat × W32) :=
  xs.map (fun x =>
    let vs := (xs.filter (among x)).map (fun y => y.a.toNat % 2 ^ fmtWidth ty)
    if code ≤ 5 then (x.tid, reduInt code ty vs, 0)
    else
      let mode := modeOf m x.t
      let r := reduFlt code ty mode (x.t.rand mode 0) vs
      (x.tid, r.1, r.2))

/-- `redu` and `scan`. -/
def reduOp (p : Nat) (m : Option ModW) (f : AluI) (among : XLane → XLane → Bool) (s : State) :
    Host.Outcome State Fault Refusal :=
  let code := f.imm.toNat
  let ty := reduTy code (tyCode m)
  let w := posWidth ty
  let rnd := match m with | some w => w.rnd ≠ 0 | none => false
  let ill := if code ≤ 5 then illTy m isLaneInt || rnd else illTy m isLaneFlt
  s.crossOp p m (.aluI f) ill (readCross f.a f.alu ty w none)
    (fun s wk => s.crossRun wk f.vd f.nw w (reduAll m code ty among (s.xlanes wk f.a f.a ty w ty w)))

/-- REDU (R249). -/
def execRedu (m : Option ModW) (f : AluI) (s : State) := reduOp 0x0C3 m f (fun _ _ => true) s

/-- SCAN (R249): `.excl` is FL bit 0. -/
def execScan (m : Option ModW) (f : AluI) (s : State) :=
  reduOp 0x0C5 m f (fun x y => if bitAt (flCode m) 0 then y.lane < x.lane else y.lane ≤ x.lane) s

/-- The type of `redmaxi` (13 R251). -/
def redmaxiTy (c : Nat) : Nat := if c = 2 || c = 3 || c = 12 || c = 16 then c else 1

/-- Whether `x` is selected before `y`: greater value, then smaller index, then lower lane (13 R251). -/
def redmaxiBefore (ty : Nat) (x y : XLane) : Bool :=
  let v (z : XLane) : Nat := z.a.toNat % 2 ^ fmtWidth ty
  let i (z : XLane) : Nat := (lo32 z.b).toNat
  match tord (decodeVal ty (v x)) (decodeVal ty (v y)) with
  | .gt => true
  | .lt => false
  | .eq => i x < i y || (i x = i y && x.lane < y.lane)

/-- The selected lane's index and value, as the pair is written (13 R251). -/
def redmaxiVal (ty : Nat) (xs : List XLane) : Nat :=
  match xs with
  | [] => 0
  | x :: r =>
    let b := r.foldl (fun b y => if redmaxiBefore ty y b then y else b) x
    (lo32 b.b).toNat + 2 ^ 32 * (b.a.toNat % 2 ^ fmtWidth ty)

/-- REDMAXI (R251). -/
def execRedmaxi (m : Option ModW) (f : Alu) (s : State) : Host.Outcome State Fault Refusal :=
  let ty := redmaxiTy (tyCode m)
  let cb := if ty = 16 then 16 else 12
  s.crossOp 0x0C4 m (.alu f) (illTy m (fun c => redmaxiTy c = c)) (readCross f.a f.alu ty 32 (some (f.b, f.blu, cb, 32)))
    (fun s wk => let xs := s.xlanes wk f.a f.b ty 32 cb 32; s.crossRun wk f.vd f.nw 64 (sameAll xs (redmaxiVal ty xs)))

/-- HARROW (R252): it runs per lane and ends no run. -/
def execHarrow (m : Option ModW) (f : Alu) (s : State) : Host.Outcome State Fault Refusal :=
  s.laneOp 0x0CC m (.alu f) false true (fun l =>
    let (x, l) := l.rd f.a f.alu 12 32
    let (y, l) := l.rd f.b f.blu 12 32
    let o := harrow l.t.hkey (harrowCtr (lo32 x) (logicalTid l.t) l.t.hctr 1 (y.setWidth 16))
    let lo : W64 := o.extractLsb' 0 64
    let hi : W64 := o.extractLsb' 64 64
    if f.nw then { l with out := lo }
    else { l with out := lo, t := (l.t.setPair f.vd.toNat lo).setPair (f.vd.toNat + 2) hi })

/-! ### Block conversion -/

/-- The width of A's position in `cvt.mx` and `mxsc` (09 "Operands", log entry 12). Log 12 (DEDUCED, unsafe).
Log 131 (DEDUCED, unsafe). -/
def mxPos (src : Nat) (a b : BitVec 7) : Nat :=
  let two := b.toNat = 118 || (72 ≤ b.toNat && b.toNat < 104)
  if src = 1 && two && !(a.toNat < 64 && a.toNat % 2 = 1) then 64 else 32

/-- The block length, and whether an invalid one fell back (09 R181). -/
def mxK (v : Nat) : Nat × Bool := let k := v % 256; if k = 16 || k = 32 || k = 64 then (k, false) else (32, true)

/-- The source values of a lane (09 Table 9-9). Log 12 (DEDUCED, unsafe). Log 125 (DEDUCED, unsafe). -/
def mxVals (src k : Nat) (a : W64) : List Val :=
  let w := fmtWidth src
  let v (i : Nat) : Val := decodeVal src (a.toNat / 2 ^ (w * i) % 2 ^ w)
  if k = 64 then [v 0, v 1] else [v 0]

/-- The values of the block of a lane, exited lanes supplying +0. -/
def mxBlock (src k lane : Nat) (xs : List XLane) : List Val :=
  let per := if k = 16 then 16 else 32
  (upto per).flatMap (fun i =>
    match xs.find? (fun x => x.lane = lane / per * per + i) with
    | some x => mxVals src k x.a
    | none => (upto (if k = 64 then 2 else 1)).map (fun _ => Val.fin false 0 0))

/-- MXNAN of the lowest live lane (09 R182). -/
def mxNanOf (xs : List XLane) : Bool := match xs with | x :: _ => x.t.mxnan | [] => false

/-- The results of `cvt.mx` (09 R182). -/
def cvtMxAll (m : Option ModW) (t src k : Nat) (ill : Bool) (xs : List XLane) : List (Nat × Nat × W32) :=
  let w := fmtWidth t
  xs.map (fun x =>
    let blk := mxBlock src k x.lane xs
    let sc := mxScale t (bitAt (flCode m) 0) (mxNanOf xs) blk
    let mode := modeOf m x.t
    let one (e : Nat) : Res := mxElem t sc mode (x.t.rand mode e) (blk.any Val.isNan) ((mxVals src k x.a).getD e (.fin false 0 0))
    let c0 := one 0
    let c1 : Res := if k = 64 then one 1 else (0, 0)
    (x.tid, sc * 2 ^ 24 + c1.1 * 2 ^ w + c0.1, c0.2 ||| c1.2 ||| (if ill then fILLMOD else 0)))

/-- The results of `mxsc` (09 R184). -/
def mxscAll (m : Option ModW) (t src k : Nat) (ill : Bool) (xs : List XLane) : List (Nat × Nat × W32) :=
  if !((4 ≤ t && t ≤ 8) || t = 10 || t = 18) then xs.map (fun x => (x.tid, 255, fILLMOD))
  else xs.map (fun x =>
    let blk := mxBlock src k x.lane xs
    let nan := blk.any Val.isNan
    let own := mxVals src k x.a
    let fl : W32 := (if own.any Val.isSig then fNV else 0) |||
      (if !nan && own.any (fun v => match v with | .inf _ => true | _ => false) then fINFSAT else 0)
    (x.tid, mxScale t (bitAt (flCode m) 0) (mxNanOf xs) blk, fl ||| (if ill then fILLMOD else 0)))

/-- CVT_MX (R181, R182). -/
def execCvtMx (m : Option ModW) (f : Alu) (s : State) : Host.Outcome State Fault Refusal :=
  let (t, src) := cvtMxPair m
  let ill := orDef 4 (tyCode m) ≠ t || orDef 1 (stCode m) ≠ src
  let w := mxPos src f.a f.b
  s.crossOp 0x061 m (.alu f) ill (readCross f.a f.alu src w none)
    (fun s wk =>
      let xs := s.xlanes wk f.a f.b src w 12 32
      let (k, bad) := mxK (match xs with | x :: _ => x.b.toNat | [] => 32)
      s.crossRun wk f.vd f.nw 32 (cvtMxAll m t src k bad xs))

/-- MXSC (R184). -/
def execMxsc (m : Option ModW) (f : Alu) (s : State) : Host.Outcome State Fault Refusal :=
  let src := mxscSrc m
  let w := mxPos src f.a f.b
  s.crossOp 0x063 m (.alu f) (orDef 1 (stCode m) ≠ src) (readCross f.a f.alu src w none)
    (fun s wk =>
      let xs := s.xlanes wk f.a f.b src w 12 32
      let b := match xs with | x :: _ => x.b.toNat | [] => 32
      let (k, bad) := mxK b
      s.crossRun wk f.vd f.nw 32 (mxscAll m (bits b 15 8) src k bad xs))

/-! ### Fence -/

/-- The fence of a wave, standing in every stream of it (07 R126). -/
def State.waveFence (s : State) (wk : Nat) (ord : Ord) : State :=
  let tk := tkOfW wk
  let os := s.waveOwners wk
  let f (o : Ord) : Acc := fenceOf (.uni wk) (s.coreOf tk) (s.dieOfTeam tk) tk o 1
  match ord with
  | .acqrel => ((s.addShared os (f .acq)).2.addShared os (f .rel)).2
  | o => (s.addShared os (f o)).2

/-- FENCE (R233, R124 to R126): one fence for each lane, or with scope `.wave` a rendezvous. -/
def execFence (m : Option ModW) (f : C0) (s : State) : Host.Outcome State Fault Refusal :=
  let (ord, _, sco, ill) := fenceOrd m
  if sco = 1 then
    s.crossOp 0x086 m (.c0 f) ill (fun l => ({}, l)) (fun s wk =>
      let (pc, words) := s.meetWords wk
      let s := s.joinStreams (s.waveOwners wk)
      (s.waveFence wk ord).fileWave wk (afterPc pc words))
  else
    s.memOp 0x086 m (.c0 f) ill false false (fun l => ({ a := 0 }, l)) (fun s l _ _ _ =>
      let tk := tkOf l.tid
      ((s.addFence (.thread l.tid) (s.coreOf tk) (s.dieOfTeam tk) tk ord sco).2, .done (.val 0)))

end Sys2Proof.Machine
end

