-- ==== Sys2Proof/Machine/System.lean ====
section
/-! DEFINITION. System instructions: traps and breakpoints, the return from a handler, control registers and
clocks (15 R298 to R301, 20 R366, R378, 01 R24 to R28). -/

namespace Sys2Proof.Machine

/-- A sheaf that is not issuing ends inside its run: its chain is saved and its threads are filed (01 R23).
Log 43 (DEDUCED, unsafe). -/
def State.breakSheaf (s : State) (h : Sheaf) : State :=
  let s := { s with sheaves := s.sheaves.filter (fun x => x.tids ≠ h.tids) }
  let s := s.saveSheaf h
  let s := h.active.foldl (fun s t => s.file t h.pc) s
  (s.deliverLanes h.trapped).cleanBins h.core

/-- A wave halted (20 R378): the sheaves that hold its threads end, but for the one of threads `keep`. -/
def State.haltWave (s : State) (wk : Nat) (keep : List Nat) : State :=
  let s := s.modWave wk (fun w => { w with haltBit := true, stepping := [] })
  (s.sheaves.filter (fun h => h.tids ≠ keep && h.tids.any (fun t => wkOf t = wk))).foldl (fun s h => s.breakSheaf h) s

/-- Whether a debugger is attached to a function on a die (20 R378, 25 Table 25-8). -/
def State.debugged (s : State) (v die : Nat) : Bool := bitAt (s.die die).dbgVf.toNat v && s.feature v 9

/-- TRAP (R299): the trap is raised on every thread of the fragment, and resumes at the next instruction. -/
def execTrap (m : Option ModW) (f : Sys) (s : State) : Host.Outcome State Fault Refusal :=
  s.uniOp 0x1E0 m (.sys f) false .sheaf (fun h words fr s =>
    s.fragTrap h fr tUserTrap (afterPc h.pc words) words (f.imm.setWidth 64))

/-- The return of one thread from its handler (20 R366). Log 44 (DEDUCED, unsafe). -/
def State.tretThread (s : State) (tid : Nat) (pc : Va) (words : W64) : State :=
  let t := s.thread tid
  match t.trapVa with
  | none => s.parkNested [tid] pc words
  | some va =>
    match s.translate (s.asidOf tid) va.toNat false false with
    | (.error _, s) => s.parkNested [tid] pc words
    | (.ok p, s) =>
      let pa := p.pa + (va.toNat - p.va)
      let die := s.dieOfTeam (tkOf tid)
      let rd (off : Nat) : W64 := BitVec.ofNat 64 (s.readNow (.thread tid) die p.die (pa + off) 8)
      let s' := s.readDone die (s.die die).clock [p] [(p.die, pa, 64)] [lineOf pa] (clusterOf (s.coreOf (tkOf tid)))
      let s' := s'.modThread tid (fun t =>
        { ((t.setPair 60 (rd 0x30)).setPair 62 (rd 0x38)) with sup := false, trapVa := none })
      if (rd 0x28).getLsbD 0 then s'.exitThread tid else s'.file tid (regTarget (rd 0x10))

/-- TRET (R366). -/
def execTret (m : Option ModW) (f : Sys) (s : State) : Host.Outcome State Fault Refusal :=
  s.uniOp 0x1E1 m (.sys f) false .sheaf (fun h words fr s =>
    let (sup, user) := (fr.filter (fun t => (s.thread t).sup), fr.filter (fun t => !(s.thread t).sup))
    let s := if user.isEmpty then s else (s.saveSheaf h).deliver user tPriv h.pc h.pc words 0
    (sup.foldl (fun s t => s.tretThread t h.pc words) s, none))

/-- The registers of 01 Table 1-6, as the lowest thread of a fragment reads them. -/
def State.csr (s : State) (tid n : Nat) : W64 :=
  let t := s.thread tid
  if n = 1 then t.fcr.setWidth 64
  else if n = 2 then t.hkey
  else if n = 3 then t.hctr.setWidth 64
  else if n = 0x010 then (s.wave (wkOf tid)).gang
  else if n = 0x100 then (s.core (s.coreOf (tkOf tid))).age.setWidth 64
  else if n < 0x028 then (t.lv.getD (n - 0x020) 0).setWidth 64
  else (t.ln.getD (n - 0x028) 1).setWidth 64

/-- CSRR (R300). -/
def execCsrr (m : Option ModW) (f : Sys) (s : State) : Host.Outcome State Fault Refusal :=
  s.uniOp 0x1E2 m (.sys f) false .cont (fun h words fr s =>
    (s.setSreg fr f.sa.toNat (s.csr (fr.headD 0) f.imm.toNat), some (afterPc h.pc words)))

/-- What `c.age` stores (01 R27). -/
def ageWrite (v : W64) : W32 := let x := bits v.toNat 11 0; BitVec.ofNat 32 (if x < 8 then 8 else x)

/-- The bits of `c.gang` that are not reserved (01 Table 1-8). Log 42 (DEDUCED, unsafe). -/
def gangMask : W64 := 0x3FFFFFFF7

/-- CSRW (R300, R24 to R28). Log 42 (DEDUCED, unsafe). -/
def execCsrw (m : Option ModW) (f : Sys) (s : State) : Host.Outcome State Fault Refusal :=
  s.uniOp 0x1E3 m (.sys f) false .cont (fun h words fr s =>
    let v := s.sreg fr f.sa.toNat
    let tid := fr.headD 0
    let n := f.imm.toNat
    let next := some (afterPc h.pc words)
    if n = 1 then (s.modThreads fr (fun _ t => { t with fcr := fcrWrite t.fcr (lo32 v) }), next)
    else if n = 2 then (s.modThreads fr (fun _ t => { t with hkey := v }), next)
    else if n = 3 then (s.modThreads fr (fun _ t => { t with hctr := lo32 v }), next)
    else if n = 0x010 then (s.modWave (wkOf tid) (fun w => { w with gang := v &&& gangMask }), next)
    else if n = 0x100 && (s.thread tid).sup then (s.modCore (s.coreOf (tkOf tid)) (fun c => { c with age := ageWrite v }), next)
    else s.fragTrap h fr tPriv h.pc words 0)

/-- GETCLK (R301). Log 8 (DESIGN CHOICE, unsafe). -/
def execGetclk (m : Option ModW) (f : Sys) (s : State) : Host.Outcome State Fault Refusal :=
  s.uniOp 0x1E5 m (.sys f) false .cont (fun h words fr s =>
    let v := if f.imm = 0 then (s.die (s.dieOfTeam (tkOf (fr.headD 0)))).cycles else s.hub.time
    (s.setSreg fr f.sa.toNat v, some (afterPc h.pc words)))

end Sys2Proof.Machine
end

