-- ==== Sys2Proof/Machine/Lines.lean ====
section
/-! DEFINITION. What keeps the device from a line, the half-line bridge, and reads of many lines at one time (07
R120, R137, 25 R413 to R415, 23 Table 23-1). -/

namespace Sys2Proof.Machine

/-- Half-lines (PA / 64) of lines. -/
def halvesOf (lines : List Nat) : List Nat := lines.flatMap (fun l => [2 * l, 2 * l + 1])

/-- Half-lines that a device access must snoop first (25 Table 25-2). -/
def State.snoopsOf (s : State) (lines : List Nat) (write : Bool) : List Nat :=
  (halvesOf lines).filter (fun h => match tget s.hub.halves h with
    | some .m => true
    | some .s => write
    | none => false)

/-- Back-invalidate snoops sent, each once (25 R414). -/
def State.snoop (s : State) (hs : List Nat) (inv : Bool) : State :=
  hs.foldl (fun s h =>
    if (tget s.hub.snoops h).isSome then s
    else
      let s := s.modHub (fun b => { b with snoops := tset b.snoops h inv })
      { s with out := s.out ++ [.bisnp (if inv then "BISnpInv" else "BISnpData") (dpaOf (64 * h))] }) s

/-- Whether a bias flip stalls an access of this number (25 R415). -/
def State.inFlip (s : State) (lines : List Nat) (gid : Nat) : Bool :=
  match s.hub.flip with
  | none => false
  | some f => f.gid ≤ gid && lines.any (fun l => f.pages.contains (l / 32))

/-- Whether an engine's ownership or a flip keeps an access from some lines. -/
def State.lineStall (s : State) (lines : List Nat) (gid : Nat) : Bool := s.owned lines || s.inFlip lines gid

/-- The bytes of an element, as home die, address and count. -/
def elemRange (p : Page) (e : Elem) : List (Nat × Nat × Nat) :=
  (p.die, e.bit / 8, (e.bit % 8 + e.width + 7) / 8) ::
  (match e.tile with | some t => [(p.die, t.pay, 2 ^ (t.page.tg + 2)), (p.die, t.hdr, 32)] | none => []) ++
  (match e.scale with | some a => [(p.die, a, 1)] | none => [])

/-- Whether a load that stands in several streams may perform: each lets it, and none holds an unfinished write to
its lines (13 R244, 14 R268). -/
def State.sharedReady (s : State) (g : Acc) : Bool :=
  let ok (q : Stream) : Bool :=
    !q.holds g || (s.before q g).all (fun e =>
      !q.blocks e g && !(e.kind ≠ .load && e.kind ≠ .fence && e.sameLine g && !e.weak))
  s.threads.all (fun t => ok t.2.q) && s.waves.all (fun w => ok w.2.uq)

/-- The element `off` places after a VA of a page: on a packed page it lies in that page, on a byte page in a page
of the same format-table entry (14 R264, R267). -/
def State.elemAt (s : State) (p0 : Page) (va off access : Nat) : Except AccFault Elem × State :=
  if isPacked p0 then s.place p0 va va off 0 false false access
  else
    let v := (va + fmtWidth p0.fmt / 8 * off) % 2 ^ 57
    if p0.va ≤ v && v < p0.va + 2 ^ p0.bits then s.place p0 v v 0 0 false false access
    else match s.translate p0.asid v false false with
      | (.error k, s) => (.error ⟨k, access, v⟩, s)
      | (.ok p, s) =>
        if p.fix ≠ p0.fix || p.fmt ≠ p0.fmt then (.error ⟨kFormatAccess, access, v⟩, s)
        else s.place p v v 0 0 false false access

/-- The elements at some places, in order, or the fault of lowest address. -/
def State.elemsAt (s : State) (p0 : Page) (va : Nat) (offs : List Nat) (access : Nat) :
    Except AccFault (List Elem) × State :=
  let (l, f, s) := offs.foldl (fun (x : List Elem × Option AccFault × State) o =>
    match x.2.2.elemAt p0 va o access with
    | (.ok e, s) => (e :: x.1, x.2.1, s)
    | (.error g, s) => (x.1, (match x.2.1 with | some h => if g.va < h.va then some g else some h | none => some g), s))
    (([] : List Elem), (none : Option AccFault), s)
  match f with
  | some g => (.error g, s)
  | none => (.ok l.reverse, s)

/-- The pages of the elements at some places after a VA of a page. -/
def State.elemPages (s : State) (p0 : Page) (va : Nat) (offs : List Nat) : List Page :=
  if isPacked p0 then [p0]
  else ((dedup (offs.map (fun o => (va + fmtWidth p0.fmt / 8 * o) % 2 ^ 57 / 4096))).map (fun b =>
    if p0.va ≤ 4096 * b && 4096 * b < p0.va + 2 ^ p0.bits then p0
    else match (s.translate p0.asid (4096 * b) false false).1 with | .ok p => p | .error _ => p0)).eraseDups

/-- The lines of some elements. -/
def linesOfElems (es : List Elem) : List Nat := dedup (es.flatMap elemLines)

/-- The code of a decoded read rounded to its page's own format, to nearest even: it differs from the code in memory where that
is a NaN, which becomes the default one (14 R264, 11 R209, 04 R86). -/
def ownCode (p : Page) (code : Nat) : Nat := if p.blk = 0 && (decodeVal p.fmt code).isNan then defaultNan p.fmt else code

/-- An element as a decoded read rounded to its page's own format, and its scale code; none when its tile's header
is invalid (14 R264, R267). -/
def State.readEl (s : State) (die : Nat) (p : Page) (e : Elem) : Option MxEl :=
  let rd := s.viewByte die
  let bad := s.mem.poison.length ≠ 0 && s.poisoned (elemLines e)
  match e.tile with
  | some t =>
    let h := readHdr rd t
    if !h.valid t.page.tl t.page.fmt then none
    else some { code := (toFloat p.fmt 0 0 (tileVal rd t h 0 e.idx)).1, bad := bad }
  | none =>
    some { code := ownCode p (readBits rd e), scale := (match e.scale with | some a => (rd a).toNat | none => 127), bad := bad }

/-- Elements read, or the header VA of the first invalid tile. -/
def State.readEls (s : State) (die : Nat) (p : Page) (es : List Elem) : Except Nat (List MxEl) :=
  let r := es.map (fun e => (e, s.readEl die p e))
  match r.find? (fun x => x.2.isNone) with
  | some (e, _) => .error (match e.tile with | some t => t.hdrVa | none => 0)
  | none => .ok (r.filterMap (·.2))

/-- The pages of some elements' accessed bits: the operand's own, and those of tile headers.
Log 46 (DEDUCED, unsafe). -/
def pagesOfElems (ps : List Page) (es : List Elem) : List Page :=
  ps ++ (dedup (es.filterMap (fun e => e.tile.map (·.hdrPte)))).map (fun x => { (ps.headD {}) with pte := x })

/-- The fault of lower address. -/
def lowerFault (a b : Option AccFault) : Option AccFault :=
  match a, b with
  | some x, some y => some (if y.va < x.va then y else x)
  | some x, none => some x
  | none, y => y

end Sys2Proof.Machine
end

