-- ==== Sys2Proof/Machine/Matrix.lean ====
section
/-! DEFINITION. Stations, gangs, products and accumulator instructions (14). Each is a wave rendezvous; a run that
answers none leaves its wave waiting for a tile, a station or the latch. -/

namespace Sys2Proof.Machine

/-- The ACCESS code of a station or product (20 Table 20-3). -/
def accMx : Nat := 6

/-- A trap on every thread of some waves at the instruction that they execute (14 R259, R260). -/
def State.mxTrap (s : State) (waves : List Nat) (code : Nat) : State :=
  let (pc, words) := s.meetWords (waves.headD 0)
  let tids := waves.flatMap s.liveOf
  (s.modThreads tids (fun _ t => { t with kept := none })).deliver tids code pc pc words 0

/-- Every thread of some waves parked at their instruction, with one record for each wave (20 R367). -/
def State.mxPark (s : State) (waves : List Nat) (set : ParkSet) (f : AccFault) (a b : W64) : State :=
  let (pc, words) := s.meetWords (waves.headD 0)
  let tids := waves.flatMap s.liveOf
  s.parkRecords tids f.kind f.access (s.asidOf (tids.headD 0)) f.va pc words a b 0
    { kind := f.kind, set := set, grp := 0, trap := false, val := 0, rpc := pc, pc := pc, words := words,
      access := f.access } none

/-- A uniform register of a wave. -/
def State.wsreg (s : State) (wk n : Nat) : W64 := tgetD (s.wave wk).s n 0

/-- Whether a page may be a station's source or a product's streamed operand (14 R264). -/
def mxPage (p : Page) : Bool := (1 ≤ p.fmt && p.fmt ≤ 8) || p.fmt = 18 || (p.fmt = 10 && p.blk ≠ 0)

/-- The first page of an operand, checked (14 R264, R267). -/
def State.mxBase (s : State) (asid va : Nat) : Except AccFault Page × State :=
  match s.translate asid va false false with
  | (.error k, s) => (.error ⟨k, accMx, va⟩, s)
  | (.ok p, s) =>
    if !mxPage p then (.error ⟨kFormatAccess, accMx, va⟩, s)
    else if !isPacked p && va % (fmtWidth p.fmt / 8) ≠ 0 then (.error ⟨kMisaligned, accMx, va⟩, s)
    else (.ok p, s)

/-- The element index of a VA on its page, e0. -/
def mxE0 (p : Page) (va : Nat) : Nat := if isPacked p then va - p.va else va / (fmtWidth p.fmt / 8)

/-! ### Stations -/

/-- The width of an element in a station (14 R262). -/
def stWidth (fmt : Nat) : Nat := if fmtWidth fmt = 6 then 8 else fmtWidth fmt

/-- The quotient rounded up. -/
def cdiv (a b : Nat) : Nat := (a + b - 1) / b

/-- Banks across the columns, and data banks (14 R262). -/
def stData (fmt r c : Nat) : Nat × Nat :=
  let cb := cdiv (c * stWidth fmt) 1024
  (cb, cdiv r 128 * cb)

/-- Scale bytes of a station. -/
def stScales (blk : Nat) (ori : Bool) (r c : Nat) : Nat :=
  if blk = 0 then 0 else if ori then c * cdiv r (blkLen blk) else r * cdiv c (blkLen blk)

/-- Banks of a station. -/
def stBanks (fmt blk : Nat) (ori : Bool) (r c : Nat) : Nat := (stData fmt r c).2 + cdiv (stScales blk ori r c) 0x4000

/-- The scratchpad byte of an element, and whether it is the high nibble. -/
def stByte (bb fmt r c k l : Nat) : Nat × Bool :=
  let w := stWidth fmt
  let (cb, _) := stData fmt r c
  ((bb + k / 128 * cb + l * w / 1024) * 0x4000 + k % 128 * 128 + l * w % 1024 / 8, w = 4 && l % 2 = 1)

/-- The scratchpad byte of an element's scale. -/
def stScaleByte (bb fmt blk : Nat) (ori : Bool) (r c k l : Nat) : Nat :=
  let kk := blkLen blk
  let j := if ori then l * cdiv r kk + k / kk else k * cdiv c kk + l / kk
  (bb + (stData fmt r c).2) * 0x4000 + j

/-- A station's descriptor (14 Table 14-3). -/
def stDesc (ori bsy : Bool) (bb fmt blk r c nb : Nat) : W64 :=
  BitVec.ofNat 64 (1 + (if ori then 2 else 0) + (if bsy then 4 else 0) + bb * 2 ^ 8 + fmt * 2 ^ 16 + blk * 2 ^ 21 +
    (r - 1) * 2 ^ 32 + (c - 1) * 2 ^ 42 + (nb - 1) * 2 ^ 52)

/-- The descriptor of a handle. -/
def State.station (s : State) (tk w : Nat) : W64 :=
  match tget s.teams tk with | some t => t.stations.getD w 0 | none => 0

/-- A handle's descriptor set. -/
def State.setStation (s : State) (tk w : Nat) (d : W64) : State :=
  s.modTeam tk (fun t => { t with stations := (upto 8).map (fun i => if i = w then d else t.stations.getD i 0) })

/-- The bytes of a station's footprint, from its elements in row order (14 R262). -/
def stCells (d : W64) (els : List MxEl) : List Host.Cell :=
  let bb := stBB d
  let fmt := stFmt d
  let r := stR d
  let c := stC d
  let n := stWidth fmt / 8
  let zero := cellsAt (bb * 0x4000) (List.replicate (stNB d * 0x4000) 0)
  let put (m : List Host.Cell) (i : Nat × MxEl) : List Host.Cell :=
    let (a, hi) := stByte bb fmt r c (i.1 / c) (i.1 % c)
    let m :=
      if n = 0 then
        let old := ((memGet m a).toNat : Nat)
        memSet m a (BitVec.ofNat 8 (if hi then old % 16 + 16 * (i.2.code % 16) else old / 16 * 16 + i.2.code % 16))
      else memSetAll m (cellsAt a (natBytes i.2.code n))
    if stBlk d = 0 then m
    else memSet m (stScaleByte bb fmt (stBlk d) (stOri d) r c (i.1 / c) (i.1 % c)) (BitVec.ofNat 8 i.2.scale)
  zero ++ (((upto els.length).zip els).foldl put [])

/-- The bank words of a station that hold a poisoned element. -/
def stBad (d : W64) (els : List MxEl) : List Nat :=
  dedup ((((upto els.length).zip els).filter (fun i => i.2.bad)).map (fun i =>
    (stByte (stBB d) (stFmt d) (stR d) (stC d) (i.1 / stC d) (i.1 % stC d)).1 / 8))

/-- An element of a station: its code, its scale and whether its words are poisoned. -/
def State.stElem (s : State) (tk : Nat) (d : W64) (k l : Nat) : MxEl :=
  let fmt := stFmt d
  let (a, hi) := stByte (stBB d) fmt (stR d) (stC d) k l
  let w := stWidth fmt
  let v := readNat (s.spByte tk) a (if w = 4 then 1 else w / 8)
  let sa := stScaleByte (stBB d) fmt (stBlk d) (stOri d) (stR d) (stC d) k l
  let bad := (s.spPoisoned tk).contains (a / 8) || (stBlk d ≠ 0 && (s.spPoisoned tk).contains (sa / 8))
  { code := (if hi then v / 16 else v) % 2 ^ fmtWidth fmt,
    scale := if stBlk d = 0 then 127 else (s.spByte tk sa).toNat, bad := bad }

/-- The exact value of an element (14 R267). -/
def mxElVal (fmt blk : Nat) (e : MxEl) : Val := if blk = 0 then decodeVal fmt e.code else mxVal fmt e.code e.scale

/-- The program order of a load of every thread of some waves (14 R265, R268). -/
def State.mxLoad (s : State) (waves : List Nat) (p : Page) (lines : List Nat) (pc : Va) (words : W64) : Nat × State :=
  let wk := waves.headD 0
  let tk := tkOfW wk
  let a : Acc :=
    { gid := 0, owner := .uni wk, core := s.coreOf tk, die := s.dieOfTeam tk, team := tk, kind := .load, stage := .issued,
      pc := pc, words := words, page := p, target := .pkg p.die, lines := lines }
  s.addShared (waves.flatMap (fun w => (s.liveOf w).map Owner.thread)) a

/-- The products of a team, and whether one uses a handle or a tile. -/
def State.products (s : State) (tk : Nat) : List Product := ((s.core (s.coreOf tk)).products).filter (fun p => p.team = tk)
/-- See `products`. -/
def State.tilesBusy (s : State) (tk : Nat) (tiles : List Nat) : Bool :=
  (s.products tk).any (fun p => p.tiles.any tiles.contains)

/-- Whether a wave's team has its banks and tiles on its core, or needs none (20 R373). -/
def State.banksHere (s : State) (tk : Nat) : Bool :=
  match tget s.teams tk with
  | some t => (t.spb = 0 && t.acc = 0) || (s.core (s.coreOf tk)).bankTeam = some tk
  | none => false

/-- `c.gang.N` and its members' wave indexes. -/
def gangN (g : W64) : Nat := bits g.toNat 2 0
/-- See `gangN`. -/
def gangWaves (g : W64) : List Nat := (upto (gangN g)).map (fun i => bits g.toNat (8 + 5 * i) (4 + 5 * i))
/-- Whether a value forms a gang. -/
def isGang (g : W64) : Bool := 2 ≤ gangN g && gangN g ≤ 6

/-- Latch entries that name a handle and are still to execute (14 R266). -/
def State.latchUses (s : State) (tk w : Nat) : Bool :=
  (s.core (s.coreOf tk)).gangs.any (fun g =>
    let x := (if isPairWords g.words then hi32 g.words else lo32 g.words).toNat
    g.team = tk && bits x 31 23 ≠ 0x160 && bits x 18 16 = w)

/-- `station` (14 R264, R265). -/
def State.stationRun (s : State) (f : Mx) (wk : Nat) : Option State :=
  let tk := tkOfW wk
  let (pc, words) := s.meetWords wk
  let va := (s.wsreg wk f.sa.toNat).toNat % 2 ^ 57
  let sh := (s.wsreg wk f.sb.toNat).toNat
  let old := s.station tk f.w.toNat
  if !s.banksHere tk || stBsy old then none
  else
    let s := s.joinStreams (s.waveOwners wk)
    let asid := s.asidOf ((s.liveOf wk).headD 0)
    let ori := bitAt f.m.toNat 0
    match s.mxBase asid va with
    | (.error x, s) => some (s.mxPark [wk] .wave x (s.wsreg wk f.sa.toNat) (s.wsreg wk f.sb.toNat))
    | (.ok p, s) =>
      let bb := bits sh 5 0
      let r := bits sh 17 8 + 1
      let c := bits sh 27 18 + 1
      let lde := bits sh 63 32
      let nb := stBanks p.fmt p.blk ori r c
      let e0 := mxE0 p va
      let k := blkLen p.blk
      let other := (upto 8).any (fun i =>
        let d := s.station tk i
        i ≠ f.w.toNat && stV d && stBB d < bb + nb && bb < stBB d + stNB d)
      if 64 < bb + nb || s.spbOf tk < bb + nb || other || bits sh 7 6 ≠ 0 || bits sh 31 28 ≠ 0 ||
          (p.blk ≠ 0 && (e0 % k ≠ 0 || lde % k ≠ 0)) then
        some (s.mxTrap [wk] 0x2D)
      else if (s.products tk).any (fun q => q.station = f.w.toNat && stV old) || (stV old && s.latchUses tk f.w.toNat) then none
      else
        let offs := (upto (r * c)).map (fun i => if ori then i % c * lde + i / c else i / c * lde + i % c)
        match s.elemsAt p va offs accMx with
        | (.error x, s) => some (s.mxPark [wk] .wave x (s.wsreg wk f.sa.toNat) (s.wsreg wk f.sb.toNat))
        | (.ok es, s) =>
          let s := s.setStation tk f.w.toNat (stDesc ori true bb p.fmt p.blk r c nb)
          let (g, s) := s.mxLoad [wk] p (linesOfElems es) pc words
          let s : State := { s with stationLoads := s.stationLoads ++
            [{ team := tk, w := f.w.toNat, wk := wk, page := p, pages := s.elemPages p va offs, elems := es, g := g, pc := pc, words := words }] }
          some (s.fileWave wk (afterPc pc words))

/-- `unstation` (14 R266). -/
def State.unstationRun (s : State) (f : Mx) (wk : Nat) : Option State :=
  let tk := tkOfW wk
  let w := f.w.toNat
  let (pc, words) := s.meetWords wk
  if stV (s.station tk w) && ((s.products tk).any (fun p => p.station = w) || s.latchUses tk w || stBsy (s.station tk w)) then none
  else
    let s := s.joinStreams (s.waveOwners wk)
    some ((s.setStation tk w 0).fileWave wk (afterPc pc words))

/-! ### Gangs -/

/-- A latch entry that fails: every wave that has arrived traps (14 R259). -/
def State.gangFail (s : State) (c : Nat) (e : GangEntry) : State :=
  let tids := e.arrived.flatMap (fun w => s.liveOf (32 * e.team + w))
  let s : State := s.modCore c (fun co => { co with gangs := co.gangs.filter (fun x => x ≠ e) })
  let s : State := { s with waits := s.waits.filter (fun x => !(x.what = WaitFor.latch && tkOfW x.wk = e.team && e.arrived.contains (waveIdx x.wk))) }
  s.deliver tids tGangMismatch e.pc e.pc e.words 0

/-- A wave arrives at the rendezvous latch (14 R258, R259): when every member has arrived, `fire` executes for the
members in order; none while the latch is full or the product must wait. Every entry that lists the wave, or that its leader
keys, must be the one it arrives at; in DET mode a wave that waits yields. Log 53 (DEDUCED, unsafe). -/
def State.gangMeet (s : State) (wk : Nat) (fire : State → List Nat → Option State) : Option State :=
  let tk := tkOfW wk
  let g := (s.wave wk).gang
  if !isGang g then fire s [wk]
  else
    let (pc, words) := s.meetWords wk
    let ms := gangWaves g
    let leader := ms.headD 0
    let c := s.coreOf tk
    let me := waveIdx wk
    let nw := match tget s.teams tk with | some t => t.waves | none => 0
    let mine := (s.core c).gangs.filter (fun e => e.team = tk && (e.leader = leader || (gangWaves e.gang).contains me))
    let entry := mine.find? (fun e => e.leader = leader)
    let bad := !ms.contains me || (dedup ms).length ≠ ms.length || ms.any (fun m => nw ≤ m)
    let hit := mine.filter (fun e => bad || e.pc ≠ pc || e.gang ≠ g)
    if bad || !hit.isEmpty then some ((hit.foldl (fun s e => s.gangFail c e) s).mxTrap [wk] tGangMismatch)
    else if entry.isNone && 16 ≤ (s.core c).gangs.length then none
    else
      let s := s.joinStreams (s.waveOwners wk)
      let now := (match entry with | some e => e.arrived | none => []) ++ [me]
      let s := if s.isDet tk && !ms.all now.contains then s.modWave wk (fun w => { w with yieldBit := true }) else s
      let s := s.modCore c (fun co => { co with gangs := match entry with
        | some _ => co.gangs.map (fun e => if e.team = tk && e.leader = leader then { e with arrived := now } else e)
        | none => co.gangs ++ [{ team := tk, leader := leader, pc := pc, words := words, gang := g, arrived := now }] })
      let s := s.addWait { wk := wk, tids := s.liveOf wk, pc := pc, next := afterPc pc words, what := .latch }
      some s

/-- A complete latch entry executes by `fire` (14 R258): its waves leave the latch. Log 53 (DEDUCED, unsafe). -/
def State.gangFire (s : State) (c i : Nat) (fire : State → List Nat → Option State) : Option State :=
  match (s.core c).gangs[i]? with
  | none => none
  | some e =>
    if !((gangWaves e.gang).all e.arrived.contains) || !s.teamActive e.team then none
    else
      let waves := (gangWaves e.gang).map (fun w => 32 * e.team + w)
      let s := s.modCore c (fun co => { co with gangs := co.gangs.eraseIdx i })
      let s : State := { s with waits := s.waits.filter (fun x => !(x.what = WaitFor.latch && waves.contains x.wk)) }
      fire s waves

/-- Every live thread of some waves filed after their instruction. -/
def State.fileWaves (s : State) (waves : List Nat) : State :=
  let (pc, words) := s.meetWords (waves.headD 0)
  waves.foldl (fun s wk => s.fileWave wk (afterPc pc words)) s

/-- `gang` (14 R261): the register is written, then the wave meets the others. -/
def State.gangRun (s : State) (f : Mx) (wk : Nat) : Option State :=
  let v := s.wsreg wk f.sa.toNat
  if v &&& gangMask ≠ v then some (s.mxTrap [wk] 0x2D)
  else (s.modWave wk (fun w => { w with gang := v })).gangMeet wk (fun s ws =>
    some ((ws.foldl (fun s w => s.joinStreams (s.waveOwners w)) s).fileWaves ws))

/-! ### Products -/

/-- Whether a format is narrow (14 R267). -/
def mxNarrow (fmt : Nat) : Bool := (4 ≤ fmt && fmt ≤ 8) || fmt = 10 || fmt = 18

/-- KG of a pair of formats (14 R267). -/
def mxKg (a b : Nat) : Nat := if a = 1 || b = 1 then 4 else if mxNarrow a && mxNarrow b then 32 else 16

/-- The places of a streamed operand's elements, row by row, over `n` members. -/
def MxPart.offs (x : MxPart) (n : Nat) : List (List Nat) :=
  (upto (32 * n)).map (fun m => (upto x.len).map (fun k => m * x.rs + k * x.ks))

/-- The lane registers that give a row's scales, and the bytes (14 R271): blocks `nb`, first byte `b0` of
register `vb`. Log 50 (DEDUCED, unsafe). -/
def rsRegs (m nb : Nat) : List Nat := dedup ((upto nb).map (fun j => 16 * (m / 4) + (m % 4 + j) / 4))

/-- Scale bytes of a lane's row, 0x7F for one that has exited. Log 50 (DEDUCED, unsafe). -/
def rsBytes (t : Option Thread) (m nb : Nat) : List Nat :=
  match t with
  | none => List.replicate nb 0x7F
  | some t => (upto nb).map (fun j =>
    let i := m % 4 + j
    bits (regValue t (16 * (m / 4) + i / 4)).toNat (8 * (i % 4) + 7) (8 * (i % 4)))

/-- A thread with its registers as its arrival read them (13 R241). -/
def Thread.arrived (t : Thread) : Thread :=
  match t.arrival with | some a => { t with regs := a.regs, poison := a.bad } | none => t

/-- The register operands of `.rs` as the live lanes read them at their arrival: traps, and flags of freed registers (01 R18,
20 R380). Log 50 (DEDUCED, unsafe). -/
def State.rsRead (s : State) (tids regs : List Nat) (pc : Va) (words : W64) : List LaneTrap × State :=
  tids.foldl (fun (tr, s) tid =>
    let t := (s.thread tid).arrived
    let l : Lane := { tid := tid, base := t, t := t, latch := [], s := [] }
    let l := regs.foldl (fun l n => (l.rdReg n false).2) l
    match l.trap with
    | some (c, v) => (tr ++ [⟨tid, c, v, pc, words, pc⟩], s)
    | none => (tr, s.modThread tid (fun t => { t with fcr := l.t.fcr }))) ([], s)

/-- The operands of a product before its pages are known: its parts, its tiles, and whether a limit is broken. -/
structure ProdSpec where
  parts : List (Nat × MxPart)
  tiles : List Nat
  bad : Bool
  deriving DecidableEq, Repr

/-- `mma` and `mmat` (14 R269, Table 14-5): `tr` for `mmat`. The VA stands beside the part.
Log 51 (DEDUCED, unsafe). -/
def State.mmaSpec (s : State) (f : Mx) (tr : Bool) (lead n : Nat) : ProdSpec :=
  let d := s.station (tkOfW lead) f.w.toNat
  let w := (s.wsreg lead f.sb.toNat).toNat
  let ko := bits w 9 0
  let kn := bits w 19 10 + 1
  let no := bits w 29 20
  let nn := bits w 36 30 + 1
  let lda := bits w 63 38
  let t := f.t.toNat
  let (re, oe) := if tr then (stC d, stR d) else (stR d, stC d)
  let acc := match tget s.teams (tkOfW lead) with | some t => t.acc | none => 0
  let x : MxPart := { tile := t, cols := nn, len := kn, kg := 32, page := {}, va := 0, rs := lda, ks := 1, ko := ko, no := no, tr := tr }
  { parts := [((s.wsreg lead f.sa.toNat).toNat % 2 ^ 57, x)], tiles := (upto n).map (· + t),
    bad := re < ko + kn || oe < no + nn || 15 < t + n - 1 || !stV d || bitAt w 37 || acc < t + n }

/-- `mdual` (14 R270). Log 51 (DEDUCED, unsafe). -/
def State.mdualSpec (s : State) (f : Mx) (lead n : Nat) : ProdSpec :=
  let d := s.station (tkOfW lead) f.w.toNat
  let w := (s.wsreg lead f.sb.toNat).toNat
  let ldx := bits w 25 0
  let ldw := bits w 51 26
  let t := f.t.toNat
  let r := stR d
  let c := stC d
  let acc := match tget s.teams (tkOfW lead) with | some t => t.acc | none => 0
  let dw : MxPart := { tile := t, cols := c, len := r, kg := 32, page := {}, va := 0, rs := 1, ks := ldx }
  let dx : MxPart := { tile := t + n, cols := r, len := c, kg := 32, page := {}, va := 0, rs := ldw, ks := 1, tr := true }
  { parts := [((s.wsreg lead f.sa.toNat).toNat % 2 ^ 57, dw), ((s.wsreg lead (f.sa.toNat + 1)).toNat % 2 ^ 57, dx)],
    tiles := (upto (2 * n)).map (· + t),
    bad := 128 < r || 128 < c || 15 < t + 2 * n - 1 || !stV d || bits w 63 52 ≠ 0 || acc < t + 2 * n }

/-- The first pages of a product's operands: the parts whose page may be an operand's, with the K-group size, whether an MX
limit is broken, and the fault of lowest address (14 R267, R268). -/
def State.prodPages (s : State) (asid fmt : Nat) (ps : List (Nat × MxPart)) : (List MxPart × Bool × Option AccFault) × State :=
  ps.foldl (fun (r, s) x =>
    match s.mxBase asid x.1 with
    | (.error f, s) => ((r.1, r.2.1, lowerFault r.2.2 (some f)), s)
    | (.ok p, s) =>
      let ld := if x.2.ks = 1 then x.2.rs else x.2.ks
      let off := p.blk ≠ 0 && (mxE0 p x.1 % blkLen p.blk ≠ 0 || ld % blkLen p.blk ≠ 0)
      ((r.1 ++ [{ x.2 with page := p, va := x.1, kg := mxKg p.fmt fmt }], r.2.1 || off, r.2.2), s))
    (([], false, none), s)

/-- The elements of every part, by row, with the fault of lowest address. -/
def State.prodElems (s : State) (n : Nat) (ps : List MxPart) : Except AccFault (List (List Elem)) × State :=
  ps.foldl (fun (r, s) x =>
    match s.elemsAt x.page x.va ((x.offs n).flatMap id) accMx, r with
    | (.ok es, s), .ok l => (.ok (l ++ [es]), s)
    | (.ok _, s), .error f => (.error f, s)
    | (.error g, s), .ok _ => (.error g, s)
    | (.error g, s), .error f => (.error (if g.va < f.va then g else f), s))
    ((.ok [] : Except AccFault (List (List Elem))), s)

/-- The blocks of a row whose scales come from registers: none without `.rs`, or on a page that has none (14 R271). -/
def rsBlocks (rs : Bool) (row : MxPart) : Nat :=
  if rs && row.page.blk ≠ 0 then cdiv row.len (blkLen row.page.blk) else 0

/-- The row-streamed operand of a product: its last part. -/
def rowPart (ps : List MxPart) : MxPart :=
  (ps.getLast?).getD { tile := 0, cols := 0, len := 0, kg := 1, page := {}, va := 0, rs := 0, ks := 0 }

/-- The elements of a part, those of an operand whose scales come from registers without the page's scales (14 R271). -/
def rsElems (nb : Nat) (es : List Elem) : List Elem := if nb = 0 then es else es.map (fun e => { e with scale := none })

/-- An arrival at a gang instruction with `.rs`: the registers are read now, those that its operands need as they stand now
with their faults (13 R241, 14 R271). Log 50 (DEDUCED, unsafe). -/
def State.rsArrive (s : State) (m : Option ModW) (f : Mx) (spec : State → Nat → Nat → ProdSpec) (l : Lane) : Kept × Lane :=
  if !bitAt (flCode m) 0 then ({}, l)
  else
    let wk := wkOf l.tid
    let g := (s.wave wk).gang
    let lead := if isGang g then 32 * tkOfW wk + (gangWaves g).headD 0 else wk
    let x := spec s lead (if isGang g then gangN g else 1)
    let nb := match (s.prodPages (s.asidOf l.tid) 1 x.parts).1 with
      | (ps, false, none) => if x.bad then 0 else rsBlocks true (rowPart ps)
      | _ => 0
    let regs := rsRegs f.m.toNat nb
    let l := { l with t := { l.t with arrival := some { regs := l.t.regs, bad := l.t.poison } } }
    ({}, if regs.any (64 ≤ ·) then l else regs.foldl (fun l n => (l.rdReg n false).2) l)

/-- A product's start (14 R258, R267 to R272): checks, translation and pins; the waves go on, and the product runs
beside them. `spec` gives the operands from the leader and the number of members. Log 50 (DEDUCED, unsafe). -/
def State.prodStart (s : State) (m : Option ModW) (f : Mx) (spec : State → Nat → Nat → ProdSpec) (waves : List Nat) :
    Option State :=
  let lead := waves.headD 0
  let tk := tkOfW lead
  let n := waves.length
  let (pc, words) := s.meetWords lead
  let x := spec s lead n
  let d := s.station tk f.w.toNat
  let rs := bitAt (flCode m) 0
  if !s.banksHere tk || s.tilesBusy tk x.tiles || (stV d && stBsy d) then none
  else
    let s := waves.foldl (fun s w => s.joinStreams (s.waveOwners w)) s
    let set := if n = 1 then ParkSet.wave else .gang
    let a := s.wsreg lead f.sa.toNat
    let b := s.wsreg lead f.sb.toNat
    let low := (s.liveOf lead).headD 0
    let lt := s.thread (32 * lead)
    if x.bad then some (s.mxTrap waves 0x2D)
    else match s.prodPages (s.asidOf low) (stFmt d) x.parts with
      | ((ps, _, some g), s) =>
        let (r, s) := s.prodElems n ps
        some (s.mxPark waves set ((lowerFault (some g) (match r with | .error h => some h | .ok _ => none)).getD g) a b)
      | ((ps, off, none), s) =>
        let row := rowPart ps
        let nb := rsBlocks rs row
        let useRs : Bool := nb ≠ 0
        let regs := rsRegs f.m.toNat nb
        if off || regs.any (64 ≤ ·) then some (s.mxTrap waves 0x2D)
        else match s.prodElems n ps with
          | (.error g, s) => some (s.mxPark waves set g a b)
          | (.ok ess, s) =>
            let ess := (upto ess.length).zip ess |>.map (fun x => rsElems (if x.1 + 1 = ess.length then nb else 0) x.2)
            let (tr, s) := if useRs then s.rsRead (waves.flatMap s.liveOf) regs pc words else ([], s)
            if !tr.isEmpty then
              let s := (waves.flatMap s.liveOf).foldl (fun s t => s.modThread t (fun t => { t with stat := .rendezvous })) s
              some (s.deliverLanes tr)
            else
              let s := if rs && !useRs then s.flagThread (32 * lead) fILLMOD else s
              let scales := if useRs then
                  waves.flatMap (fun w => (upto 32).map (fun l =>
                    let t := 32 * w + l
                    rsBytes (if (s.liveOf w).contains t then some (s.thread t).arrived else none) f.m.toNat nb))
                else []
              let lines := dedup (ess.flatMap linesOfElems)
              let (g, s) := s.mxLoad waves row.page lines pc words
              let ps := (ps.zip ess).map (fun x => { x.1 with els := x.2, pages := s.elemPages x.1.page x.1.va ((x.1.offs n).flatMap id) })
              let ps := ps.map (fun q => if useRs && q.ks = 1 && q.tile = row.tile then { q with regs := true } else q)
              let p : Product :=
                { team := tk, waves := waves, pc := pc, words := words, tiles := x.tiles, station := f.w.toNat, pins := lines,
                  g := g, parts := ps, scales := scales, mode := lt.rm, hkey := lt.hkey, hctr := lt.hctr,
                  tid40 := logicalTid lt, flagTid := 32 * lead }
              let s := s.modCore (s.coreOf tk) (fun co => { co with products := co.products ++ [p] })
              some (s.fileWaves waves)

/-- K-group steps of a product (14 R269, R270). -/
def Product.steps (p : Product) : Nat := (p.parts.map (fun x => cdiv x.len x.kg)).foldl max 0

/-- The accumulators a team sees: its core's, or its own while they are out (20 R373). -/
def State.accOfTeam (s : State) (tk : Nat) : Tbl W32 :=
  let c := s.core (s.coreOf tk)
  if c.bankTeam = some tk then c.acc else match tget s.teams tk with | some t => t.accData | none => []

/-- The key of an accumulator element. -/
def accKey (tile r c : Nat) : Nat := 4096 * tile + 128 * r + c

/-- Accumulators changed. -/
def State.modAccs (s : State) (tk : Nat) (f : Tbl W32 → Tbl W32) : State :=
  let c := s.coreOf tk
  if (s.core c).bankTeam = some tk then s.modCore c (fun co => { co with acc := f co.acc })
  else s.modTeam tk (fun t => { t with accData := f t.accData })

/-- Row poison of a tile, and changed. -/
def State.rowPoisonOf (s : State) (tk tile : Nat) : W32 :=
  let c := s.core (s.coreOf tk)
  tgetD (if c.bankTeam = some tk then c.rowPoison else match tget s.teams tk with | some t => t.rowPoison | none => []) tile 0
/-- See `rowPoisonOf`. -/
def State.setRowPoison (s : State) (tk tile : Nat) (v : W32) : State :=
  let c := s.coreOf tk
  if (s.core c).bankTeam = some tk then s.modCore c (fun co => { co with rowPoison := tset co.rowPoison tile v })
  else s.modTeam tk (fun t => { t with rowPoison := tset t.rowPoison tile v })

/-- One accumulation (14 R269, 04 R83 to R85). Log 51 (DEDUCED, unsafe). -/
def accum (mode r : Nat) (acc : Nat) (sum : Val) (prods : List Val) : Res :=
  let a := decodeVal 1 acc
  let opp : Bool := match a, sum with | .inf x, .inf y => x != y | _, _ => false
  if a.isNan || sum.isNan || opp then nanRes 1 true
  else match a, sum with
    | .inf x, _ => (infBits 1 x, 0)
    | _, .inf y => (infBits 1 y, 0)
    | _, _ => sumRound 1 mode r false (a :: prods)

/-- The exact sum of products: a NaN, an infinity, or the finite sum. -/
def exactSum (ps : List Val) : Val :=
  if ps.any Val.isNan then .nan false
  else match ps.filter Val.isInf with
    | v :: r => if r.all (fun w => w.neg = v.neg) then v else .nan false
    | [] =>
      let d : Dy := ps.foldl (fun (a : Dy) (v : Val) => a.add v.dy) ⟨0, 0⟩
      .fin (if d.m = 0 then zeroSign 0 ps else d.m < 0) d.m.natAbs d.e

/-- The product of a streamed and a station element (14 R267, 03 R62). -/
def mxProd (af ab : Nat) (a : MxEl) (bf bb : Nat) (b : MxEl) : Val :=
  if af = 18 && bf = 18 then
    if (ab ≠ 0 && a.scale = 255) || (bb ≠ 0 && b.scale = 255) then .nan false
    else (lg6Mul a.code b.code).scale ((if ab = 0 then 0 else (a.scale : Int) - 127) + (if bb = 0 then 0 else (b.scale : Int) - 127))
  else mulVal (mxElVal af ab a) (mxElVal bf bb b)

/-- One K-group step of one part (14 R269): new accumulator values, flags, and the rows that used a poisoned value.
Log 51 (DEDUCED, unsafe). -/
def State.partStep (s : State) (p : Product) (x : MxPart) (q : Nat) : State :=
  if cdiv x.len x.kg ≤ q then s
  else
    let d := s.station p.team p.station
    let ks := (upto x.kg).map (· + q * x.kg) |>.filter (· < x.len)
    let blk := if x.regs then (if x.page.blk = 0 then 1 else x.page.blk) else x.page.blk
    let streamed (m k : Nat) : MxEl :=
      let e := (x.rows.getD m []).getD k { code := 0 }
      if x.regs then { e with scale := (p.scales.getD m []).getD (k / blkLen x.page.blk) 0x7F } else e
    let st (j k : Nat) : MxEl := if x.tr then s.stElem p.team d (x.no + j) (x.ko + k) else s.stElem p.team d (x.ko + k) (x.no + j)
    (upto (32 * p.waves.length)).foldl (fun s m =>
      let tile := x.tile + m / 32
      let row := m % 32
      let as := ks.map (streamed m)
      (upto x.cols).foldl (fun s j =>
        let bs := ks.map (st j)
        let prods := (as.zip bs).map (fun e => mxProd x.page.fmt blk e.1 (stFmt d) (stBlk d) e.2)
        let key := accKey tile row j
        let acc := tgetD (s.accOfTeam p.team) key 0
        let r := if p.mode = 5 then srRand p.hkey p.hctr p.tid40 3 (q % 2 ^ 16) key else 0
        let (v, fl) := accum p.mode r acc.toNat (exactSum prods) prods
        let s := s.modAccs p.team (fun t => tset t key (BitVec.ofNat 32 v))
        let s := s.flagThread p.flagTid fl
        if as.any (·.bad) || bs.any (·.bad) then
          s.setRowPoison p.team tile (s.rowPoisonOf p.team tile ||| BitVec.ofNat 32 (2 ^ row))
        else s) s) s

/-- One K-group step of a product. Log 107 (DEDUCED, unsafe). -/
def State.prodStep (s : State) (p : Product) : State := p.parts.foldl (fun s x => s.partStep p x p.step) s

/-- The steps from the present one to the end. Log 107 (DEDUCED, unsafe). -/
def State.prodRest (s : State) (p : Product) : Nat → State
  | 0 => s
  | k + 1 => if p.steps ≤ p.step then s else (s.prodStep p).prodRest { p with step := p.step + 1 } k

/-- MMA (R269). -/
def execMma (m : Option ModW) (f : Mx) (s : State) : Host.Outcome State Fault Refusal :=
  s.crossOpt 0x163 m (.mx f) false (s.rsArrive m f (fun s l n => s.mmaSpec f false l n))
    (fun s wk => s.gangMeet wk (fun s ws => s.prodStart m f (fun s l n => s.mmaSpec f false l n) ws))

/-- MMAT (R269). -/
def execMmat (m : Option ModW) (f : Mx) (s : State) : Host.Outcome State Fault Refusal :=
  s.crossOpt 0x164 m (.mx f) false (s.rsArrive m f (fun s l n => s.mmaSpec f true l n))
    (fun s wk => s.gangMeet wk (fun s ws => s.prodStart m f (fun s l n => s.mmaSpec f true l n) ws))

/-- MDUAL (R270). -/
def execMdual (m : Option ModW) (f : Mx) (s : State) : Host.Outcome State Fault Refusal :=
  s.crossOpt 0x165 m (.mx f) false (s.rsArrive m f (fun s l n => s.mdualSpec f l n))
    (fun s wk => s.gangMeet wk (fun s ws => s.prodStart m f (fun s l n => s.mdualSpec f l n) ws))

/-- GANG (R261). -/
def execGang (m : Option ModW) (f : Mx) (s : State) : Host.Outcome State Fault Refusal :=
  s.crossOpt 0x160 m (.mx f) false (fun l => ({}, l)) (fun s wk => s.gangRun f wk)

/-- STATION (R265). -/
def execStation (m : Option ModW) (f : Mx) (s : State) : Host.Outcome State Fault Refusal :=
  s.crossOpt 0x161 m (.mx f) false (fun l => ({}, l)) (fun s wk => s.stationRun f wk)

/-- UNSTATION (R266). -/
def execUnstation (m : Option ModW) (f : Mx) (s : State) : Host.Outcome State Fault Refusal :=
  s.crossOpt 0x162 m (.mx f) false (fun l => ({}, l)) (fun s wk => s.unstationRun f wk)

/-! ### Accumulators -/

/-- An accumulator instruction over tiles T to T + n - 1 of a wave: the limits, the wait for products, then
`body` (14 R275, 18 R344), whose accesses stand before every later one of the wave (13 R244). It answers whether the
instruction has executed. -/
def State.accRun (s : State) (wk t n : Nat) (bad : Bool) (body : State → Option (State × Bool)) : Option State :=
  let tk := tkOfW wk
  let (pc, words) := s.meetWords wk
  let tiles := (upto n).map (· + t)
  let acc := match tget s.teams tk with | some t => t.acc | none => 0
  if bad || 16 < t + n || acc < t + n then some ((s.joinStreams (s.waveOwners wk)).mxTrap [wk] 0x2D)
  else if !s.banksHere tk || s.tilesBusy tk tiles then none
  else match body (s.joinStreams (s.waveOwners wk)) with
    | none => none
    | some (s, false) => some s
    | some (s, true) =>
      let s := s.joinStreams (s.waveOwners wk)
      some (if (s.liveOf wk).any (fun t => (s.thread t).stat = .parked) then s else s.fileWave wk (afterPc pc words))

/-- AZERO (R275). -/
def execAzero (m : Option ModW) (f : Mx) (s : State) : Host.Outcome State Fault Refusal :=
  s.crossOpt 0x166 m (.mx f) false (fun l => ({}, l)) (fun s wk =>
    let n := f.m.toNat + 1
    let t := f.t.toNat
    s.accRun wk t n false (fun s =>
      let tk := tkOfW wk
      let s := s.modAccs tk (fun a => a.filter (fun e => !(t ≤ e.1 / 4096 && e.1 / 4096 < t + n)))
      some ((upto n).foldl (fun s i => s.setRowPoison tk (t + i) 0) s, true)))

/-- The byte displacement of an accumulator element in memory (14 Table 14-7). -/
def accDisp (tr : Bool) (pitch r c : Nat) : Nat := if tr then c * pitch + 4 * r else r * pitch + 4 * c

/-- Whether an element lies outside the package: in the host window or another package's memory (12 R222). -/
def isFar (p : Page) : Bool := p.bits = 57

/-- The elements of a tile in memory, in row order, or the fault: binary32 or raw pages, and the host window (14 Table 14-7, 12
R222). Another package's page is checked there. -/
def State.accElems (s : State) (asid va pitch : Nat) (tr write : Bool) :
    Except AccFault (List (Page × Elem)) × State :=
  let one (x : List (Page × Elem) × Option AccFault × State) (i : Nat) : List (Page × Elem) × Option AccFault × State :=
    let (l, fl, s) := x
    let v := (va + accDisp tr pitch (i / 128) (i % 128)) % 2 ^ 57
    let fail (s : State) (g : AccFault) : List (Page × Elem) × Option AccFault × State :=
      (l, (match fl with | some h => if g.va < h.va then some g else some h | none => some g), s)
    match s.reach asid v write with
    | (.error k, s) => fail s ⟨k, accMx, v⟩
    | (.ok (_, p), s) =>
      if isFar p then ((p, { pa := v, bit := 8 * v, width := 32 }) :: l, fl, s)
      else if !(p.fmt = 1 || p.fmt = 22) then fail s ⟨kFormatAccess, accMx, v⟩
      else match s.place p v v 0 32 false write accMx with
        | (.error g, s) => fail s g
        | (.ok e, s) => ((p, e) :: l, fl, s)
  if va % 4 ≠ 0 then (.error ⟨kMisaligned, accMx, va⟩, s)
  else
    let (l, fl, s) := (upto 4096).foldl one (([] : List (Page × Elem)), (none : Option AccFault), s)
    match fl with
    | some g => (.error g, s)
    | none => (.ok l.reverse, s)

/-- The binary32 of an element: its map applied, exact in binary32; raw bytes of a mapped tile are permuted.
Log 52 (DESIGN CHOICE, safe). -/
def State.readAcc (s : State) (die : Nat) (p : Page) (e : Elem) : Option Nat :=
  let rd := s.viewByte die
  match e.tile with
  | some t =>
    let h := readHdr rd t
    if !h.valid t.page.tl t.page.fmt then none
    else if p.fmt = 22 then some (readPermuted rd t e.idx 4)
    else some (toFloat 1 0 0 (tileVal rd t h 0 e.idx)).1
  | none => some (readBits rd e)

/-- Where an element outside the package goes. -/
def State.farTarget (s : State) (asid va : Nat) : Target := match s.vaTarget asid va with | .ok t => t | .error _ => .host

/-- What an accumulator access of a wave has. -/
def State.accAcc (s : State) (wk : Nat) (kind : AccKind) (p : Page) : Acc :=
  let tk := tkOfW wk
  let (pc, words) := s.meetWords wk
  { gid := 0, owner := .uni wk, core := s.coreOf tk, die := s.dieOfTeam tk, team := tk, kind := kind, stage := .issued, op := 5,
    pc := pc, words := words, asid := p.asid, page := p, target := .pkg p.die, tids := s.liveOf wk,
    kept := { pc := pc, words := words } }

/-- The reads of an `ald`'s elements outside the package, of one wave. -/
def State.farReads (s : State) (wk : Nat) (es : List Elem) (asid : Nat) : State :=
  es.foldl (fun s e =>
    let (g, s) := s.addBlock { s.accAcc wk .load (farPage asid) with tyc := 1 } (s.farTarget asid e.pa) e.pa 4
    s.modWave wk (fun w => { w with far := w.far ++ [g] })) (s.modWave wk (fun w => { w with far := [] }))

/-- Whether the reads in flight of a wave are those of an `ald`'s elements outside the package. -/
def State.farAsked (s : State) (wk : Nat) (es : List Elem) : Bool :=
  let (pc, _) := s.meetWords wk
  ((s.wave wk).far.filterMap (fun g => tget s.accs g)).map (fun a => (a.va.toNat, a.pc)) = es.map (fun e => (e.pa, pc))

/-- The words of an `ald`'s elements outside the package with their poison: none while one is to come. -/
def State.farWords (s : State) (wk : Nat) (es : List Elem) : Option (Except (Nat × Nat) (List (Nat × Bool))) :=
  if es.isEmpty then some (.ok [])
  else (s.blocks (s.wave wk).far).map (fun r => match r with
    | .error f => .error f
    | .ok _ => .ok (((s.wave wk).far.filterMap (fun g => tget s.accs g)).map (fun a => (bytesNat (a.cells.map (·.2)), a.bad))))

/-- A tile read: its elements' words in row order, and the rows of them that poison fills. A clean row stays poisoned (20 R382). -/
def State.fillTile (s : State) (tk tile : Nat) (vals : List (Nat × Bool)) : State :=
  let bad := (upto 32).foldl (fun b r => if ((vals.drop (128 * r)).take 128).any (·.2) then b + 2 ^ r else b) 0
  let s := s.modAccs tk (fun acc => ((upto 4096).zip vals).foldl (fun acc x => tset acc (4096 * tile + x.1) (BitVec.ofNat 32 x.2.1)) acc)
  s.setRowPoison tk tile (s.rowPoisonOf tk tile ||| BitVec.ofNat 32 bad)

/-- Two lists of words in the order of their elements, `far` saying which one an element takes. -/
def merge2 : List Bool → List (Nat × Bool) → List (Nat × Bool) → List (Nat × Bool)
  | [], _, _ => []
  | true :: l, xs, y :: ys => y :: merge2 l xs ys
  | false :: l, x :: xs, ys => x :: merge2 l xs ys
  | _ :: l, xs, ys => (0, false) :: merge2 l xs ys

/-- `ald` (14 Table 14-7): it reads when its program order lets it, all at the die clock; its elements outside the package are asked
for first, each with a read of its own. Log 50 (DEDUCED, unsafe). -/
def State.aldRun (s : State) (f : Mx) (wk : Nat) : Option State :=
  let va := (s.wsreg wk f.sa.toNat).toNat % 2 ^ 57
  let pitch := (s.wsreg wk f.sb.toNat).toNat
  let tk := tkOfW wk
  let die := s.dieOfTeam tk
  let asid := s.asidOf ((s.liveOf wk).headD 0)
  let park (s : State) (g : AccFault) : Option (State × Bool) :=
    some (s.mxPark [wk] .wave g (s.wsreg wk f.sa.toNat) (s.wsreg wk f.sb.toNat), true)
  s.accRun wk f.t.toNat 1 (pitch % 4 ≠ 0) (fun s =>
    match s.accElems asid va pitch (bitAt f.m.toNat 0) false with
    | (.error g, s) => park s g
    | (.ok es, s) =>
      let near := es.filter (fun e => !isFar e.1)
      let far := (es.filter (fun e => isFar e.1)).map (·.2)
      if !far.isEmpty && !s.farAsked wk far then some ((s.dropBlocks (s.wave wk).far).farReads wk far asid, false)
      else match s.farWords wk far with
      | none => none
      | some r =>
        let lines := linesOfElems (near.map (·.2))
        let held := s.snoopsOf lines false
        let a : Acc := { s.accAcc wk .load ((near.headD ({}, {})).1) with lines := lines }
        let (g, t) := s.addAcc a
        let a := { a with gid := g }
        if !t.sharedReady a || t.lineStall lines g then none
        else if !held.isEmpty then some (s.snoop held false, false)
        else
          let s := (t.dropBlocks (s.wave wk).far).modWave wk (fun w => { w with far := [] })
          let vals := near.map (fun e => s.readAcc die e.1 e.2)
          match r, (near.zip vals).find? (fun x => x.2.isNone) with
          | .error (k, v), _ => park (s.finishAcc a 0) ⟨k, accMx, v⟩
          | .ok _, some (e, _) =>
            park (s.finishAcc a 0) ⟨kHeaderInvalid, accMx, match e.2.tile with | some t => t.hdrVa | none => 0⟩
          | .ok ws, none =>
            let t := (s.die die).clock
            let got := (near.zip vals).map (fun x => (x.2.getD 0, s.poisoned (elemLines x.1.2)))
            let s := s.readDone die t (pagesOfElems ((near.map (·.1)).eraseDups) (near.map (·.2))) (near.flatMap (fun e => elemRange e.1 e.2)) lines (clusterOf (s.coreOf tk))
            some ((s.finishAcc a t).fillTile tk f.t.toNat (merge2 (es.map (fun e => isFar e.1)) got ws), true))

/-- ALD (R275). -/
def execAld (m : Option ModW) (f : Mx) (s : State) : Host.Outcome State Fault Refusal :=
  s.crossOpt 0x167 m (.mx f) false (fun l => ({}, l)) (fun s wk => s.aldRun f wk)

/-- The value an accumulator element shows: a free value in a poisoned row (14 R274, log entry 3).
Log 52 (DESIGN CHOICE, safe). -/
def State.accValue (s : State) (tk tile r c : Nat) : W32 × State :=
  if (s.rowPoisonOf tk tile).getLsbD r then
    let (v, s) := s.takeFree
    (lo32 v, s)
  else (tgetD (s.accOfTeam tk) (accKey tile r c) 0, s)

/-- The writes of `ast`: the elements grouped by line and tile (14 Table 14-7, 11 R216). -/
def astGroups (es : List (Page × Elem)) : List (Nat × Option TileRef) :=
  (es.map (fun e => (lineOf e.2.pa, e.2.tile))).eraseDups

/-- `ast` (14 Table 14-7): stores of the uniform stream, one write for each line, and one for each element outside the package. -/
def State.astRun (s : State) (f : Mx) (wk : Nat) : Option State :=
  let va := (s.wsreg wk f.sa.toNat).toNat % 2 ^ 57
  let pitch := (s.wsreg wk f.sb.toNat).toNat
  let tk := tkOfW wk
  let tile := f.t.toNat
  s.accRun wk tile 1 (pitch % 4 ≠ 0) (fun s =>
    match s.accElems (s.asidOf ((s.liveOf wk).headD 0)) va pitch (bitAt f.m.toNat 0) true with
    | (.error g, s) => some (s.mxPark [wk] .wave g (s.wsreg wk f.sa.toNat) (s.wsreg wk f.sb.toNat), true)
    | (.ok es, s) =>
      let (vals, s) := (upto 4096).foldl (fun (l, s) i =>
        let (v, s) := State.accValue s tk tile (i / 128) (i % 128)
        (v :: l, s)) (([] : List W32), s)
      let xs := (upto 4096).zip (es.zip vals.reverse)
      let bad (i : Nat) : Bool := (s.rowPoisonOf tk tile).getLsbD (i / 128)
      let near := xs.filter (fun x => !isFar x.2.1.1)
      let far := xs.filter (fun x => isFar x.2.1.1)
      let s := (astGroups (near.map (·.2.1))).foldl (fun s gr =>
        let mine := near.filter (fun x => lineOf x.2.1.2.pa = gr.1 && x.2.1.2.tile = gr.2)
        let p := match mine with | x :: _ => x.2.1.1 | [] => {}
        (s.addAcc { s.accAcc wk .edit p with
            elem := { tile := gr.2 }, lines := dedup (gr.1 :: (match gr.2 with | some t => tileLines t | none => [])),
            bad := mine.any (fun x => bad x.1), cells := mine.flatMap (fun x => cellsAt x.2.1.2.pa (natBytes x.2.2.toNat 4)) }).2) s
      let s := far.foldl (fun s x =>
        let v := x.2.1.2.pa
        (s.addAcc { s.accAcc wk .store x.2.1.1 with
            va := BitVec.ofNat 57 v, target := s.farTarget x.2.1.1.asid v, elem := x.2.1.2, lines := [lineOf v], raw := true,
            ty := 12, tyc := 1, data := x.2.2.setWidth 64, bad := bad x.1 }).2) s
      some (s.voidIdem tk, true))

/-- AST (R275). -/
def execAst (m : Option ModW) (f : Mx) (s : State) : Host.Outcome State Fault Refusal :=
  s.crossOpt 0x168 m (.mx f) false (fun l => ({}, l)) (fun s wk => s.astRun f wk)

/-- ASCL (R275). Log 107 (DEDUCED, unsafe). -/
def execAscl (m : Option ModW) (f : Mx) (s : State) : Host.Outcome State Fault Refusal :=
  s.crossOpt 0x169 m (.mx f) false (fun l => ({}, l)) (fun s wk =>
    let tk := tkOfW wk
    let tile := f.t.toNat
    let e := intVal true 9 (s.wsreg wk f.sb.toNat).toNat
    s.accRun wk tile 1 false (fun s =>
      let (fl, acc) := (s.accOfTeam tk).foldl (fun (fl, acc) x =>
        if x.1 / 4096 = tile then
          let r : Res := match decodeVal 1 x.2.toNat with
            | .nan sg => nanRes 1 sg
            | .inf n => (infBits 1 n, 0)
            | .fin n mm ee => if mm = 0 then (x.2.toNat, 0) else roundFloat 1 0 0 true n (.dy mm (ee + e))
          (fl ||| r.2, tset acc x.1 (BitVec.ofNat 32 r.1))
        else (fl, acc)) ((0 : W32), s.accOfTeam tk)
      some ((s.modAccs tk (fun _ => acc)).flagThread (32 * wk) fl, true)))

/-- AREAD (R275): the sa field names the first lane register. Log 52 (DESIGN CHOICE, safe). -/
def execAread (m : Option ModW) (f : Mx) (s : State) : Host.Outcome State Fault Refusal :=
  s.crossOpt 0x16A m (.mx f) false (fun l => ({}, l)) (fun s wk =>
    let tk := tkOfW wk
    let tile := f.t.toNat
    let n := f.m.toNat + 1
    let c0 := bits (s.wsreg wk f.sb.toNat).toNat 6 0
    let vd := f.sa.toNat
    s.accRun wk tile 1 (128 < c0 + n || 64 < vd + n) (fun s =>
      some ((s.liveOf wk).foldl (fun s tid =>
        let r := laneOf tid
        let bad := (s.rowPoisonOf tk tile).getLsbD r
        (upto n).foldl (fun s j =>
          let (v, s) := s.accValue tk tile r (c0 + j)
          s.modThread tid (fun t =>
            let t := t.setReg (vd + j) v
            if bad then { t with poison := t.poison ||| BitVec.ofNat 64 (2 ^ (vd + j)) } else t)) s) s, true)))

/-- Whether a wave's matrix work has completed (14 R276). -/
def State.mwaitDone (s : State) (wk : Nat) : Bool :=
  !(s.products (tkOfW wk)).any (fun p => p.waves.contains wk) && !s.stationLoads.any (fun x => x.wk = wk) &&
  !s.accs.any (fun a => a.2.owner = .uni wk && (a.2.kind = .edit || a.2.kind = .store) && a.2.op = 5)

/-- MWAIT (R276). -/
def execMwait (m : Option ModW) (f : Mx) (s : State) : Host.Outcome State Fault Refusal :=
  s.crossOp 0x16B m (.mx f) false (fun l => ({}, l)) (fun s wk =>
    let (pc, words) := s.meetWords wk
    let s := s.joinStreams (s.waveOwners wk)
    if s.mwaitDone wk then s.fileWave wk (afterPc pc words)
    else
      let s := s.modThreads (s.liveOf wk) (fun _ t => { t with kept := none })
      s.addWait { wk := wk, tids := s.liveOf wk, pc := pc, next := afterPc pc words, what := .mwait })

/-! ### Interruption -/

/-- A product's element replaced on its core. -/
def State.setProduct (s : State) (c i : Nat) (p : Product) : State := s.modCore c (fun co => { co with products := lset co.products i p })

/-- One K-group step of a product whose team is switched out or halted (14 R273); one whose operands are not read yet
has nothing to finish. -/
def State.interruptProduct (s : State) (c i : Nat) : State :=
  match (s.core c).products[i]? with
  | none => s
  | some p => if !p.read || p.steps ≤ p.step then s else (s.prodStep p).setProduct c i { p with step := p.step + 1 }

/-- The matrix-progress state of member `g` of a product (14 Table 14-6). -/
def mprogOf (p : Product) (g : Nat) : BitVec 128 := BitVec.ofNat 128 (1 + 2 * g + p.step * 2 ^ 8 + p.pc.toNat * 2 ^ 64)

/-- Every product of some waves interrupted, with its progress written in each member wave (14 R273). -/
def State.interruptWaves (s : State) (c : Nat) (hit : Nat → Bool) : State :=
  (upto (s.core c).products.length).foldl (fun s i =>
    match (s.core c).products[i]? with
    | none => s
    | some p =>
      if !p.waves.any hit then s
      else
        let s := s.interruptProduct c i
        let p := ((s.core c).products[i]?).getD p
        ((upto p.waves.length).zip p.waves).foldl (fun s x => s.modWave x.2 (fun w => { w with mprog := mprogOf p x.1 })) s) s

/-- BRK (R299, R378): the wave halts, or traps with `BREAK`. Log 43 (DEDUCED, unsafe). -/
def execBrk (m : Option ModW) (f : Sys) (s : State) : Host.Outcome State Fault Refusal :=
  s.uniOp 0x1E4 m (.sys f) false .sheaf (fun h words fr s =>
    let tk := tkOf (fr.headD 0)
    if s.debugged (s.vfOf tk) (s.dieOfTeam tk) then
      ((s.interruptWaves (s.coreOf tk) (· = wkOf (fr.headD 0))).haltWave (wkOf (fr.headD 0)) h.tids, some (afterPc h.pc words))
    else s.fragTrap h fr tBreak h.pc words (f.imm.setWidth 64))

end Sys2Proof.Machine
end

