-- ==== Sys2Proof/Machine/TileInstr.lean ====
section
/-! DEFINITION. Tile header instructions and `stream` (15 R277 to R281, 13 R253 to R256). -/

namespace Sys2Proof.Machine

/-- The edit of a tile instruction, numbered `tfill` 0, `taff` 1, `tclamp` 2, `tperm` 3, `tmat` 4, from its
parameter word; none for a word that breaks 15 Table 15-2. -/
def editOf (op : Nat) (w : W64) : Option Edit :=
  let lo := (lo32 w).toNat
  let hi := (hi32 w).toNat
  if op = 0 then (if hi = 0 then some (.fill lo) else none)
  else if op = 1 then some (.aff lo hi f32NegInf f32PosInf)
  else if op = 2 then some (.aff 0x3F800000 0 lo hi)
  else if op = 3 then (if bits w.toNat 63 60 = 0 then some (.perm (bits w.toNat 47 0) (bits w.toNat 59 48)) else none)
  else some .mat

/-- How a tile instruction of a fragment goes on: it waits for its writes, traps, or parks. -/
inductive TileEnd where
  | wait (gids : List Nat)
  | trap
  | fault (f : AccFault)
  deriving DecidableEq, Repr

/-- A tile of a range translated: its payload page and its header's, `hb` the region's HBASE; the fault is the one of lower
address (15 R279 step 2). -/
def State.tileAtIndex (s : State) (asid region g hb i : Nat) : Except AccFault TileRef × State :=
  let va := (region + i * g) % 2 ^ 57
  let hva := va / 2 ^ 44 * 2 ^ 44 + (hb + 32 * i) % 2 ^ 44
  let (h, s) := s.translate asid hva true false
  let head : Option AccFault := match h with | .error k => some ⟨k, 7, hva⟩ | .ok _ => none
  match s.translate asid va true false with
  | (.error k, s) => (.error ((lowerFault (some ⟨k, 7, va⟩) head).getD ⟨k, 7, va⟩), s)
  | (.ok p, s) => match (if p.map then head else lowerFault (some ⟨kFormatAccess, 7, va⟩) head) with
    | some f => (.error f, s)
    | none => match s.withHeader (tileAt p va) true with
      | (.error (k, h), s) => (.error ⟨k, 7, h⟩, s)
      | (.ok t, s) => (.ok t, s)

/-- The tiles of a range, or the fault of lowest address. Log 20 (DEDUCED, unsafe). Log 46 (DEDUCED, unsafe). -/
def State.tilesOf (s : State) (asid region g hb i n : Nat) : Except AccFault (List TileRef) × State :=
  let (l, f, s) := (upto n).foldl (fun (x : List TileRef × Option AccFault × State) j =>
    match x.2.2.tileAtIndex asid region g hb (i + j) with
    | (.ok t, s) => (t :: x.1, x.2.1, s)
    | (.error e, s) => (x.1, (match x.2.1 with | some h => if e.va < h.va then some e else some h | none => some e), s))
    (([] : List TileRef), (none : Option AccFault), s)
  match f with
  | some e => (.error e, s)
  | none => (.ok l.reverse, s)

/-- A tile instruction of one fragment from tile `start` of its range on (15 R279): `a` the VA, `b` the parameter
word, `n` the count, `rnd` the rounding code written. Log 20 (DEDUCED, unsafe). -/
def State.tileOp (s : State) (fr : List Nat) (op : Nat) (a b n : W64) (rnd start : Nat) (pc : Va) (words : W64) :
    State × TileEnd :=
  let tid := fr.headD 0
  let wk := wkOf tid
  let tk := tkOf tid
  let asid := s.asidOf tid
  let va := a.toNat % 2 ^ 57
  let n := n.toNat
  if n < 1 || 65536 < n then (s, .trap)
  else match s.vaTarget asid va with
  | .error k => (s, .fault ⟨k, 7, va⟩)
  | .ok (.pkg d) =>
    let re := s.regionEntry d asid (vaRegion va)
    let tg := bits re 111 108
    let g := 2 ^ (tg + 2)
    let i := vaOff va / g
    if !bitAt re 0 || 14 ≤ tg then (s, .fault ⟨kRegionInvalid, 7, va⟩)
    else if 2 ^ 38 / g < i + n then (s, .trap)
    else match s.tilesOf asid (va / 2 ^ 38 * 2 ^ 38) g (bits re 107 64) i n with
    | (.error f, s) => (s, .fault f)
    | (.ok ts, s) =>
      match editOf op b with
      | none => (s, .trap)
      | some e =>
        if !ts.all (fun t => e.ok t.page.tl t.page.fmt) then (s, .trap)
        else
          let (l, s) := (((upto n).zip ts).drop start).foldl (fun (l, s) x =>
            let acc : Acc :=
              { gid := 0, owner := .uni wk, core := s.coreOf tk, die := s.dieOfTeam tk, team := tk, kind := .edit, stage := .issued,
                pc := pc, words := words, va := BitVec.ofNat 57 (x.2.page.va), asid := asid, page := x.2.page, target := .pkg d,
                elem := { pa := x.2.pay, tile := some x.2 }, lines := tileLines x.2, op := op, data := b, mode := rnd, tileNo := x.1 }
            let (gid, s) := State.addAcc s acc
            (l ++ [gid], s)) (([] : List Nat), s)
          (s.voidIdem tk, .wait l)
  | .ok _ => (s, .fault ⟨kFormatAccess, 7, va⟩)

/-- The fragment after a tile instruction: it waits, traps with `MAP_PARAM`, or parks; `go` is how a trap reaches
it. Log 20 (DEDUCED, unsafe). Log 35 (DEDUCED, unsafe). -/
def State.tileEnd (s : State) (fr : List Nat) (a b n : W64) (start : Nat) (pc : Va) (words : W64) (e : TileEnd) : State :=
  match e with
  | .wait gids =>
    s.addWait { wk := wkOf (fr.headD 0), tids := fr, pc := pc, next := afterPc pc words, what := .tiles gids,
                kept := some { pc := pc, words := words, a := a, b := b, x := n } }
  | .trap => s.deliver fr tMapParam pc pc words 0
  | .fault f => s.parkFrag fr f { pc := pc, words := words, a := a, b := b, x := n, tile := start } b

/-- A tile instruction (15 R277 to R280). -/
def tileInstr (p op : Nat) (m : Option ModW) (f : Th) (s : State) : Host.Outcome State Fault Refusal :=
  s.uniOp p m (.th f) false .sheaf (fun h words fr s =>
    let a := s.sreg fr f.sa.toNat
    let b := if op = 4 then 0 else s.sreg fr f.sb.toNat
    let n := s.sreg fr f.sc.toNat
    let (s, e) := s.tileOp fr op a b n (modeOf m (s.thread (fr.headD 0))) 0 h.pc words
    ((match e with | .trap => s.saveSheaf h | _ => s).tileEnd fr a b n 0 h.pc words e, none))

/-- TFILL (R279). -/
def execTfill (m : Option ModW) (f : Th) (s : State) := tileInstr 0x180 0 m f s
/-- TAFF (R279). -/
def execTaff (m : Option ModW) (f : Th) (s : State) := tileInstr 0x181 1 m f s
/-- TCLAMP (R279). -/
def execTclamp (m : Option ModW) (f : Th) (s : State) := tileInstr 0x182 2 m f s
/-- TPERM (R279). -/
def execTperm (m : Option ModW) (f : Th) (s : State) := tileInstr 0x183 3 m f s
/-- TMAT (R279). -/
def execTmat (m : Option ModW) (f : Th) (s : State) := tileInstr 0x184 4 m f s

/-- `tread` of a fragment (15 R281): a load of the uniform stream whose result fills four registers. -/
def State.treadOp (s : State) (fr : List Nat) (sd : Nat) (b : W64) (pc : Va) (words : W64) : State × UniEnd :=
  let tid := fr.headD 0
  let wk := wkOf tid
  let asid := s.asidOf tid
  let va := b.toNat % 2 ^ 57
  match s.translate asid va false false with
  | (.error k, s) => (s, .fault ⟨k, 7, va⟩)
  | (.ok p, s) =>
    if !p.map then (s, .fault ⟨kFormatAccess, 7, va⟩)
    else match s.withHeader (tileAt p va) false with
      | (.error (k, h), s) => (s, .fault ⟨k, 7, h⟩)
      | (.ok t, s) =>
        let x := s.accOf (.uni wk) tid .load (.rlx, .none, 7, false) pc words asid t.hdrVa 0
        let (g, s) := s.addAcc { x with page := { p with pte := t.hdrPte, map := false }, target := .pkg p.die,
                                        elem := { pa := t.hdr, bit := 8 * t.hdr, width := 256 }, lines := [lineOf t.hdr],
                                        raw := true, op := 1, dst := some sd, stage := .issued }
        (s.modWave wk (fun w => { w with pend := (upto 4).foldl (fun q i => tset q (sd + i) g) w.pend }), .done)

/-- TREAD (R281). Log 55 (DEDUCED, unsafe). -/
def execTread (m : Option ModW) (f : Th) (s : State) : Host.Outcome State Fault Refusal :=
  s.uniOp 0x185 m (.th f) false .run (fun h words fr s =>
    let b := s.sreg fr f.sb.toNat
    match s.treadOp fr f.sa.toNat b h.pc words with
    | (s, .done) => (s, some (afterPc h.pc words))
    | (s, .fault x) => (s.parkFrag fr x { pc := h.pc, words := words, a := 0, b := b } b, none))

/-- The gates of a release by some threads and their wave's uniform stream: each completes when every earlier
access of its stream is performed at `.sys` (13 R256, 15 R294). -/
def State.addGates (s : State) (os : List Owner) (core die team : Nat) : List Nat × State :=
  os.foldl (fun (l, s) o =>
    let (g, s) := State.addAcc s (fenceOf o core die team .rlx 7)
    (l ++ [g], s)) (([] : List Nat), s)

/-- STREAM (R256): one stream for each fragment; the fragment goes on. Log 55 (DEDUCED, unsafe). -/
def execStream (m : Option ModW) (f : Th) (s : State) : Host.Outcome State Fault Refusal :=
  s.uniOp 0x186 m (.th f) false .run (fun h words fr s =>
    let tid := fr.headD 0
    let wk := wkOf tid
    let tk := tkOf tid
    let die := s.dieOfTeam tk
    let lt := s.thread (32 * wk)
    let va (n : Nat) : Va := (s.sreg fr n).setWidth 57
    let (gs, s) := s.addGates (fr.map Owner.thread ++ [.uni wk]) (s.coreOf tk) die tk
    let j : StreamJob :=
      { wk := wk, tids := fr, die := die, asid := s.asidOf tid, vf := s.vfOf tk, dst := va f.sa.toNat, src := va f.sb.toNat,
        desc := va f.sc.toNat, k := f.k.toNat, rnd := modeOf m lt, hkey := lt.hkey, hctr := lt.hctr, tid40 := logicalTid lt,
        flagTid := 32 * wk, gates := gs, sid := gs.headD 0 }
    (({ s with streams := s.streams ++ [j] } : State).voidIdem tk, some (afterPc h.pc words)))

end Sys2Proof.Machine
end

