-- ==== Sys2Proof/Machine/Sync.lean ====
section
/-! DEFINITION. Barriers, `yield`, work lists, waits and `aflush` (15 R282 to R292, 18 R343 to R345, R354 to R356). -/

namespace Sys2Proof.Machine

/-! ### Sets of a core -/

/-- A team's effective priority (18 R343). -/
def State.effPrio (s : State) (tk : Nat) : Nat :=
  match tget s.teams tk with
  | some t => if t.boosted then 7 else (match tget s.launches t.launch with | some l => l.prio | none => 0)
  | none => 0

/-- The teams of a core in a place. -/
def State.teamsAt (s : State) (c : Nat) (pl : Place) : List Nat :=
  (s.teams.filter (fun t => t.2.core = some c && t.2.place = pl)).map (·.1)

/-- The highest effective priority among teams. -/
def State.topPrio (s : State) (ts : List Nat) : Nat := (ts.map s.effPrio).foldl max 0

/-! ### Barriers -/

/-- The fences of an arrival (07 R139): one for each thread, and one for the uniform stream. -/
def State.barFences (s : State) (fr : List Nat) (scope : Nat) : List Nat × State :=
  let tk := tkOf (fr.headD 0)
  (fr.map Owner.thread ++ [Owner.uni (wkOf (fr.headD 0))]).foldl (fun (l, s) o =>
    let (g, s) := State.addAcc s (fenceOf o (s.coreOf tk) (s.dieOfTeam tk) tk .sc scope)
    (l ++ [g], s)) (([] : List Nat), s)

/-- The user-level threads of a fragment, the others having parked as `NESTED` (20 R365). -/
def State.userOnly (s : State) (fr : List Nat) (pc : Va) (words : W64) : State × List Nat :=
  let sup := fr.filter (fun t => (s.thread t).sup)
  (if sup.isEmpty then s else s.parkNested sup pc words, fr.filter (fun t => !(s.thread t).sup))

/-- The scope of a level's barrier. -/
def State.barScope (s : State) (tk k : Nat) : Nat := match s.launchOf tk with | some l => l.scopeOf k | none => 7

/-- BAR (R283, R139): its threads wait; the arrival counts once their implied fences have completed (R354 to R356). -/
def execBar (m : Option ModW) (f : Sy) (s : State) : Host.Outcome State Fault Refusal :=
  let k := bits f.imm.toNat 2 0
  let id := bits f.imm.toNat 10 3
  s.uniOp 0x1A0 m (.sy f) false .sheaf (fun h words fr s =>
    let tk := tkOf (fr.headD 0)
    let (s, fr) := s.userOnly fr h.pc words
    if fr.isEmpty then (s, none)
    else
      let top := match s.launchOf tk with | some l => l.top | none => 1
      if top < k then s.fragTrap h fr tBarLevel h.pc words 0
      else
        let wide : Bool := match s.launchOf tk with | some l => decide (l.teamLevel < k) | none => false
        let s := if wide then s.voidIdem tk else s
        let (fs, s) := s.barFences fr (s.barScope tk k)
        (s.addWait { wk := wkOf (fr.headD 0), tids := fr, pc := h.pc, next := afterPc h.pc words, what := .bar k id, fences := fs,
                     kept := some { pc := h.pc, words := words } }, none))

/-- Arrivals at a `barw` entry: how many threads join each phase, from the phase and count of the entry (15 R284).
Log 57 (DEDUCED, unsafe). -/
def barwSplit (n : Nat) : Nat → Nat → List Nat → Nat → List (Nat × List Nat) × Nat × Nat
  | ph, ar, tids, 0 => (if tids.isEmpty then [] else [(ph, tids)], ph, ar + tids.length)
  | ph, ar, tids, fuel + 1 =>
    if ar + tids.length < n then (if tids.isEmpty then [] else [(ph, tids)], ph, ar + tids.length)
    else
      let (r, ph', ar') := barwSplit n (ph + 1) 0 (tids.drop (n - ar)) fuel
      ((ph, tids.take (n - ar)) :: r, ph', ar')

/-- BARW (R284): its threads wait; the arrival counts, and joins its phase, once their implied fences have completed (07
R139). Log 57 (DEDUCED, unsafe). -/
def execBarw (m : Option ModW) (f : Sy) (s : State) : Host.Outcome State Fault Refusal :=
  let id := bits f.imm.toNat 7 0
  s.uniOp 0x1A1 m (.sy f) false .sheaf (fun h words fr s =>
    let tk := tkOf (fr.headD 0)
    let n := (s.sreg fr f.sa.toNat).toNat
    let (s, fr) := s.userOnly fr h.pc words
    if fr.isEmpty then (s, none)
    else if n < 1 || 1024 < n then s.fragTrap h fr tBarLevel h.pc words 0
    else
      let lev := match s.launchOf tk with | some l => l.teamLevel | none => 1
      let (fs, s) := s.barFences fr (s.barScope tk lev)
      (s.addWait { wk := wkOf (fr.headD 0), tids := fr, pc := h.pc, next := afterPc h.pc words, what := .barw id n 0, fences := fs,
                   kept := some { pc := h.pc, words := words } }, none))

/-- YIELD (R286, 18 R345, R350). -/
def execYield (m : Option ModW) (f : Sy) (s : State) : Host.Outcome State Fault Refusal :=
  s.uniOp 0x1A2 m (.sy f) false .sheaf (fun h words fr s =>
    let tk := tkOf (fr.headD 0)
    let c := s.coreOf tk
    let s :=
      if s.isDet tk then s.modWave (wkOf (fr.headD 0)) (fun w => { w with yieldBit := true })
      else
        let loft := s.teamsAt c .loft
        if !loft.isEmpty && s.topPrio (s.teamsAt c .active) ≤ s.topPrio loft then s.modCore c (fun co => { co with swapDue := true })
        else s
    (s, some (afterPc h.pc words)))

/-! ### Work lists -/

/-- A work list's items, and the pushes of it that are held. -/
def Launch.items (l : Launch) (n : Nat) : List (W64 × List Nat) := l.lists.getD n []
/-- See `items`. -/
def Launch.heldOn (l : Launch) (n : Nat) : Nat := (l.held.filter (fun p => p.list = n)).length

/-- A work list changed. -/
def Launch.setItems (l : Launch) (n : Nat) (x : List (W64 × List Nat)) : Launch := { l with lists := lset l.lists n x }

/-- The larger of two lists of counts, place by place. -/
def vcMax (a b : List Nat) : List Nat := (upto nDies).map (fun i => max (a.getD i 0) (b.getD i 0))
/-- Whether counts cover others. -/
def vcCovers (a b : List Nat) : Bool := (upto nDies).all (fun i => b.getD i 0 ≤ a.getD i 0)

/-- The number of a team's launch. -/
def State.launchKey (s : State) (tk : Nat) : Nat := match tget s.teams tk with | some t => t.launch | none => 0

/-- WLPUSH (R287, R288). -/
def execWlpush (m : Option ModW) (f : Sy) (s : State) : Host.Outcome State Fault Refusal :=
  let n := bits f.imm.toNat 7 0
  s.uniOp 0x1A3 m (.sy f) false .cont (fun h words fr s =>
    let tk := tkOf (fr.headD 0)
    match s.launchOf tk with
    | none => s.fragTrap h fr tWlParam h.pc words 0
    | some l =>
      if l.wln ≤ n then s.fragTrap h fr tWlParam h.pc words 0
      else if l.wlCap ≤ (l.items n).length + l.heldOn n then s.fragTrap h fr tWlFull h.pc words 0
      else
        let item := s.sreg fr f.sa.toNat
        let vc := s.vcOf (s.dieOfTeam tk)
        let (o, s) := s.fresh
        let s := s.modLaunch (s.launchKey tk) (fun l =>
          let l := { l with pushed := vcMax l.pushed vc }
          if l.det then
            { l with held := l.held ++ [{ list := n, item := item, team := tk, wave := waveIdx (wkOf (fr.headD 0)),
                                          lane := laneOf (fr.headD 0), order := o, vc := vc }] }
          else l.setItems n (l.items n ++ [(item, vc)]))
        (s.voidIdem tk, some (afterPc h.pc words)))

/-- The owners of a fragment and its uniform stream. Log 48 (DEDUCED, unsafe). -/
def fragOwners (fr : List Nat) : List Owner := fr.map Owner.thread ++ [.uni (wkOf (fr.headD 0))]

/-- The acquire of a push whose counts are `vc`: at once where the die has applied them, and otherwise a fence that holds back
what comes after it until it has (15 R288). Log 58 (DEDUCED, unsafe). -/
def State.acquirePush (s : State) (fr : List Nat) (vc : List Nat) : State :=
  let tk := tkOf (fr.headD 0)
  let d := s.dieOfTeam tk
  if vcCovers (s.vcOf d) vc then s.raiseFloor (fragOwners fr) (s.die d).clock
  else (fragOwners fr).foldl (fun s o => (s.addAcc { fenceOf o (s.coreOf tk) d tk .acq 7 with vc := vc }).2) s

/-- The place of the item that a pop returns: the first in a DET launch, and otherwise any, which the device chooses (15 R288).
Log 3 (DESIGN CHOICE, unsafe). -/
def State.popPlace (s : State) (l : Launch) (n : Nat) : Nat × State :=
  if l.det then (0, s) else let (v, s) := s.takeFree; (v.toNat % (l.items n).length, s)

/-- WLPOP (R288): it takes an item, and acquires its push. -/
def execWlpop (m : Option ModW) (f : Sy) (s : State) : Host.Outcome State Fault Refusal :=
  let n := bits f.imm.toNat 7 0
  s.uniOp 0x1A4 m (.sy f) false .cont (fun h words fr s =>
    let tk := tkOf (fr.headD 0)
    match s.launchOf tk with
    | none => s.fragTrap h fr tWlParam h.pc words 0
    | some l =>
      if l.wln ≤ n then s.fragTrap h fr tWlParam h.pc words 0
      else if (l.items n).isEmpty then ((s.setSreg fr f.sa.toNat 0).setSreg fr f.sb.toNat 0, some (afterPc h.pc words))
      else
        let (i, s) := s.popPlace l n
        let x := (l.items n).getD i (0, [])
        let s := s.modLaunch (s.launchKey tk) (fun l => l.setItems n (ldel (l.items n) i))
        let s := s.acquirePush fr x.2
        ((s.setSreg fr f.sa.toNat x.1).setSreg fr f.sb.toNat 1, some (afterPc h.pc words)))

/-- WLQUIET (R289). -/
def execWlquiet (m : Option ModW) (f : Sy) (s : State) : Host.Outcome State Fault Refusal :=
  let n := bits f.imm.toNat 7 0
  s.uniOp 0x1A5 m (.sy f) false .sheaf (fun h words fr s =>
    let tk := tkOf (fr.headD 0)
    let (s, fr) := s.userOnly fr h.pc words
    if fr.isEmpty then (s, none)
    else match s.launchOf tk with
    | none => s.fragTrap h fr tWlParam h.pc words 0
    | some l =>
      if l.wln ≤ n then s.fragTrap h fr tWlParam h.pc words 0
      else if !(l.items n).isEmpty then (s.setSreg fr f.sa.toNat 0, some (afterPc h.pc words))
      else (s.addWait { wk := wkOf (fr.headD 0), tids := fr, pc := h.pc, next := afterPc h.pc words,
                        what := .wlquiet n f.sa.toNat }, none))

/-! ### Waits for engines -/

/-- WAITWP (R290). -/
def execWaitwp (m : Option ModW) (f : Sy) (s : State) : Host.Outcome State Fault Refusal :=
  s.uniOp 0x1A6 m (.sy f) false .sheaf (fun h words fr s =>
    (s.addWait { wk := wkOf (fr.headD 0), tids := fr, pc := h.pc, next := afterPc h.pc words,
                 what := .waitwp (bits f.imm.toNat 5 4) (bits f.imm.toNat 3 0) (s.sreg fr f.sb.toNat) f.sa.toNat }, none))

/-- A wait that asks for its completion word outside the package. Log 46 (DEDUCED, unsafe). -/
def State.farWord (s : State) (t : Target) (w : Wait) : State :=
  match w.what with
  | .waitseq va _ _ _ =>
    let tid := w.tids.headD 0
    let a := s.accOf (.uni w.wk) tid .load (.rlx, .none, 7, false) w.pc (w.kept.getD {}).words (s.asidOf tid) va.toNat 0
    let (g, s) := s.addBlock { a with kept := w.kept.getD {} } t va.toNat 8
    s.addWait { w with fences := [g] }
  | _ => s

/-- The start of a `waitseq` of a fragment, or its park (15 R291). -/
def State.waitseqOp (s : State) (fr : List Nat) (sb : Nat) (a thr : W64) (imm : Nat) (pc : Va) (words : W64) : State :=
  let va := a.toNat % 2 ^ 57
  let k : Kept := { pc := pc, words := words, a := a, b := thr }
  if va % 8 ≠ 0 then s.parkFrag fr ⟨kMisaligned, 5, va⟩ k thr
  else
    let w : Wait :=
      { wk := wkOf (fr.headD 0), tids := fr, pc := pc, next := afterPc pc words,
        what := .waitseq va sb thr (if imm = 0 then none else some (imm * 1024)), kept := some k }
    match s.reach (s.asidOf (fr.headD 0)) va false with
    | (.error e, s) => s.parkFrag fr ⟨e, 5, va⟩ k thr
    | (.ok (.pkg _, _), s) => s.addWait w
    | (.ok (t, _), s) => s.farWord t w

/-- WAITSEQ (R291). -/
def execWaitseq (m : Option ModW) (f : Sy) (s : State) : Host.Outcome State Fault Refusal :=
  s.uniOp 0x1A7 m (.sy f) false .sheaf (fun h words fr s =>
    (s.waitseqOp fr f.sb.toNat (s.sreg fr f.sa.toNat) (s.sreg fr f.sb.toNat) f.imm.toNat h.pc words, none))

/-- AFLUSH (R292): without DET it issues only when the atomics before it have performed. -/
def execAflush (m : Option ModW) (f : Sy) (s : State) : Host.Outcome State Fault Refusal :=
  s.uniOp 0x1A8 m (.sy f) false .sheaf (fun h words fr s =>
    let tk := tkOf (fr.headD 0)
    if s.isDet tk then
      (s.addWait { wk := wkOf (fr.headD 0), tids := fr, pc := h.pc, next := afterPc h.pc words, what := WaitFor.aflush }, none)
    else (s, some (afterPc h.pc words)))

end Sys2Proof.Machine
end

