-- ==== Sys2Proof/Machine/EngineInstr.lean ====
section
/-! DEFINITION. Appends to command chains (15 R293 to R295). -/

namespace Sys2Proof.Machine

/-- The number of the engine that a control block names (15 Table 15-4). -/
def engineOf (w : Nat) : Nat := 32 * bits w 9 8 + (if bits w 3 0 = 0 then bits w 7 4 else 15 + bits w 3 0)

/-- Whether an entry's body has no reserved bit set, and SIZE covers it (15 Table 15-6): `rd` gives the 8 bytes at
an offset. Log 56 (DEDUCED, unsafe). -/
def bodyOk (kind size : Nat) (rd : Nat → Nat) : Bool :=
  match kind with
  | 0 => bits (rd 0x38) 63 2 = 0
  | 2 => 1 ≤ size && bits (rd 0x28) 7 4 = 0 && bits (rd 0x28) 15 13 = 0 && bits (rd 0x28) 63 32 = 0
  | 3 => 1 ≤ size && bits (rd 0x30) 15 11 = 0 && bits (rd 0x30) 23 21 = 0 && bits (rd 0x30) 63 25 = 0
  | _ => true

/-- How an append ended. -/
inductive AppEnd where
  | done
  | trap
  | fault (f : AccFault)
  deriving DecidableEq, Repr

/-- A translation for an access that covers some bytes of one page, as a page and a PA. -/
def State.enginePa (s : State) (asid va : Nat) (write : Bool) : Except AccFault (Page × Nat) × State :=
  match s.translate asid va write false with
  | (.error k, s) => (.error ⟨k, 8, va⟩, s)
  | (.ok p, s) => (.ok (p, p.pa + (va - p.va)), s)

/-- A write sequenced at once for the uniform stream of a wave; later accesses of the stream to its lines wait. -/
def State.uniWrite (s : State) (wk : Nat) (p : Page) (cells : List Host.Cell) : State :=
  let tk := tkOfW wk
  let die := s.dieOfTeam tk
  let (g, s) := s.addAcc
    { gid := 0, owner := .uni wk, core := s.coreOf tk, die := die, team := tk, kind := .edit, stage := .numbered,
      op := 6, page := p, target := .pkg p.die, lines := cellLines cells }
  (s.seqWrite p.die (s.vcOf die) cells (some g)).touchPage p true

/-- The chain of an engine with an entry appended, the chain bound when it is new. Log 56 (DEDUCED, unsafe). -/
def appendChain (cs : List Chain) (cb : Va) (asid vf : Nat) (entry : Va × List Nat) : List Chain :=
  if cs.any (fun c => c.cb = cb && c.asid = asid) then
    cs.map (fun c => if c.cb = cb && c.asid = asid then { c with next := c.next ++ [entry] } else c)
  else cs ++ [{ cb := cb, asid := asid, vf := vf, next := [entry] }]

/-- `chapp` and the typed appends for a fragment (15 R294, R295): `want` is the kind that a typed append asks for.
Log 56 (DEDUCED, unsafe). -/
def State.appendOp (s : State) (fr : List Nat) (want : Option Nat) (a b : W64) : State × AppEnd :=
  let tid := fr.headD 0
  let wk := wkOf tid
  let tk := tkOf tid
  let asid := s.asidOf tid
  let die := s.dieOfTeam tk
  let cb := a.toNat % 2 ^ 57
  let en := b.toNat % 2 ^ 57
  if cb % 64 ≠ 0 || en % 64 ≠ 0 then (s, .trap)
  else match s.enginePa asid cb true with
  | (.error f, s) => (s, .fault f)
  | (.ok (cp, cpa), s) => match s.enginePa asid en true with
    | (.error f, s) => (s, .fault f)
    | (.ok (ep, epa), s) =>
      let rc (o : Nat) : Nat := s.readNow (.uni wk) die cp.die (cpa + o) 8
      let re (o : Nat) : Nat := s.readNow (.uni wk) die ep.die (epa + o) 8
      let w := rc 0
      let kind := bits w 3 0
      let h := re 8
      let ok := kind ≤ 5 && bits w 63 10 = 0 && (upto 4).all (fun i => rc (0x20 + 8 * i) = 0) && (kind = 0 || bits w 7 4 = 0) &&
        bits h 3 0 = kind && bits h 7 4 = 0 && bits h 14 12 < 6 && bits h 63 16 = 0 && !bitAt (re 0x10) 63 &&
        bodyOk kind (bits h 11 8) re && (match want with | some k => k = kind | none => true)
      if !ok then (s, .trap)
      else
        let old := memNat s.mem.home (cpa + 8) 8 % 2 ^ 57
        let oldPa : Except AccFault (Option (Page × Nat)) × State :=
          if old = 0 then (.ok none, s)
          else match s.enginePa asid old true with
            | (.error f, s) => (.error f, s)
            | (.ok x, s) => (.ok (some x), s)
        match oldPa with
        | (.error f, s) => (s, .fault f)
        | (.ok o, s) =>
          let det := s.isDet tk
          let b9 := bits h 15 8 % 128 + (if det then 128 else 0)
          let s := s.uniWrite wk ep (cellsAt epa (natBytes 0 8) ++ [(epa + 9, BitVec.ofNat 8 b9)])
          let s := s.uniWrite wk cp (cellsAt (cpa + 8) (natBytes en 8))
          let s := match o with
            | some (op, opa) => s.uniWrite wk op (cellsAt opa (natBytes en 8))
            | none => s
          let homes := [ep.die, cp.die] ++ (match o with | some x => [x.1.die] | none => [])
          let vc := (upto nDies).map (fun d => if homes.contains d then (s.die d).h else (s.vcOf die).getD d 0)
          let s := s.modEngine (engineOf w) (fun e =>
            { e with chains := appendChain e.chains (BitVec.ofNat 57 cb) asid (s.vfOf tk) (BitVec.ofNat 57 en, vc) })
          (s.voidIdem tk, .done)

/-- An append instruction. -/
def appendInstr (p : Nat) (want : Option Nat) (m : Option ModW) (f : Sy) (s : State) : Host.Outcome State Fault Refusal :=
  s.uniOp p m (.sy f) false .run (fun h words fr s =>
    let a := s.sreg fr f.sa.toNat
    let b := s.sreg fr f.sb.toNat
    match s.appendOp fr want a b with
    | (s, .done) => (s, some (afterPc h.pc words))
    | (s, .trap) => s.fragTrap h fr tEngineParam h.pc words 0
    | (s, .fault x) => (s.parkFrag fr x { pc := h.pc, words := words, a := a, b := b } b, none))

/-- CHAPP (R294). Log 55 (DEDUCED, unsafe). -/
def execChapp (m : Option ModW) (f : Sy) (s : State) := appendInstr 0x1C0 none m f s
/-- LAUNCH (R295). -/
def execLaunch (m : Option ModW) (f : Sy) (s : State) := appendInstr 0x1C1 (some 4) m f s
/-- NLAUNCH (R295). -/
def execNlaunch (m : Option ModW) (f : Sy) (s : State) := appendInstr 0x1C2 (some 5) m f s
/-- COLL (R295). -/
def execColl (m : Option ModW) (f : Sy) (s : State) := appendInstr 0x1C3 (some 2) m f s
/-- TOPK (R295). -/
def execTopk (m : Option ModW) (f : Sy) (s : State) := appendInstr 0x1C4 (some 3) m f s
/-- GATH (R295). -/
def execGath (m : Option ModW) (f : Sy) (s : State) := appendInstr 0x1C5 (some 1) m f s

end Sys2Proof.Machine
end

