-- ==== Sys2Proof/Machine/EvWrite.lean ====
section
/-! DEFINITION. Steps of the ordering machine for writes (07 R118 to R121, R127, R129, R140, R141, 11 R212 to R218, 12
R226, R229, R234 to R238): an access leaves its store buffer, is numbered at home, and is applied. -/

namespace Sys2Proof.Machine

/-- An access and those combined with it end, at time `t`. -/
def State.endAll (s : State) (a : Acc) (t : Nat) : State :=
  a.more.foldl (fun s k => match tget s.accs k with | some b => s.finishAcc b t | none => s) (s.finishAcc a t)

/-! ### Deterministic order -/

/-- The launch of an access. -/
def State.launchOfAcc (s : State) (a : Acc) : Nat := s.launchKey a.team

/-- The sort key of a held atomic (07 R136). -/
def State.detKey (s : State) (a : Acc) : Nat × Nat × Nat × Nat :=
  match a.owner with
  | .thread tid => ((match tget s.teams a.team with | some t => t.idx | none => 0), s.logicalWave (wkOf tid), laneOf tid, a.gid)
  | _ => (0, 0, 0, a.gid)

/-- The order of keys. -/
def keyLt (x y : Nat × Nat × Nat × Nat) : Bool :=
  x.1 < y.1 || (x.1 = y.1 && (x.2.1 < y.2.1 || (x.2.1 = y.2.1 &&
    (x.2.2.1 < y.2.2.1 || (x.2.2.1 = y.2.2.1 && x.2.2.2 < y.2.2.2)))))

/-- Drained atomics of a launch whose home step is still to come. -/
def State.draining (s : State) (l : Nat) : List Acc :=
  (s.accs.filter (fun e => e.2.held && e.2.drained && e.2.stage ≠ .numbered && s.launchOfAcc e.2 = l)).map (·.2)

/-- Whether an atomic's turn has come: it is not held, or it is drained and first in order (07 R135, R136). -/
def State.detTurn (s : State) (a : Acc) : Bool :=
  !a.held || (a.drained && (s.draining (s.launchOfAcc a)).all (fun b => b.gid = a.gid || keyLt (s.detKey a) (s.detKey b)))

/-! ### Leaving the store buffer -/

/-- Whether two weak operations of one core may be combined (07 Table 7-4, 12 R235): `.com` ones of one operation and
type, `.unp` ones of any. Log 61 (DEDUCED, unsafe). -/
def Acc.combines (a b : Acc) : Bool :=
  (match a.target with | .pkg _ => true | _ => false) && b.stage = .issued && !b.held && a.gid ≠ b.gid && a.core = b.core && a.kind = b.kind && a.target = b.target &&
  a.elem = b.elem && a.va = b.va &&
  ((a.use = .unp && b.use = .unp) || (a.use = .com && b.use = .com && a.op = b.op && a.ty = b.ty))

/-- Whether the earlier edits of an edit's own instruction have been numbered (15 R279 step 4). -/
def State.tileTurn (s : State) (g : Nat) : Bool :=
  s.waits.all (fun w => match w.what with
    | .tiles rs => !rs.contains g || (rs.takeWhile (· ≠ g)).all (fun k => match tget s.accs k with
      | some e => e.stage = .numbered
      | none => true)
    | _ => true)

/-- Whether an access goes to a home sequencer from a store buffer. -/
def Acc.sends (a : Acc) : Bool := a.kind = .store || a.kind = .red || a.kind = .edit || (a.kind = .atomic && a.weak)

/-- The number of a core's channel to a package (07 R130). -/
def chanKey (core pkg : Nat) : Nat := core * 2048 + pkg

/-- The CXL.cache requests of an access to the host window (25 R416): name, address and bytes. -/
def hostReq (a : Acc) : Out :=
  let b := if a.cells.isEmpty then natBytes a.data.toNat (a.elem.width / 8) else a.cells.map (·.2)
  match a.kind with
  | .load => .host a.die "RdCurr" (bits a.va.toNat 43 0) [] false
  | .atomic => .host a.die "RdOwn" (bits a.va.toNat 43 0) [] false
  | _ => .host a.die "WOWrInv" (bits a.va.toNat 43 0) b a.bad

/-- Whether the earlier far writes of an engine, a stream or the hub have been sent. -/
def State.ownerTurn (s : State) (a : Acc) : Bool :=
  match a.owner with
  | .thread _ | .uni _ | .remote _ _ _ => true
  | o => !s.accs.any (fun e => e.2.owner = o && e.2.gid < a.gid && e.2.unsent)

/-- STORE_SEND (R121, R122, R130, R131). Log 61 (DEDUCED, unsafe). -/
def execStoreSend (g : Nat) (more : List Nat) (s : State) : Host.Outcome State Fault Refusal :=
  match tget s.accs g with
  | none => notEnabled "STORE_SEND"
  | some a =>
    let ps := more.filterMap (fun k => tget s.accs k)
    let ok := a.stage = .issued && s.ownerTurn a && s.detTurn a && a.kind ≠ .fence && s.mayGo a && s.tileTurn g &&
      ps.length = more.length && ps.all (fun b => a.combines b && s.mayGo b)
    if !ok then notEnabled "STORE_SEND"
    else
      let s := (g :: more).foldl (fun s k => s.modAcc k (fun b => { b with stage := .sent })) s
      let s := s.modAcc g (fun b => { b with more := more })
      match a.target with
      | .pkg d =>
        if a.sends && !a.held then
          .next (s.modDie d (fun x => { x with inbox := x.inbox ++ [{ gid := g, vc := s.vcOf a.die }] }))
        else notEnabled "STORE_SEND"
      | .other p =>
        .next { s with chans := tset s.chans (chanKey a.core p) (let c := tgetD s.chans (chanKey a.core p) {}; { c with q := c.q ++ [g] }) }
      | .host =>
        if 512 ≤ (s.die a.die).hostChan.length then notEnabled "STORE_SEND"
        else
          let s := s.modDie a.die (fun x => { x with hostChan := x.hostChan ++ [g] })
          .next { s with out := s.out ++ [hostReq a] }

/-! ### The home sequencer -/

/-- The record of a write dropped because its tile's header is invalid (11 R218). Log 87 (DEDUCED, unsafe). -/
def State.dropRecord (s : State) (home asid hdrVa : Nat) : State := s.queueFault home (engRec kHeaderInvalid 9 asid hdrVa)

/-- The dirty bits of a tile's header page, beside its payload page's (01 R38). -/
def State.touchTile (s : State) (t : TileRef) : State := (s.touchPage t.page true).setPte t.page.die t.hdrPte true

/-- The materialisation of a tile that is not identity, sequenced at home; none when its header is invalid (11 R214 to
R216). Log 19 (DEDUCED, unsafe). -/
def State.forceMat (s : State) (home : Nat) (vc : List Nat) (t : TileRef) : Option State :=
  let s := s.leaveReduce home (tileLines t)
  let h := readHdr s.homeByte t
  if !h.valid t.page.tl t.page.fmt then none
  else if h.ident then some (s.setPte t.page.die t.hdrPte false)
  else some ((s.seqWrite home vc (matCells s.homeByte t h) none).touchTile t)

/-- The materialisation of several tiles; else the VA of the first header that is invalid.
Log 19 (DEDUCED, unsafe). -/
def State.forceAll (s : State) (home : Nat) (vc : List Nat) : List TileRef → Except Nat State
  | [] => .ok s
  | t :: r => match s.forceMat home vc t with
    | none => .error t.hdrVa
    | some s => s.forceAll home vc r

/-- The forced materialisation of the tiles that an access writes. Log 19 (DEDUCED, unsafe). -/
def State.forceOf (s : State) (home : Nat) (vc : List Nat) (a : Acc) : Except Nat State :=
  s.forceAll home vc ((match a.elem.tile with | some t => [t] | none => []) ++ a.mats)

/-- An access numbered: it ends when it is applied. -/
def State.numbered (s : State) (home : Nat) (a : Acc) : State :=
  (a.gid :: a.more).foldl (fun s k =>
    s.modAcc k (fun b => { b with stage := .numbered, num := (s.die home).h })) s

/-- The code that a store writes, and its flags: for an element of a block it is computed under the scale found at
home (12 R226). -/
def State.homeCode (s : State) (a : Acc) : Res :=
  if a.atHome then
    blockCode a.page a.ty a.mode a.rand a.data.toNat
      (match a.elem.scale with | some x => (s.homeByte x).toNat | none => 127)
  else (a.data.toNat, 0)

/-- A store at home. -/
def State.seqStore (s : State) (home : Nat) (vc : List Nat) (a : Acc) : State :=
  let r := s.homeCode a
  let s := s.flagAcc a (if a.atHome then r.2 else 0)
  let s := s.seqWrite home vc (elemCells s.homeByte a.elem r.1) (some a.gid)
  (s.numbered home a).touchPage a.page true

/-- The new value of an atomic from the old one, whether it is written, and the flags (12 Table 12-3, R235, R237).
Log 65 (DESIGN CHOICE, safe). -/
def atomNew (a : Acc) (o : Nat) : Nat × Bool × W32 :=
  let w := fmtWidth a.ty
  let y := a.data.toNat % 2 ^ w
  let i (v : Nat) : Int := intVal (isSigned a.ty) w v
  match a.op with
  | 0x088 => ((o + y) % 2 ^ w, true, 0)
  | 0x089 => (if i y < i o then y else o, true, 0)
  | 0x08A => (if i o < i y then y else o, true, 0)
  | 0x08B => (Nat.land o y, true, 0)
  | 0x08C => (Nat.lor o y, true, 0)
  | 0x08D => (Nat.xor o y, true, 0)
  | 0x08E => (y, true, 0)
  | 0x08F => if o = y then (a.cmp.toNat % 2 ^ w, true, 0) else (o, false, 0)
  | 0x090 => let r := addF a.ty a.mode a.rand o y; (r.1, true, r.2)
  | 0x091 => (if tord (decodeVal a.ty y) (decodeVal a.ty o) == .gt then y else o, true, 0)
  | _ =>
    let v (x : Nat) : Val := decodeVal 1 (x / 2 ^ 32)
    let take := match tord (v y) (v o) with
      | .gt => true
      | .eq => decide (y % 2 ^ 32 < o % 2 ^ 32)
      | .lt => false
    (if take then y else o, true, 0)

/-- The value at an atomic's location at home. -/
def State.atomOld (s : State) (a : Acc) : Nat := readNat s.homeByte a.elem.pa (a.elem.width / 8)

/-- Weak atomics of one location at home, as one write (07 Table 7-4): `.com` `fadd` as one exact sum rounded once (12
R235), others one after another. -/
def State.weakNew (s : State) (a : Acc) : Nat × List (Acc × W32) :=
  let ps := a :: a.more.filterMap (fun k => tget s.accs k)
  let o := s.atomOld a
  if a.op = 0x090 && a.use = .com then
    let r := sumRound a.ty a.mode a.rand false ((o :: ps.map (fun b => b.data.toNat % 2 ^ fmtWidth a.ty)).map (decodeVal a.ty))
    (r.1, ps.map (fun b => (b, r.2)))
  else ps.foldl (fun (v, fl) b => let n := atomNew b v; (n.1, fl ++ [(b, n.2.2)])) (o, [])

/-- A weak atomic at home. -/
def State.seqWeak (s : State) (home : Nat) (vc : List Nat) (a : Acc) : State :=
  let s := s.leaveReduce home a.lines
  let (v, fl) := s.weakNew a
  let s := fl.foldl (fun s x => s.flagAcc x.1 x.2) s
  let s := s.seqWrite home vc (cellsAt a.elem.pa (natBytes v (a.elem.width / 8))) (some a.gid)
  (s.numbered home a).touchPage a.page true

/-- Contributions at home (07 R140, 12 R238). -/
def State.seqReds (s : State) (home : Nat) (vc : List Nat) (a : Acc) : State :=
  let ps := a :: a.more.filterMap (fun k => tget s.accs k)
  let s := ps.foldl (fun s b =>
    let s := s.seqRed home vc b.elem.pa b.op b.ty b.data (some b.gid)
    s.modAcc b.gid (fun x => { x with stage := .numbered, num := (s.die home).h })) s
  (s.modAcc a.gid (fun b => { b with more := [] })).touchPage a.page true

/-- Lines in reduce state of a stack (23 R394). -/
def State.reduceLines (s : State) (stack : Nat) : List Nat :=
  dedup ((s.mem.reduce.filter (fun e => bits e.pa 39 36 = stack)).map (fun e => lineOf e.pa))

/-- Whether a contribution finds its silo full (23 R394). -/
def State.siloFull (s : State) (a : Acc) : Bool :=
  a.kind = .red && !(s.reduceLines (bits a.elem.pa 39 36)).contains (lineOf a.elem.pa) &&
  131072 ≤ (s.reduceLines (bits a.elem.pa 39 36)).length

/-- A fragment of a tile instruction parked at tile `j`, whose header is invalid: its later edits are dropped (15
R279). -/
def State.parkTiles (s : State) (a : Acc) (hdrVa : Nat) : State :=
  match s.waits.find? (fun w => match w.what with | .tiles rs => rs.contains a.gid | _ => false) with
  | none => s.finishAcc a 0
  | some w =>
    let rest := match w.what with | .tiles rs => rs.dropWhile (· ≠ a.gid) | _ => []
    let s := rest.foldl (fun s k => match tget s.accs k with | some b => s.finishAcc b 0 | none => s) s
    let s := (upto nDies).foldl (fun s d => s.modDie d (fun x => { x with inbox := x.inbox.filter (fun r => !rest.contains r.gid) })) s
    let s := { s with waits := s.waits.erase w }
    let k := w.kept.getD {}
    s.parkFrag w.tids ⟨kHeaderInvalid, 7, hdrVa⟩ { k with tile := a.tileNo } k.b

/-- The header after an edit over it; RND is the installing instruction's, but for `tperm` (11 R212, 15 R279).
Log 35 (DEDUCED, unsafe). -/
def editHdr (a : Acc) (h : Hdr) : Hdr := if a.op < 3 then { h with rnd := a.mode } else h

/-- A tile edit at home (11 R212 to R214, 15 R279); one that composes exactly writes the header only (01 R38).
Log 35 (DEDUCED, unsafe). -/
def State.seqEdit (s : State) (home : Nat) (vc : List Nat) (a : Acc) (t : TileRef) : State :=
  let s := s.leaveReduce home (tileLines t)
  let h := readHdr s.homeByte t
  if !h.valid t.page.tl t.page.fmt then s.parkTiles a t.hdrVa
  else
    let e := (editOf a.op a.data).getD .mat
    match e with
    | .mat =>
      if h.ident then s.finishAcc a 0
      else ((s.seqWrite home vc (matCells s.homeByte t h) (some a.gid)).numbered home a).touchTile t
    | e => match compose h t.page.tl e with
      | some h' => ((s.seqWrite home vc (hdrCells t (editHdr a h')) (some a.gid)).numbered home a).setPte t.page.die t.hdrPte true
      | none =>
        let s := s.seqWrite home vc (matCells s.homeByte t h) none
        let i := readHdr s.homeByte t
        let h' := (compose i t.page.tl e).getD i
        ((s.seqWrite home vc (hdrCells t (editHdr a h')) (some a.gid)).numbered home a).touchTile t

/-- Lines poisoned by a write of poisoned data (14 Table 14-7, 26 R428). -/
def State.poisonLines (s : State) (bad : Bool) (ls : List Nat) : State :=
  if bad then s.modMem (fun m => { m with poison := dedup (m.poison ++ ls) }) else s

/-- An `ast` write at home: its bytes, and memory poison where its row was poisoned (14 R275, Table 14-7). -/
def State.seqAst (s : State) (home : Nat) (vc : List Nat) (a : Acc) : State :=
  let s := (s.seqWrite home vc a.cells (some a.gid)).poisonLines a.bad (cellLines a.cells)
  (s.numbered home a).touchPage a.page true

/-- The write of an access numbered at home, after the materialisation that it forces (07 R118, R141).
Log 65 (DESIGN CHOICE, safe). -/
def State.seqAcc (s : State) (home : Nat) (vc : List Nat) (a : Acc) : State :=
  if a.kind = .edit && a.op < 5 then
    match a.elem.tile with | some t => s.seqEdit home vc a t | none => s.endAll a 0
  else match s.forceOf home vc a with
    | .error h => (s.dropRecord home a.asid h).endAll a 0
    | .ok s =>
      match a.kind with
      | .store => (s.seqStore home vc a).poisonLines a.bad (elemLines { a.elem with tile := none, scale := none })
      | .red => s.seqReds home vc a
      | .atomic => s.seqWeak home vc a
      | _ => s.seqAst home vc a

/-- Whether a die's sequencer may number a write: no apply queue is full of its writes (17 R320). -/
def State.queuesOpen (s : State) (home : Nat) : Bool :=
  (upto nDies).all (fun d => ((s.die d).aq.filter (fun w => w.home = home)).length < 2048)

/-- Whether something keeps a write from its lines: an engine's ownership, a product's pins or a flip (07 R137, 14 R268,
25 R415). -/
def State.writeStall (s : State) (lines : List Nat) (gid : Nat) : Bool := s.lineStall lines gid || s.pinned lines

/-- WRITE_SEQUENCE (R118, R141, R216, R218). A half-line that the host holds is snooped first (25 R414). -/
def execWriteSequence (d i : Nat) (s : State) : Host.Outcome State Fault Refusal :=
  match (s.die d).inbox[i]? with
  | none => notEnabled "WRITE_SEQUENCE"
  | some r => match tget s.accs r.gid with
    | none => .next (s.modDie d (fun x => { x with inbox := ldel x.inbox i }))
    | some a =>
      let before := ((s.die d).inbox.take i).filterMap (fun q => tget s.accs q.gid)
      let ok := before.all (fun b => !(b.owner = a.owner && b.sameLine a && !(b.weak && a.weak))) &&
        s.queuesOpen d && !s.writeStall a.lines a.gid && !s.siloFull a
      if !ok then notEnabled "WRITE_SEQUENCE"
      else
        let hs := s.snoopsOf a.lines true
        if !hs.isEmpty then .next (s.snoop hs true)
        else .next ((s.modDie d (fun x => { x with inbox := ldel x.inbox i })).seqAcc d r.vc a)

/-! ### The die views -/

/-- What the end of a write at its issuing die, or at its home die, does to its access (07 R121, R127, R132). -/
def State.applyAcc (s : State) (d home num g t : Nat) : State :=
  match tget s.accs g with
  | none => s
  | some a =>
    let s := if d = home then s.modAcc g (fun b => { b with homed := true }) else s
    let s := if d = a.die && !a.applied && a.num ≤ num then
        s.endAll (match tget s.accs g with | some b => b | none => a) t else s
    match tget s.accs g with
    | some b =>
      let remote : Bool := match b.owner with | .remote _ _ _ => true | _ => false
      if b.homed && b.applied && !remote then { s.dropAcc g with accs := tdel s.accs g } else s
    | none => s

/-- Atomics whose acquire has performed at a die: everything that home had numbered up to them is applied (07 R132).
Log 27 (DEDUCED, unsafe). -/
def State.endAtomics (s : State) (d home : Nat) : State :=
  let n := (s.die d).n.getD home 0
  (s.accs.filter (fun e => e.2.kind = .atomic && e.2.stage = .numbered && e.2.die = d && e.2.target = .pkg home &&
    e.2.num ≤ n)).foldl (fun s e => s.endAll e.2 (s.die d).clock) s

/-- WRITE_APPLY (R119). -/
def execWriteApply (d h : Nat) (s : State) : Host.Outcome State Fault Refusal :=
  match (s.die d).aq.find? (fun w => w.home = h) with
  | none => notEnabled "WRITE_APPLY"
  | some w =>
    if !(s.die d).mayApply w then notEnabled "WRITE_APPLY"
    else
      let core := match w.gid.bind (fun g => tget s.accs g) with | some a => if a.die = d then some (a.core % coresPerDie) else none | none => none
      let s := s.modDie d (fun x => (x.apply w).wroteCopies w.lines core)
      let s := match w.gid with
        | some g => s.applyAcc d h w.num g (s.die d).clock
        | none => s
      .next (s.endAtomics d h)

/-! ### Scratch lines -/

/-- Entries of a page-table node, or of a table of 8-byte units, that memory lists: their numbers. -/
def nodeSlots (m : List Host.Cell) (node b : Nat) : List Nat :=
  dedup ((m.filter (fun c => node ≤ c.1 && c.1 < node + 8 * 2 ^ b)).map (fun c => (c.1 - node) / 8))

/-- The page indices below a node whose entries, in a die's view, are valid and name a frame that `hit` accepts (17 R324). -/
def Die.frameIndices (d : Die) (hit : Nat → Bool) : List Nat → Nat → Nat → List Nat
  | [], _, _ => []
  | b :: r, node, above =>
    (dedup ((d.listed.filter (fun a => node ≤ a && a < node + 8 * 2 ^ b)).map (fun a => (a - node) / 8))).flatMap (fun i =>
      let e := d.viewNat (node + 8 * i) 8
      let n := bits e 51 12 * 4096
      if !bitAt e 0 then []
      else if r.isEmpty then (if hit n then [above * 2 ^ b + i] else [])
      else d.frameIndices hit r n (above * 2 ^ b + i))

/-- The pages homed on a die whose frame holds a PA: those that its MTLB holds, and those that its page tables map (17 R323,
R324). Log 89 (DEDUCED, unsafe). -/
def State.framePages (s : State) (die pa : Nat) : List Page :=
  let asids := dedup ((nodeSlots s.mem.home (s.die die).astBase.toNat 24).map (· / 256))
  let walked := asids.flatMap (fun a => (upto 64).flatMap (fun r =>
    let re := s.regionEntry die a r
    let b := pageBits (bits re 2 1)
    if !bitAt re 0 then []
    else ((s.die die).frameIndices (fun n => n ≤ pa && pa < n + 2 ^ b) (levelBits (38 - b) (bits re 4 3 + 1)) (bits re 51 12 * 4096) 0).filterMap
      (fun v =>
        let va := bits s.hub.fabId.toNat 10 0 * 2 ^ 46 + die * 2 ^ 44 + r * 2 ^ 38 + v * 2 ^ b
        match s.walk die a va with | .ok p => some p | .error _ => none)))
  (((s.die die).mtlb.map (·.page) ++ walked).filter (fun p => p.die = die && p.pa ≤ pa && pa < p.pa + 2 ^ p.bits)).eraseDups

/-- The mapped ones among them. Log 89 (DEDUCED, unsafe). -/
def State.frameMaps (s : State) (die pa : Nat) : List Page := (s.framePages die pa).filter (·.map)

/-- The tiles whose payload holds one of `n` bytes from a PA on, within one page of 4 KiB; their headers are not yet
translated. Log 89 (DEDUCED, unsafe). -/
def State.tilesOn (s : State) (die pa n : Nat) : List TileRef :=
  ((s.frameMaps die pa).flatMap (fun p =>
    (upto (n / 8 + 1)).map (fun i => tileAt p (p.va + (min (pa + 8 * i) (pa + n - 1) - p.pa))))).eraseDups

/-- The home die of a scratch line: that of a scratch page whose frame holds it, the lowest if there are several; the die of its
stack while none is known (17 R306). Log 62 (DEDUCED, unsafe). -/
def State.scratchHome (s : State) (line : Nat) : Nat :=
  ((upto nDies).find? (fun d => (s.framePages d (line * lineBytes)).any (fun p => p.cc = 1))).getD (dieOfPa (line * lineBytes))

/-- The lines copied together: one, or those of a mapped tile that has it (11 R219). Log 62 (DEDUCED, unsafe). -/
def State.backingLines (s : State) (line : Nat) : List Nat :=
  let tiles := ((s.tilesOn (s.scratchHome line) (line * lineBytes) lineBytes).filter (fun t => t.page.cc = 1)).filterMap (fun t =>
    match s.withHeader t false with
    | (.ok t, _) => some (tileLines t)
    | _ => none)
  dedup (line :: tiles.flatten)

/-- The view value of a line at a die. Log 62 (DEDUCED, unsafe). -/
def State.viewLine (s : State) (d line : Nat) : List W8 := (upto lineBytes).map (fun i => s.viewByte d (line * lineBytes + i))

/-- BACKING_COPY (R129): the view is that of the line's home die (17 R306). Log 62 (DEDUCED, unsafe). -/
def execBackingCopy (line : Nat) (s : State) : Host.Outcome State Fault Refusal :=
  if !paOk (line * lineBytes) then .fault (.noSuchPA (line * lineBytes))
  else
    let home := s.scratchHome line
    .next ((s.backingLines line).foldl (fun s l =>
      let b := s.viewLine home l
      s.modMem (fun m => { m with backing := memSetAll m.backing (cellsAt (l * lineBytes) b) })) s)

/-- DEAD_LOAD_RESTORE (R129, R229): the whole line takes its backing value. Log 62 (DEDUCED, unsafe).
Log 126 (DEDUCED, unsafe). -/
def execDeadLoadRestore (i : Nat) (s : State) : Host.Outcome State Fault Refusal :=
  match s.mem.restores[i]? with
  | none => notEnabled "DEAD_LOAD_RESTORE"
  | some (line, home) =>
    if !(s.queuesOpen home && !s.writeStall [line] s.next) then notEnabled "DEAD_LOAD_RESTORE"
    else
      let hs := s.snoopsOf [line] true
      if !hs.isEmpty then .next (s.snoop hs true)
      else
        let s := s.modMem (fun m => { m with restores := ldel m.restores i })
        let a := line * lineBytes
        .next (s.seqWrite home (s.vcOf home) (cellsAt a (memBytes s.mem.backing a lineBytes)) none)

end Sys2Proof.Machine
end

