-- ==== Sys2Proof/Machine/EvLoad.lean ====
section
/-! DEFINITION. Steps of the ordering machine for loads (07 R120, R127, R128, 12 R225, R229, 20 R380): the value, where
it goes, and a tile header found invalid (11 R206). -/

namespace Sys2Proof.Machine

/-! ### Where a result goes -/

/-- A latch row with a load's value in it. -/
def fillRow (g : Nat) (v : W64) (r : Option (Tbl LatchVal)) : Option (Tbl LatchVal) :=
  r.map (fun t => t.map (fun e => (e.1, if e.2 = .pend g then .val v else e.2)))

/-- The value of a load in every latch entry that awaits it (01 R20, R23). -/
def State.fillLatches (s : State) (g : Nat) (v : W64) : State :=
  { s with sheaves := s.sheaves.map (fun h => { h with latch := h.latch.map (fillRow g v) }),
           teams := tmapAll s.teams (fun _ t => { t with
             saved := t.saved.map (fun x => { x with latch := x.latch.map (fillRow g v) }) }) }

/-- A register bit. -/
def regBit (n : Nat) : W64 := BitVec.ofNat 64 (2 ^ n)

/-- A result written to the registers that await it, poisoned when its bytes were (20 R380).
Log 39 (DEDUCED, unsafe). -/
def Thread.liveResult (t : Thread) (a : Acc) (v : W64) (bad : Bool) : Thread :=
  match a.dst with
  | none => t
  | some d =>
    if tget t.pend d ≠ some a.gid then t
    else
      let u := { t with pend := t.pend.filter (fun e => e.2 ≠ a.gid) }
      let u := if a.wide then u.setPair d v else u.setReg d (lo32 v)
      if bad then { u with poison := u.poison ||| regBit d ||| (if a.wide then regBit (d + 1) else 0) } else u

/-- A result of a thread; one that has exited keeps it beside its freed registers (16 R304, 19 R360).
Log 39 (DEDUCED, unsafe). Log 105 (DEDUCED, unsafe). -/
def Thread.result (t : Thread) (a : Acc) (v : W64) (bad : Bool) : Thread :=
  if t.stat = .exited then
    let u := { t with regs := t.last }.liveResult a v false
    { t with last := u.regs, pend := u.pend }
  else t.liveResult a v bad

/-- The value of a uniform load in a 64-bit register (08 R155). -/
def uniResult (ty v : Nat) : W64 :=
  BitVec.ofNat 64 (if isInt ty then wrapInt 64 (intVal (isSigned ty) (fmtWidth ty) (v % 2 ^ fmtWidth ty)) else v % 2 ^ fmtWidth ty)

/-- A uniform result: one register, or the four of a `tread` (15 R281). Log 38 (DEDUCED, unsafe). -/
def Wave.liveResult (w : Wave) (a : Acc) (v : Nat) : Wave :=
  match a.dst with
  | none => w
  | some d =>
    let n := if a.op = 1 then 4 else 1
    (upto n).foldl (fun w i =>
      if tget w.pend (d + i) ≠ some a.gid then w
      else
        let x := if a.op = 1 then BitVec.ofNat 64 (v / 2 ^ (64 * i)) else uniResult a.ty v
        { w with s := tset w.s (d + i) x, pend := tdel w.pend (d + i) }) w

/-- A uniform result of a wave; one that has ended keeps it beside its released registers (24 R407).
Log 105 (DEDUCED, unsafe). -/
def Wave.result (w : Wave) (a : Acc) (v : Nat) : Wave :=
  if w.ended then
    let u := { w with s := w.last }.liveResult a v
    { w with last := u.s, pend := u.pend }
  else w.liveResult a v

/-- A result delivered to its owner; a request of another package keeps it for its answer (07 R130).
Log 105 (DEDUCED, unsafe). -/
def State.result (s : State) (a : Acc) (v : Nat) (bad : Bool) : State :=
  let x := BitVec.ofNat 64 v
  match a.owner with
  | .thread tid => (s.modThread tid (fun t => t.result a x bad)).fillLatches a.gid x
  | .uni wk => s.modWave wk (fun w => w.result a v)
  | .remote _ _ _ => s.modAcc a.gid (fun b => { b with
      res := x, bad := bad, cells := if a.block then cellsAt a.va.toNat (natBytes v (a.elem.width / 8)) else b.cells })
  | _ => s

/-! ### A header found invalid after the thread has gone on -/

/-- The wait of a thread. -/
def State.waitOf (s : State) (tid : Nat) : Option Wait := s.waits.find? (fun w => w.tids.contains tid)

/-- Whether a wait is resumed by issuing its instruction again. -/
def Wait.again (w : Wait) : Bool :=
  match w.what with | .tiles _ => false | .held _ => false | .latch => false | _ => true

/-- An arrival at `barw` withdrawn, while its phase has not completed. -/
def State.unarrive (s : State) (tid : Nat) (w : Wait) : State :=
  match w.what with
  | .barw id _ ph =>
    let tk := tkOf tid
    let (lev, num) := match s.launchOf tk with | some l => (l.teamLevel, l.num) | none => (1, 0)
    let (die, idx) := match tget s.teams tk with | some t => (t.die, t.idx) | none => (0, 0)
    let g := gidOf num lev id true idx
    s.modDie die (fun d => { d with bt := d.bt.map (fun e =>
      if e.is g 0 && e.phase = ph && w.arr ≠ 0 then { e with arrived := e.arrived - 1 } else e) })
  | _ => s

/-- Some waits' threads taken out of them: their arrivals no longer count, and their teams' arrivals are made again
(15 R283, 18 R354). -/
def State.leaveWaits (s : State) (ws : List Wait) (ts : List Nat) : State :=
  let s := ws.foldl (fun s w => (w.tids.filter ts.contains).foldl (fun s t => s.unarrive t w) s) s
  let teams := dedup (ws.map (fun w => tkOfW w.wk))
  let bs := s.wideBars ws
  let back (w : Wait) : Wait :=
    if teams.contains (tkOfW w.wk) && w.arr = 2 && ws.any (fun v => v.what = w.what && tkOfW v.wk = tkOfW w.wk) then { w with arr := 1 } else w
  let s : State := { s with waits := (s.waits.map (fun w =>
    back (if ws.contains w then { w with tids := w.tids.filter (fun t => !ts.contains t) } else w))).filter (fun w => !w.tids.isEmpty) }
  s.recount bs

/-- A thread taken from where it stands: where it was, and the PC at which it goes on. Log 29 (DEDUCED, unsafe). -/
def State.withdraw (s : State) (tid : Nat) : State × TStat × Va :=
  let t := s.thread tid
  match t.stat with
  | .inSheaf => let s := s.pullThread tid; (s, .ready, (s.thread tid).pc)
  | .waiting =>
    match s.waitOf tid with
    | some w =>
      if w.again then
        (s.leaveWaits [w] [tid], .ready, w.pc)
      else (s, .waiting, w.next)
    | none => (s, .ready, t.pc)
  | x => (s, x, t.pc)

/-- Threads parked by a fault of kind `kind` found after they have gone on, each where it stands (11 R206, 12 R227, 25
R416, R419). Log 29 (DEDUCED, unsafe). -/
def State.parkLateAs (s : State) (kind : Nat) (a : Acc) (tids : List Nat) (set : ParkSet) (access va : Nat) (k : Kept) : State :=
  let (grp, s) := s.fresh
  let s := tids.foldl (fun s tid =>
    let sup := (s.thread tid).sup
    let (s, was, rpc) := s.withdraw tid
    s.modThread tid (fun t => { t with
      stat := .parked
      park := some { kind := if sup then tNested else kind, set := set, grp := grp, trap := false, val := 0, rpc := rpc,
                     pc := a.pc, words := a.words, access := access, gid := a.gid, late := some k, was := was } })) s
  let up := tids.filter (fun t => (s.thread t).sup)
  let us := tids.filter (fun t => !(s.thread t).sup)
  let s := if up.isEmpty then s else s.queueTeam up (s.recOf up tNested 10 a.asid 0 a.pc a.words 0 0 0)
  let opb := if access = 1 then k.data else k.b
  if us.isEmpty then s else s.queueTeam us (s.recOf us kind access a.asid va a.pc a.words k.a opb (lo32 k.x))

/-- A per-lane trap found after its lane has gone on: taken where the lane stands, or owed to it while it is parked (12 R224,
08 R143). Log 46 (DEDUCED, unsafe). -/
def State.lateTrap (s : State) (a : Acc) (tid code : Nat) : State :=
  let t := s.thread tid
  if t.stat = .exited then s
  else if t.stat = .parked then
    s.modThread tid (fun t => { t with owed := some { tid := tid, code := code, val := 0, pc := a.pc, words := a.words, next := t.pc } })
  else
    let (s, _, rpc) := s.withdraw tid
    let s := s.leaveWaits (s.waits.filter (fun w => w.tids.contains tid)) [tid]
    s.deliver [tid] code a.pc (if t.stat = .waiting then t.pc else rpc) a.words 0

/-- Threads parked by a load whose tile's header is invalid. Log 29 (DEDUCED, unsafe). -/
def State.parkLate (s : State) (a : Acc) (tids : List Nat) (set : ParkSet) (access hdrVa : Nat) (k : Kept) : State :=
  s.parkLateAs kHeaderInvalid a tids set access hdrVa k

/-- The threads that an invalid header parks: the lane, or the live threads of the fragment. -/
def State.lateTids (s : State) (a : Acc) : List Nat :=
  match a.owner with
  | .thread tid => [tid]
  | .uni _ => a.tids.filter (fun t => !s.exited t)
  | _ => []

/-- A load whose tile's header is invalid: its thread or fragment parks, and the load ends unperformed.
Log 29 (DEDUCED, unsafe). -/
def State.lateHeader (s : State) (a : Acc) (hdrVa : Nat) : State :=
  let k := a.kept
  let s := s.finishAcc a 0
  match a.owner with
  | .thread tid => if s.exited tid then s else s.parkLate a [tid] .lane 0 hdrVa k
  | .uni wk => if (s.lateTids a).isEmpty then s else (s.modWave wk (fun w => { w with frag := some k })).parkLate a (s.lateTids a) .fragment 5 hdrVa k
  | .remote _ _ _ => s.modAcc a.gid (fun b => { b with bad := true, op := kHeaderInvalid })
  | _ => s

/-! ### The step -/

/-- The stores of the forwarding path that a load takes, in order of age (07 R127, R128). Log 41 (DEDUCED, unsafe). -/
def State.pathStores (s : State) (a : Acc) : List (Elem × Nat) :=
  if a.page.cc = 3 && a.elem.tile.isNone && (!a.isAcq || a.scope ≤ 3) then
    (s.accs.filter (fun e => e.2.onPath && !e.2.homed && !e.2.atHome &&
      clusterOf e.2.core = clusterOf a.core && e.2.deliv.contains a.core)).map (fun e => (e.2.elem, e.2.data.toNat))
  else []

/-- Whether a load belongs to a step of its own: a ring load, a station load or a product. -/
def State.loadApart (s : State) (g : Nat) : Bool :=
  s.ringLoads.any (fun r => r.g = g) || s.stationLoads.any (fun x => x.g = g) ||
  s.execs.any (fun c => c.2.products.any (fun p => p.g = g))

/-- The time before which no load of a VA reads, since its translation changed (17 R326). -/
def Die.invFloor (d : Die) (asid va : Nat) : Nat :=
  (d.invs.filter (fun i => (i.asid = none || i.asid = some asid) && i.lo ≤ va && va < i.hi)).foldl (fun m i => max m i.t) 0

/-- The lower limit of a load's time: F, L[x] of its lines, the load window, and the last change of its translation (07 R120, 17
R326). -/
def State.loadFloor (s : State) (a : Acc) : Nat :=
  let q := s.stream a.owner
  let d := s.die a.die
  a.floorKeys.foldl (fun m l => max m (tgetD q.lines l 0)) (max (max q.low (d.clock - loadWindow)) (d.invFloor a.page.asid a.va.toNat))

/-- The time of a load: `back` ticks before the clock, at or after its lower limit (07 R120). -/
def State.loadTime (s : State) (a : Acc) (back : Nat) : Nat :=
  let clock := (s.die a.die).clock
  min clock (max (s.loadFloor a) (clock - back))

/-- Whether copies in the core's L1, or in the guest ways of its die that its function may use, serve all the lines of a load (17 R308,
R311, R315). -/
def State.copyServes (s : State) (a : Acc) : Bool :=
  let d := s.die a.die
  let ways := match s.ownerOfAsid a.page.asid with | some v => guestWays (d.gwmOf v).toNat | none => []
  let ok (c : Copy) : Bool := c.asid = a.page.asid && (tget d.asleep c.unit).isNone && c.serves d.clock &&
    (c.unit = a.core % coresPerDie || (coresPerDie ≤ c.unit && a.page.cc ≤ 1 && ways.contains c.way))
  a.page.cc ≠ 2 && !a.lines.isEmpty && a.lines.all (fun l => d.copies.any (fun c => c.line = l && ok c))

/-- A load of package memory performed at a time (07 R120, 12 R225); one that copies serve asks nothing of its home, and its value is
the one they hold (07 R116). -/
def State.performLoad (s : State) (a : Acc) (t : Nat) : State :=
  let ws := s.ownStores a.owner a.target ++ s.pathStores a
  match a.loadValue ((s.die a.die).byte t) (if a.page.cc = 2 then [] else ws) with
  | none => s.lateHeader a (match a.elem.tile with | some x => x.hdrVa | none => 0)
  | some (r, own) =>
    let bad := !own && s.poisoned a.lines
    let s := s.flagAcc a r.2
    let s := s.result a r.1 bad
    let s :=
      if own then s.touchPage a.page false
      else
        let pages := a.page :: (match a.elem.tile with | some x => [{ a.page with pte := x.hdrPte }] | none => [])
        if s.copyServes a then (pages.foldl (fun s p => s.touchPage p false) s).modDie a.die (fun d => d.setRts a.lines t)
        else s.readDone a.die t pages (elemRange a.page a.elem) a.lines (clusterOf a.core)
    let s := if a.dead then s.modMem (fun m => { m with restores := m.restores ++ a.lines.map (fun l => (l, a.page.die)) }) else s
    s.finishAcc a (if own then 0 else t)

/-- LOAD_PERFORM (R120, R128, R141). A half-line that the host holds modified is snooped first (25 R414). -/
def execLoadPerform (g back : Nat) (s : State) : Host.Outcome State Fault Refusal :=
  match tget s.accs g with
  | none => notEnabled "LOAD_PERFORM"
  | some a =>
    let here : Bool := match a.target with | .pkg _ => true | _ => false
    let ok := a.kind = .load && a.stage = .issued && here && !s.loadApart g && s.mayGo a && !s.lineStall a.lines g &&
      (s.lateTids a).all (fun t => (s.thread t).stat ≠ .parked || s.exited t)
    if !ok then notEnabled "LOAD_PERFORM"
    else
      let hs := s.snoopsOf a.lines false
      if !hs.isEmpty then .next (s.snoop hs false)
      else .next (s.performLoad a (s.loadTime a back))

/-- The stores of a cluster's forwarding path, oldest first (07 R127). Log 41 (DEDUCED, unsafe). -/
def State.path (s : State) (c : Nat) : List Acc :=
  (s.accs.filter (fun e => e.2.onPath && !e.2.homed &&
    clusterOf e.2.core = c)).map (·.2)

/-- FORWARD_DELIVERY (R127): stores of one thread are delivered in program order. One that its die has applied has performed at
every scope with its last delivery (Table 7-3). -/
def execForwardDelivery (c j core : Nat) (s : State) : Host.Outcome State Fault Refusal :=
  match (s.path c)[j]? with
  | none => notEnabled "FORWARD_DELIVERY"
  | some a =>
    let before := (s.path c).take j
    if clusterOf core = c && !a.deliv.contains core && before.all (fun b => b.owner ≠ a.owner || b.deliv.contains core) then
      let s := s.modAcc a.gid (fun b => { b with deliv := b.deliv ++ [core] })
      .next (if a.applied && { a with deliv := a.deliv ++ [core] }.delivered then s.dropAcc a.gid else s)
    else notEnabled "FORWARD_DELIVERY"

end Sys2Proof.Machine
end

