-- ==== Sys2Proof/Machine/EvAtomic.lean ====
section
/-! DEFINITION. Atomics at home, batches, the drains of deterministic mode, fences and the die clock (07 R119, R124,
R125, R132 to R136, 12 R234 to R237, 15 R288, R292). -/

namespace Sys2Proof.Machine

/-! ### Deterministic mode -/

/-- The level whose instances own a held atomic: a declared level, or 8 for the launch (07 R136). -/
def Launch.ownerLevel (l : Launch) (scope : Nat) : Nat :=
  if scope ≤ 2 then l.teamLevel else ((l.levels.filter (fun k => scope ≤ l.scopeOf k)).head?).getD 8

/-- Whether a thread is stopped for the flush point of a level, 8 for the launch (07 R136).
Log 18 (DEDUCED, unsafe). -/
def State.stopped (s : State) (l : Launch) (lev tid : Nat) : Bool :=
  s.exited tid || s.detStalled tid ||
  match s.waitOf tid with
  | some w => (match w.what with
    | .bar k _ => lev ≤ k && (k < l.top || lev ≠ 8)
    | .barw _ _ _ => lev ≤ l.teamLevel
    | .aflush => true
    | .wlquiet _ _ => true
    | .held _ => true
    | _ => false)
  | none => false

/-- The teams of an instance of a level, or of the launch. -/
def State.instTeamsAll (s : State) (l lev inst : Nat) : List Nat :=
  (s.teamsOf l).filter (fun tk => lev = 8 || s.instOf lev (32 * tk) = inst)

/-- Whether an instance is at its flush point: every team of it has started, and every thread is stopped.
Log 64 (DEDUCED, unsafe). -/
def State.flushPoint (s : State) (l lev inst : Nat) : Bool :=
  match tget s.launches l with
  | none => false
  | some x =>
    (s.instTeamsAll l lev inst).all (fun tk => match tget s.teams tk with
      | some t => t.started || t.place = .ended
      | none => true) &&
    (s.instThreads l lev inst).all (fun t => s.stopped x lev t)

/-- Atomics that an instance owns and that are still held. Log 64 (DEDUCED, unsafe). -/
def State.heldOf (s : State) (l lev inst : Nat) : List Acc :=
  match tget s.launches l with
  | none => []
  | some x => (s.accs.filter (fun e => e.2.held && !e.2.drained && s.launchOfAcc e.2 = l &&
      x.ownerLevel e.2.scope = lev && (lev = 8 || (match e.2.owner with
        | .thread tid => s.instOf lev (wkOf tid) = inst
        | _ => false)))).map (·.2)

/-- Whether one push comes before another (15 R288). Log 64 (DEDUCED, unsafe). -/
def Push.lt (s : State) (x y : Push) : Bool :=
  let k (p : Push) : Nat × Nat × Nat × Nat := ((match tget s.teams p.team with | some t => t.idx | none => 0), p.wave, p.lane, p.order)
  keyLt (k x) (k y)

/-- Insertion of a push in order. Log 64 (DEDUCED, unsafe). -/
def insertPush (s : State) (p : Push) : List Push → List Push
  | [] => [p]
  | q :: r => if Push.lt s p q then p :: q :: r else q :: insertPush s p r

/-- Held pushes of some teams moved to their lists in order (15 R288). Log 64 (DEDUCED, unsafe). -/
def State.drainPushes (s : State) (l : Nat) (teams : List Nat) : State :=
  match tget s.launches l with
  | none => s
  | some x =>
    let mine := (x.held.filter (fun p => teams.contains p.team)).foldl (fun a p => insertPush s p a) []
    s.modLaunch l (fun y =>
      mine.foldl (fun y p => y.setItems p.list (y.items p.list ++ [(p.item, p.vc)]))
        { y with held := y.held.filter (fun p => !teams.contains p.team) })

/-- Waits of some kind of an instance's threads ended. -/
def State.endWaits (s : State) (f : Wait → Bool) : State := (s.waits.filter f).foldl (fun s w => s.endWait w) s

/-- Threads that no held atomic stalls any longer go on (07 R136). Log 18 (DEDUCED, unsafe). -/
def State.wakeStalled (s : State) : State := s.endWaits (fun w => w.what = .held 0 && !w.tids.any s.detStalled)

/-- Whether a wait belongs to some teams. -/
def Wait.ofTeams (w : Wait) (ts : List Nat) : Bool := ts.contains (tkOfW w.wk)

/-- Whether an atomic is still to be drained: its own step has not come. -/
def State.undrained (s : State) (g : Nat) : Bool := match tget s.accs g with | some a => a.held && a.stage ≠ .numbered | none => false

/-- Whether a wait is an `aflush` of some teams whose flush point has come and whose atomics have been drained (15 R292). -/
def State.flushed (s : State) (ts : List Nat) (w : Wait) : Bool :=
  w.what = .aflush && w.ofTeams ts && w.arr ≠ 0 && !w.fences.any s.undrained

/-- DET_FLUSH_DRAIN (R136, R288, R292): the atomics that the instance owns are drained, in order. An `aflush` of a team
notes at its team's flush point which atomics are being drained, and ends once they are. Log 64 (DEDUCED, unsafe). -/
def execDetFlushDrain (l lev inst : Nat) (s : State) : Host.Outcome State Fault Refusal :=
  match tget s.launches l with
  | none => notEnabled "DET_FLUSH_DRAIN"
  | some x =>
    let levOk := lev = 8 || (2 ≤ lev && lev ≤ x.top)
    let ts := s.instTeamsAll l lev inst
    let team := lev ≠ 8 && x.teamLevel = lev
    if x.det && team && s.waits.any (s.flushed ts) then .next (s.endWaits (s.flushed ts))
    else if !(levOk && x.det && s.flushPoint l lev inst && (s.draining l).isEmpty) then notEnabled "DET_FLUSH_DRAIN"
    else
      let held := s.heldOf l lev inst
      let s := held.foldl (fun s a => s.modAcc a.gid (fun b => { b with drained := true })) s
      let s := if lev = 8 || x.teamLevel ≤ lev then s.drainPushes l ts else s
      let note (w : Wait) : Wait :=
        if team && w.what = .aflush && w.ofTeams ts && w.arr = 0 then { w with arr := 1, fences := held.map (·.gid) } else w
      let s : State := { s with waits := s.waits.map note }
      .next ((s.endWaits (s.flushed ts)).wakeStalled)

/-- KERNEL_END_DRAIN (R136): everything that is still held, as one sequence. -/
def execKernelEndDrain (l : Nat) (s : State) : Host.Outcome State Fault Refusal :=
  match tget s.launches l with
  | none => notEnabled "KERNEL_END_DRAIN"
  | some x =>
    let ts := s.teamsOf l
    let ended := x.stage = .admitted && ts.all (fun tk => match tget s.teams tk with | some t => t.place = .ended | none => true)
    if !(x.det && ended && (s.draining l).isEmpty) then notEnabled "KERNEL_END_DRAIN"
    else
      let held := s.accs.filter (fun e => e.2.held && !e.2.drained && s.launchOfAcc e.2 = l)
      let s := held.foldl (fun s e => s.modAcc e.1 (fun b => { b with drained := true })) s
      .next (s.drainPushes l ts).wakeStalled

/-! ### Atomics at home -/

/-- The number up to which a die must apply a home's writes before an atomic has performed there: the last queued
write of its lines (07 R132). -/
def State.awaited (s : State) (a : Acc) (home : Nat) : Nat :=
  ((s.die a.die).aq.filter (fun w => w.home = home && w.lines.any (fun l => a.lines.contains l))).foldl (fun m w => max m w.num) 0

/-- An atomic that has returned `v` at home: its registers, the end of its held wait, and its end when its die has
applied what it waits for. -/
def State.atomDone (s : State) (home : Nat) (a : Acc) (v : Nat) (bad : Bool) : State :=
  let s := s.result a v bad
  let s := s.modAcc a.gid (fun b => { b with stage := .numbered, num := s.awaited a home })
  let s := s.endWaits (fun w => w.what = .held a.gid)
  s.endAtomics a.die home

/-- The home step of an atomic (07 R132, 12 R234); a `cas` that fails does not set D (01 R38). A tile whose header is invalid drops it, and its result is a value
that the manual does not give (11 R218, log entry 3). Log 65 (DESIGN CHOICE, safe). -/
def State.homeStep (s : State) (home : Nat) (a : Acc) : State :=
  let s := s.leaveReduce home a.lines
  match s.forceOf home (s.vcOf a.die) a with
  | .error h =>
    let s := s.dropRecord home a.asid h
    let (v, s) := s.takeFree
    s.atomDone home a (v.toNat % 2 ^ a.elem.width) false
  | .ok s =>
    let o := s.atomOld a
    let bad := s.poisoned a.lines
    let (n, wr, fl) := atomNew a o
    let s := s.flagAcc a fl
    let s := if wr then s.seqWrite home (s.vcOf a.die) (cellsAt a.elem.pa (natBytes n (a.elem.width / 8))) (some a.gid)
      else s.homeRequests home (clusterOf a.core) false a.lines
    (s.touchPage a.page wr).atomDone home a o bad

/-- The value that a `.spc` compares first: a load's, `back` ticks ago (07 R134). -/
def State.spcView (s : State) (a : Acc) (t : Nat) : Option Nat :=
  (a.loadValue ((s.die a.die).byte t) (if a.page.cc = 2 then [] else s.ownStores a.owner a.target ++ s.pathStores a)).map
    (fun r => r.1.1 % 2 ^ a.elem.width)

/-- Whether a home may take an atomic's step now. -/
def State.atomReady (s : State) (home : Nat) (a : Acc) : Bool :=
  a.kind = .atomic && a.stage = .issued && s.mayGo a && s.detTurn a && !s.writeStall a.lines a.gid && s.queuesOpen home

/-- ATOMIC_HOME_STEP (R132, R134). -/
def execAtomicHomeStep (g back : Nat) (s : State) : Host.Outcome State Fault Refusal :=
  match tget s.accs g with
  | none => notEnabled "ATOMIC_HOME_STEP"
  | some a =>
    match a.target with
    | .pkg home =>
      if !(s.atomReady home a && (a.held || (!a.weak && a.use ≠ .qnt))) then notEnabled "ATOMIC_HOME_STEP"
      else
        let hs := s.snoopsOf a.lines true
        if !hs.isEmpty then .next (s.snoop hs true)
        else
          let t := s.loadTime a back
          match (if a.use = .spc then s.spcView a t else none) with
          | some v =>
            if v = a.data.toNat % 2 ^ a.elem.width then .next (s.homeStep home a)
            else
              let s := (s.result a v (s.poisoned a.lines)).readDone a.die t [a.page] (elemRange a.page a.elem) a.lines (clusterOf a.core)
              .next ((s.finishAcc a t).endWaits (fun w => w.what = .held g))
          | none => .next (s.homeStep home a)
    | _ => notEnabled "ATOMIC_HOME_STEP"

/-- Prefix sums of operands from a value: what each operation returns, and the final value (07 R133). -/
def prefixSums (w v : Nat) : List Nat → List Nat × Nat
  | [] => ([], v)
  | y :: r => let (l, z) := prefixSums w ((v + y) % 2 ^ w) r; (v :: l, z)

/-- QNT_BATCH (R133). -/
def execQntBatch (gs : List Nat) (s : State) : Host.Outcome State Fault Refusal :=
  match gs.filterMap (fun k => tget s.accs k) with
  | [] => notEnabled "QNT_BATCH"
  | a :: r => match a.target with
    | .pkg home =>
      let one (b : Acc) : Bool := b.use = .qnt && !b.held && s.atomReady home b && b.core = a.core && b.target = a.target &&
        b.elem = a.elem && b.ty = a.ty
      if !(one a && r.all one && r.length + 1 = gs.length && gs.Nodup) then notEnabled "QNT_BATCH"
      else
        let hs := s.snoopsOf a.lines true
        if !hs.isEmpty then .next (s.snoop hs true)
        else
          let s := s.leaveReduce home a.lines
          match s.forceOf home (s.vcOf a.die) a with
          | .error _ =>
            .next ((a :: r).foldl (fun s b => s.homeStep home b) s)
          | .ok s =>
            let bad := s.poisoned a.lines
            let (vs, z) := prefixSums a.elem.width (s.atomOld a) ((a :: r).map (fun b => b.data.toNat % 2 ^ a.elem.width))
            let s := (s.seqWrite home (s.vcOf a.die) (cellsAt a.elem.pa (natBytes z (a.elem.width / 8))) none).touchPage a.page true
            .next (((a :: r).zip vs).foldl (fun s x => s.atomDone home x.1 x.2 bad) s)
    | _ => notEnabled "QNT_BATCH"

/-! ### Fences -/

/-- FENCE_COMPLETE (R124): a fence that needs no package drain; the acquire of a push waits for what the push released (15
R288). Log 63 (DEDUCED, unsafe). Log 111 (DEDUCED, unsafe). -/
def execFenceComplete (g : Nat) (s : State) : Host.Outcome State Fault Refusal :=
  match tget s.accs g with
  | none => notEnabled "FENCE_COMPLETE"
  | some f =>
    if f.kind = .fence && !f.drains && s.mayGo f && vcCovers (s.vcOf f.die) f.vc then .next (s.endFence f) else notEnabled "FENCE_COMPLETE"

/-- PACKAGE_DRAIN (R125): the fence takes the token with the counts that its die has applied; it completes when every
die has applied as much. Log 63 (DEDUCED, unsafe). -/
def execPackageDrain (g : Nat) (s : State) : Host.Outcome State Fault Refusal :=
  match tget s.accs g with
  | none => notEnabled "PACKAGE_DRAIN"
  | some f =>
    if !(f.kind = .fence && f.drains && s.mayGo f) then notEnabled "PACKAGE_DRAIN"
    else match s.hub.token with
      | none => .next (s.modHub (fun h => { h with token := some (g, s.vcOf f.die) }))
      | some (k, vc) =>
        if k = g && (upto nDies).all (fun d => vcCovers (s.vcOf d) vc) then
          .next ((s.endFence f).modHub (fun h => { h with token := none }))
        else notEnabled "PACKAGE_DRAIN"

/-! ### The clock -/

/-- Whether a wait counts for a blocked set (18 R345). -/
def Wait.blocking (w : Wait) : Bool := match w.what with | .tiles _ => false | .aflush => false | _ => true

/-- Whether a core's active set is blocked (18 R345). -/
def State.setBlocked (s : State) (c : Nat) : Bool :=
  let ts := s.teamsAt c .active
  !ts.isEmpty && ts.all (fun tk => (s.teamLive tk).all (fun t =>
    (s.thread t).stat = .parked || ((s.thread t).stat = .waiting &&
      (match s.waitOf t with | some w => w.blocking | none => false))))

/-- Whether a sequencer's watchdog counts a cycle (23 R403): its team has a thread ready to issue, or an access in
flight. Log 117 (DESIGN CHOICE, unsafe). -/
def State.watchCounts (s : State) (c : Nat) : Bool :=
  let ts := s.teamsAt c .active
  ts.any (fun tk =>
    (s.teamLive tk).any (fun t => !(s.thread t).sup && ((s.thread t).stat = .ready || (s.thread t).stat = .inSheaf)) ||
    s.accs.any (fun e => e.2.team = tk && e.2.kind ≠ .fence && (match e.2.owner with | .thread _ => true | .uni _ => true | _ => false)))

/-- A cycle of an executor. Log 8 (DESIGN CHOICE, unsafe). Log 117 (DESIGN CHOICE, unsafe). -/
def State.coreTick (s : State) (c : Nat) : State :=
  let active := !(s.teamsAt c .active).isEmpty
  let blocked := s.setBlocked c
  let wd := isSeq c && (tgetD (s.die (dieOfCore c)).nm (stackOf c % 4) {}).nmCtl.getLsbD 0 && s.watchCounts c
  s.modCore c (fun co => { co with
    activeCycles := if active then co.activeCycles + 1 else 0
    blockedCycles := if blocked then co.blockedCycles + 1 else 0
    swapping := co.swapping - 1
    issued := []
    watch := if wd then co.watch + 1 else co.watch })

/-- The die of an island, 4 for the hub's: 252 for each die, then 16 (26 R441). Log 84 (DEDUCED, unsafe). -/
def dieOfIsland (i : Nat) : Nat := i / 252

/-- THRCNT at the start of an epoch of 2^20 cycles of a die: its islands still throttled count again, the hub's with
die 0's (26 Table 26-9). Log 84 (DEDUCED, unsafe). -/
def State.throttleEpoch (s : State) (d : Nat) : State :=
  if (s.die d).cycles.toNat % 2 ^ 20 ≠ 0 then s
  else
    let mine (i : Nat) : Bool := dieOfIsland i = d || (d = 0 && dieOfIsland i = 4)
    s.modHub (fun h =>
      { h with thrSeen := h.thrSeen.filter (fun i => !mine i) ++ h.throttled.filter mine,
               thrCnt := h.thrCnt + BitVec.ofNat 64 (h.throttled.filter mine).length })

/-- DIE_CLOCK_TICK (R119, R310): one cycle of a die, of its executors, of the waits of its teams, and, on die 0, of the
package time (log entry 8). Log 8 (DESIGN CHOICE, unsafe). Log 117 (DESIGN CHOICE, unsafe). -/
def execDieClockTick (d : Nat) (s : State) : Host.Outcome State Fault Refusal :=
  if nDies ≤ d then notEnabled "DIE_CLOCK_TICK"
  else
    let s := s.modDie d (fun x => { x with clock := x.clock + 1, cycles := x.cycles + 1 }.nextGen.trim)
    let s := ((keys s.execs).filter (fun c => dieOfCore c = d)).foldl State.coreTick s
    let s : State := { s with
      teams := tmapAll s.teams (fun _ t => if t.place = .waiting && t.die = d then { t with waited := t.waited + 1 } else t)
      waits := s.waits.map (fun w => if s.dieOfTeam (tkOfW w.wk) ≠ d then w else match w.what with
        | .waitseq va sb thr (some n) => { w with what := .waitseq va sb thr (some (n - 1)) }
        | _ => w) }
    let s := s.throttleEpoch d
    .next (if d = 0 then s.modHub (fun h => { h with time := h.time + 1 }) else s)

end Sys2Proof.Machine
end

