-- ==== Sys2Proof/Machine/EvWave.lean ====
section
/-! DEFINITION. Steps of waves: rendezvous that wait for a resource, splits, the rendezvous latch, station loads,
products, tile ranges and ring loads (01 R10, 10 R191 to R202, 13 R242, 14 R258 to R276, 15 R279). -/

namespace Sys2Proof.Machine

/-! ### Rendezvous -/

/-- What a rendezvous instruction does; none for any other. -/
def meetExec (i : Instr) (s : State) : Option (Host.Outcome State Fault Refusal) :=
  match i with
  | .shfl m f => some (execShfl m f s)
  | .shfli m f => some (execShfli m f s)
  | .vote m f => some (execVote m f s)
  | .redu m f => some (execRedu m f s)
  | .redmaxi m f => some (execRedmaxi m f s)
  | .scan m f => some (execScan m f s)
  | .cmpr m f => some (execCmpr m f s)
  | .expd m f => some (execExpd m f s)
  | .slup m f => some (execSlup m f s)
  | .sldn m f => some (execSldn m f s)
  | .bcast m f => some (execBcast m f s)
  | .wfind m f => some (execWfind m f s)
  | .cvtMx m f => some (execCvtMx m f s)
  | .mxsc m f => some (execMxsc m f s)
  | .fence m f => some (execFence m f s)
  | .gang m f => some (execGang m f s)
  | .station m f => some (execStation m f s)
  | .unstation m f => some (execUnstation m f s)
  | .mma m f => some (execMma m f s)
  | .mmat m f => some (execMmat m f s)
  | .mdual m f => some (execMdual m f s)
  | .azero m f => some (execAzero m f s)
  | .ald m f => some (execAld m f s)
  | .ast m f => some (execAst m f s)
  | .ascl m f => some (execAscl m f s)
  | .aread m f => some (execAread m f s)
  | .mwait m f => some (execMwait m f s)
  | _ => none

/-- The instruction of some words. -/
def wordsInstr (w : W64) : Option Instr :=
  match decode (lo32 w) (hi32 w) with | .instr i => some i | _ => none

/-- RENDEZVOUS_EXECUTE (R242): the meeting of a wave executes, a sheaf of no threads standing for it. -/
def execRendezvousExecute (wk : Nat) (s : State) : Host.Outcome State Fault Refusal :=
  if !(s.meets wk && !s.halted wk) then notEnabled "RENDEZVOUS_EXECUTE"
  else
    let (pc, words) := s.meetWords wk
    let h : Sheaf := { core := s.coreOf (tkOfW wk), team := wk, pc := pc, tids := [] }
    match (wordsInstr words).bind (fun i => meetExec i { s with sheaves := h :: s.sheaves }) with
    | some o => o
    | none => notEnabled "RENDEZVOUS_EXECUTE"

/-- XLANE_SPLIT (R10): every thread waits at a rendezvous, none is parked, and no PC holds all of them. -/
def execXlaneSplit (wk : Nat) (s : State) : Host.Outcome State Fault Refusal :=
  let live := s.liveOf wk
  let pcs := sortNat (dedup (live.map (fun t => (s.thread t).pc.toNat)))
  if !(live.all (fun t => (s.thread t).stat = .rendezvous) && 2 ≤ pcs.length) then notEnabled "XLANE_SPLIT"
  else
    .next (pcs.foldl (fun x pc =>
      let ts := live.filter (fun t => (s.thread t).pc.toNat = pc)
      let words := match (s.thread (ts.headD 0)).kept with | some k => k.words | none => 0
      (x.modThreads ts (fun _ t => { t with kept := none })).deliver ts tXlaneSplit (BitVec.ofNat 57 pc) (BitVec.ofNat 57 pc) words 0) s)

/-- What a complete latch entry does (14 R258, R261). Log 53 (DEDUCED, unsafe). -/
def gangAct (i : Instr) (s : State) (ws : List Nat) : Option State :=
  match i with
  | .gang _ _ => some ((ws.foldl (fun s w => s.joinStreams (s.waveOwners w)) s).fileWaves ws)
  | .mma m f => s.prodStart m f (fun s l n => s.mmaSpec f false l n) ws
  | .mmat m f => s.prodStart m f (fun s l n => s.mmaSpec f true l n) ws
  | .mdual m f => s.prodStart m f (fun s l n => s.mdualSpec f l n) ws
  | _ => none

/-- GANG_LATCH_MEET (R258): a complete entry of a core's latch executes. -/
def execGangLatchMeet (c i : Nat) (s : State) : Host.Outcome State Fault Refusal :=
  match (s.core c).gangs[i]? with
  | none => notEnabled "GANG_LATCH_MEET"
  | some e =>
    if (gangWaves e.gang).any (fun w => s.halted (32 * e.team + w) ||
        (s.liveOf (32 * e.team + w)).any (fun t => (s.thread t).stat = .parked)) then notEnabled "GANG_LATCH_MEET"
    else match (wordsInstr e.words).bind (fun x => s.gangFire c i (gangAct x)) with
      | some s => .next s
      | none => notEnabled "GANG_LATCH_MEET"

/-! ### Reads of many lines -/

/-- A load that every thread of some waves makes at once: none while program order, a line or the host keeps it; the
inner answer is none when the host is asked first. -/
def State.sharedGo (s : State) (g : Nat) : Option (Acc × Option State) :=
  match tget s.accs g with
  | none => none
  | some a =>
    if !s.sharedReady a || s.lineStall a.lines g then none
    else
      let hs := s.snoopsOf a.lines false
      if hs.isEmpty then some (a, none) else some (a, some (s.snoop hs false))

/-- The leases, bits and merges of a read of elements, and its end (07 R120, R268). -/
def State.sharedEnd (s : State) (a : Acc) (p : Page) (ps : List Page) (es : List Elem) : State :=
  let t := (s.die a.die).clock
  (s.readDone a.die t (pagesOfElems ps es) (es.flatMap (elemRange p)) a.lines (clusterOf a.core)).finishAcc a t

/-- Live threads of some waves that a late park may take. -/
def State.liveAll (s : State) (ws : List Nat) : List Nat := ws.flatMap s.liveOf

/-- Bank words marked poisoned. -/
def State.spMark (s : State) (tk : Nat) (ws : List Nat) : State :=
  if ws = [] then s
  else
    let c := s.coreOf tk
    if (s.core c).bankTeam = some tk then s.modCore c (fun co => { co with spPoison := dedup (co.spPoison ++ ws) })
    else s.modTeam tk (fun t => { t with spPoison := dedup (t.spPoison ++ ws) })

/-- BSY cleared in a descriptor. -/
def stReady (d : W64) : W64 := d &&& ~~~ 4#64

/-- STATION_LOAD_COMPLETE (R265): the source is read at one time and the footprint written. -/
def execStationLoadComplete (tk w : Nat) (s : State) : Host.Outcome State Fault Refusal :=
  match s.stationLoads.find? (fun x => x.team = tk && x.w = w) with
  | none => notEnabled "STATION_LOAD_COMPLETE"
  | some x =>
    if (s.liveOf x.wk).any (fun t => (s.thread t).stat = .parked) then notEnabled "STATION_LOAD_COMPLETE"
    else match s.sharedGo x.g with
    | none => notEnabled "STATION_LOAD_COMPLETE"
    | some (_, some s) => .next s
    | some (a, none) => match s.readEls a.die x.page x.elems with
      | .error h => .next (s.parkLate a (s.liveOf x.wk) .wave accMx h { pc := x.pc, words := x.words })
      | .ok els =>
        let d := s.station tk w
        let s := s.spWrite tk (stCells d els)
        let s := (s.spMark tk (stBad d els)).setStation tk w (stReady d)
        let s : State := { s with stationLoads := s.stationLoads.erase x }
        .next (s.sharedEnd a x.page x.pages x.elems)

/-- A list cut into runs of `n`. -/
def chunks {α : Type} (n : Nat) (l : List α) : Nat → List (List α)
  | 0 => []
  | k + 1 => if l.isEmpty then [] else l.take n :: chunks n (l.drop n) k

/-- The streamed elements of a product read, or the header VA of an invalid tile (14 R268). -/
def State.readParts (s : State) (die : Nat) : List MxPart → Except Nat (List MxPart)
  | [] => .ok []
  | x :: r => match s.readEls die x.page x.els, s.readParts die r with
    | .ok els, .ok l => .ok ({ x with rows := chunks x.len els els.length } :: l)
    | .error h, _ => .error h
    | _, .error h => .error h

/-- Whether the tile fetch unit asks for an operand by column lines: its page has LAY = 1 and its reduction runs down the rows (17 R317).
Log 85 (DEDUCED, safe). -/
def MxPart.byCols (x : MxPart) : Bool := x.page.lay && 256 ≤ x.ks * fmtWidth x.page.fmt

/-- A product's streamed operands read, so that its K-group steps can go on: none while it must wait; the Boolean says
that they are read (14 R268). -/
def State.productRead (s : State) (c i : Nat) (p : Product) : Option (State × Bool) :=
  if p.read then some (s, true)
  else if (s.liveAll p.waves).any (fun t => (s.thread t).stat = .parked && (match (s.thread t).park with
      | some k => k.late.isSome && k.pc = p.pc | none => false)) then none
  else match s.sharedGo p.g with
    | none => none
    | some (_, some s) => some (s, false)
    | some (a, none) => match s.readParts a.die p.parts with
      | .error h =>
        some (s.parkLate a (s.liveAll p.waves) (if p.waves.length = 1 then .wave else .gang) accMx h { pc := p.pc, words := p.words }, false)
      | .ok ps =>
        let s := p.parts.foldl (fun s x => s.readDone a.die (s.die a.die).clock (pagesOfElems x.pages x.els) (x.els.flatMap (elemRange x.page))
          (if x.byCols then sectorLines (linesOfElems x.els) else []) (clusterOf a.core) x.byCols) s
        let s := s.modDie a.die (fun d => d.setRts a.lines d.clock)
        let s := s.finishAcc a (s.die a.die).clock
        some (s.setProduct c i { p with read := true, parts := ps }, true)

/-- The matrix-progress state of some waves cleared: their product is no longer interrupted (14 R273). -/
def State.clearProg (s : State) (ws : List Nat) : State := ws.foldl (fun s w => s.modWave w (fun x => { x with mprog := 0 })) s

/-- PRODUCT_COMPLETE (R272): every K-group step that is left, then tiles and pins are free. -/
def execProductComplete (c i : Nat) (s : State) : Host.Outcome State Fault Refusal :=
  match (s.core c).products[i]? with
  | none => notEnabled "PRODUCT_COMPLETE"
  | some p =>
    if !(s.teamActive p.team && s.banksHere p.team && s.coreOf p.team = c && (s.core c).swapping = 0 &&
        !p.waves.any s.halted) then notEnabled "PRODUCT_COMPLETE"
    else match s.productRead c i p with
      | none => notEnabled "PRODUCT_COMPLETE"
      | some (s, false) => .next s
      | some (s, true) =>
        let q := ((s.core c).products[i]?).getD p
        let s := s.prodRest q q.steps
        .next ((s.modCore c (fun co => { co with products := ldel co.products i })).clearProg p.waves)

/-! ### Ends of waits -/

/-- MWAIT_COMPLETE (R276). -/
def execMwaitComplete (i : Nat) (s : State) : Host.Outcome State Fault Refusal :=
  match s.waits[i]? with
  | none => notEnabled "MWAIT_COMPLETE"
  | some w => if w.what = .mwait && s.mwaitDone w.wk then .next (s.endWait w) else notEnabled "MWAIT_COMPLETE"

/-- TILE_RANGE_COMPLETE (R279 step 5): every write of the range is applied at the issuing die. -/
def execTileRangeComplete (i : Nat) (s : State) : Host.Outcome State Fault Refusal :=
  match s.waits[i]? with
  | none => notEnabled "TILE_RANGE_COMPLETE"
  | some w => match w.what with
    | .tiles rs => if rs.all (fun g => (tget s.accs g).isNone) then .next (s.endWait w) else notEnabled "TILE_RANGE_COMPLETE"
    | _ => notEnabled "TILE_RANGE_COMPLETE"

/-! ### Ring loads -/

/-- Points of a ring type (10 R185). -/
def skPoints (ty : Nat) : Nat := skCells ty / 2

/-- Whether a ring image is valid (10 R193). -/
def ringOk (ty : Nat) (b : List W8) : Bool :=
  let byte (i : Nat) : Nat := ((b.getD i 0).toNat : Nat)
  let pt (i : Nat) : Nat := bytesNat ((b.drop (0x20 + 4 * i)).take 4)
  let m := skPoints ty
  byte 0 = ty && byte 1 = m &&
  (upto (m - 1)).all (fun i => (decodeVal 1 (pt i)).isFin) &&
  (upto (m - 2)).all (fun i => cmpVal (decodeVal 1 (pt i)) (decodeVal 1 (pt (i + 1))) == .lt) && pt (m - 1) = f32PosInf

/-- The rings of a team after an image is bound to a context (10 R191). -/
def bindRing (rs : List Ring) (c ty : Nat) (b : List W8) : List Ring :=
  (upto 4).map (fun i =>
    if i = c then { image := b, bound := ty }
    else let r := rs.getD i {}; if r.bound = ty then { r with bound := 0 } else r)

/-- A ring's image bound, or the trap of an invalid one (10 R191, R193, R201). -/
def State.bindImage (s : State) (r : RingLoad) (b : List W8) : State :=
  let img := b.take (skImage r.ty)
  if ringOk r.ty img then s.modTeam r.team (fun t => { t with rings := bindRing t.rings r.ctx r.ty img })
  else
    let ts := r.tids.filter (fun t => !s.exited t)
    (ts.foldl (fun s t => (s.withdraw t).1) s).deliver ts tRingInvalid r.pc r.pc r.words 0

/-- A ring load whose image comes from outside the package, once it is all there. Log 46 (DEDUCED, unsafe). -/
def State.bindFar (s : State) (r : RingLoad) : Option State :=
  match s.blocks r.far with
  | none => none
  | some x =>
    let k := ((r.far.filterMap (fun g => tget s.accs g)).head?).map (·.kept)
    let a := (r.far.filterMap (fun g => tget s.accs g)).head?
    let s := s.dropBlocks r.far
    match x, a with
    | .ok b, _ => some (s.bindImage r b)
    | .error e, some a => some (s.parkLateAs e.1 a (r.tids.filter (fun t => !s.exited t)) .fragment 0 e.2 (k.getD {}))
    | .error _, none => some s

/-- RING_CONTEXT_BIND (R191, R193, R201, R202): the image is read as of one moment, the named ticks before the clock at most (07
R120); an invalid one traps its lanes. Log 47 (DEDUCED, unsafe). -/
def execRingContextBind (i : ReadAt) (s : State) : Host.Outcome State Fault Refusal :=
  match s.ringLoads[i.n]? with
  | none => notEnabled "RING_CONTEXT_BIND"
  | some r =>
    let gone : State := { s with ringLoads := ldel s.ringLoads i.n }
    if !r.far.isEmpty then match gone.bindFar r with
      | some t => .next t
      | none => notEnabled "RING_CONTEXT_BIND"
    else match s.sharedGo r.g with
    | none => notEnabled "RING_CONTEXT_BIND"
    | some (_, some s) => .next s
    | some (a, none) =>
      let t := s.loadTime a i.back
      let ws := if a.page.cc = 2 then [] else s.ownStores a.owner a.target ++ s.pathStores a
      let b := r.pa.flatMap (fun pa => (upto 256).map (fun k => s.rawByte ws r.die t (pa + k)))
      let g := (gone.readDone r.die t r.pages ((r.pages.zip r.pa).map (fun x => (x.1.die, x.2, 256))) a.lines (clusterOf a.core)).finishAcc a t
      .next (g.bindImage r b)

end Sys2Proof.Machine
end

