-- ==== Sys2Proof/Machine/Flits.lean ====
section
/-! DEFINITION. Header flits, the ports of a channel, and the sending of a message (25 R417, R418). -/

namespace Sys2Proof.Machine

/-- Fields of a header flit (25 Table 25-4). -/
structure FHdr where
  type : Nat
  dst : Nat
  src : Nat
  sdie : Nat
  tag : Nat
  core : Nat
  len : Nat
  va : Nat
  ops : Nat
  seq : Nat
  deriving DecidableEq, Repr

/-- A header from its bits. -/
def fhdr (f : Flit) : FHdr :=
  let h := f.hdr.toNat
  { type := bits h 7 0, dst := bits h 18 8, src := bits h 29 19, sdie := bits h 31 30, tag := bits h 47 32, core := bits h 56 48,
    len := bits h 60 58, va := bits h 120 64, ops := bits h 191 128, seq := bits h 223 192 }

/-- A header's bits. -/
def FHdr.bits256 (h : FHdr) : BitVec 256 :=
  BitVec.ofNat 256 (h.type % 2 ^ 8 + h.dst % 2 ^ 11 * 2 ^ 8 + h.src % 2 ^ 11 * 2 ^ 19 + h.sdie % 4 * 2 ^ 30 + h.tag % 2 ^ 16 * 2 ^ 32 +
    h.core % 2 ^ 9 * 2 ^ 48 + h.len % 8 * 2 ^ 58 + h.va % 2 ^ 57 * 2 ^ 64 + h.ops % 2 ^ 64 * 2 ^ 128 + h.seq % 2 ^ 32 * 2 ^ 192)

/-- Ports of a mask, from the lowest. -/
def maskPorts (m : Nat) : List Nat := (upto 18).filter (bitAt m)

/-- The port that the routing register gives a channel (25 R417). Log 16 (DESIGN CHOICE, safe). -/
def State.routePort (s : State) (core pkg : Nat) : Option Nat :=
  let ps := maskPorts (tgetD s.hub.fabRt pkg 0).toNat
  if ps.isEmpty then none else ps[core % ps.length]?

/-- The channel of a core to a package. -/
def State.chan (s : State) (core pkg : Nat) : Channel := tgetD s.chans (chanKey core pkg) {}
/-- A channel changed. -/
def State.modChan (s : State) (core pkg : Nat) (f : Channel → Channel) : State :=
  { s with chans := tset s.chans (chanKey core pkg) (f (s.chan core pkg)) }

/-- The port that a channel uses now: it keeps its port while anything is in flight (25 R417). None when the package has no
route or the port is down. -/
def State.usePort (s : State) (core pkg : Nat) : Option Nat :=
  let c := s.chan core pkg
  match (match c.port with | some p => if c.flight.isEmpty then s.routePort core pkg else some p | none => s.routePort core pkg) with
  | some p => if s.hub.portsDown.contains p then none else some p
  | none => none

/-- Data of a flit in whole data flits. -/
def padData (b : List W8) : List W8 := b ++ (upto ((32 - b.length % 32) % 32)).map (fun _ => (0 : W8))

/-- A message sent on a channel; nothing where the package has no route. Log 16 (DESIGN CHOICE, safe). -/
def State.sendFlit (s : State) (type core pkg sdie tag va ops : Nat) (data : List W8) : State :=
  match s.usePort core pkg with
  | none => s
  | some p =>
    let d := padData data
    let h : FHdr := { type := type, dst := pkg, src := s.hub.fabId.toNat, sdie := sdie, tag := tag, core := core, len := d.length / 32,
                      va := va, ops := ops, seq := (s.chan core pkg).seq }
    let s := s.modChan core pkg (fun c => { c with port := some p, seq := c.seq + 1 })
    { s with out := s.out ++ [.flit p { hdr := h.bits256, data := d }] }

/-- The tag of a function (25 Table 25-6). -/
def State.tagOf (s : State) (v : Nat) : Nat := bits (s.vf v).fabTag.toNat 15 0

end Sys2Proof.Machine
end

