-- ==== Sys2Proof/Machine/EvSync.lean ====
section
/-! DEFINITION. Ends of barriers and of waits (15 R283 to R291, 18 R353 to R356, 07 R138, R139). -/

namespace Sys2Proof.Machine

/-! ### Barriers -/

/-- Whether the implied fences of a wait have completed (07 R139). -/
def State.fencesDone (s : State) (w : Wait) : Bool := w.fences.all (fun g => (tget s.accs g).isNone)

/-- Whether every team of an instance has started or ended. -/
def State.instStarted (s : State) (l k inst : Nat) : Bool :=
  (s.instTeamsAll l k inst).all (fun tk => match tget s.teams tk with
    | some t => t.started || t.place = .ended
    | none => true)

/-- Whether a barrier of level `k` has every thread of its instance (15 R283), and its tree every arrival (18 R354). -/
def State.barMet (s : State) (l k id inst : Nat) : Bool :=
  s.instStarted l k inst &&
  (s.instThreads l k inst).all (fun t => s.exited t || ((s.thread t).stat = .waiting && s.hasArrived k id 1 t)) &&
  s.barTop l k id inst

/-- Waits that leave a barrier: floors take the die clock, and their threads go on (07 R139). -/
def State.leaveBar (s : State) (ws : List Wait) : State :=
  ws.foldl (fun s w =>
    (s.raiseFence (fragOwners w.tids) (s.die (s.dieOfTeam (tkOfW w.wk))).clock).endWait w) s

/-- Entries of a group freed on every die. -/
def State.btFree (s : State) (gid : W64) : State :=
  (upto nDies).foldl (fun s d => s.modDie d (fun x => { x with bt := x.bt.filter (fun e => e.gid ≠ gid) })) s

/-- Waits at a barrier of a team. -/
def Wait.ofTeamAt (w : Wait) (tk k id : Nat) : Bool := w.atBar k id && tkOfW w.wk = tk

/-- A wait replaced. -/
def State.setWait (s : State) (w v : Wait) : State := { s with waits := s.waits.map (fun x => if x = w then v else x) }

/-- The arrival of a fragment at `bar k, id`: it counts at its core; when its team is complete and the level wider than the
team, the team's arrival goes to the tree, or the die that lacks an entry is named (18 R354, R355). -/
def State.barArrive (s : State) (w : Wait) (k id : Nat) : Except Nat State :=
  let tk := tkOfW w.wk
  let s := s.setWait w { w with arr := max 1 w.arr, spill := false }
  match s.launchOf tk, tget s.teams tk with
  | some l, some t =>
    if k ≤ l.teamLevel || !s.teamAtBar tk k id 1 then .ok s
    else
      let s : State := { s with waits := s.waits.map (fun x => if x.ofTeamAt tk k id then { x with arr := 2 } else x) }
      s.barNodes t.launch k id (s.instOf k w.wk)
  | _, _ => .ok s

/-- A `barw` arrival whose entry is at hand: its threads join the phase in progress and those after it (15 R284).
Log 57 (DEDUCED, unsafe). -/
def State.barwArrive (s : State) (w : Wait) (die : Nat) (gid : W64) (id n : Nat) : State :=
  match s.btFind die gid 0 with
  | none => s
  | some e =>
    let (ps, ph, ar) := barwSplit n e.phase e.arrived w.tids w.tids.length
    let s := s.modDie die (fun d => { d with bt := d.bt.map (fun x =>
      if x.is gid 0 then { x with expected := n, arrived := ar, phase := ph } else x) })
    let one (p : Nat × List Nat) : Wait := { w with tids := p.2, what := .barw id n p.1, arr := 1, spill := false }
    { s with waits := s.waits.filter (· ≠ w) ++ ps.map one }

/-- The arrival of a wait at its barrier, or the die and the group id of the entry that it lacks (18 R354 to R356). -/
def State.arrive (s : State) (w : Wait) : Except (Nat × W64) State :=
  let tk := tkOfW w.wk
  match w.what with
  | .bar k id => match s.barArrive w k id with
    | .ok s => .ok s
    | .error d => .error (d, match s.launchOf tk with | some l => l.gid k id (s.instOf k w.wk) | none => 0)
  | .barw id n _ =>
    let (lev, num) := match s.launchOf tk with | some l => (l.teamLevel, l.num) | none => (1, 0)
    let (die, idx) := match tget s.teams tk with | some t => (t.die, t.idx) | none => (0, 0)
    let gid := gidOf num lev id true idx
    match s.btGet die gid 0 n with
    | some s => .ok (s.barwArrive w die gid id n)
    | none => .error (die, gid)
  | _ => .ok s

/-- Whether a wait still has its arrival to make: it has made none, or exits have completed its team, or it spilled
(18 R354, R356). -/
def State.arriving (s : State) (w : Wait) : Bool :=
  w.spill || w.arr = 0 || (match w.what, s.launchOf (tkOfW w.wk) with
    | .bar k id, some l => l.teamLevel < k && w.arr = 1 && s.teamAtBar (tkOfW w.wk) k id 1
    | _, _ => false)

/-- The release of a barrier sent to the packages whose arrival at it was received (18 R354): OPS holds the group id. -/
def State.farRelease (s : State) (die vf : Nat) (gid : W64) : State :=
  match tget s.bars gid.toNat with
  | none => s
  | some ps =>
    let s := ps.foldl (fun s p => s.sendFlit 0x11 (coresPerDie * die) p die (s.tagOf vf) 0 gid.toNat []) s
    { s with bars := tdel s.bars gid.toNat }

/-- BARRIER_RELEASE (R283, R284, R354): the barrier at which wait `i` stands completes. The wait's arrival comes first, once its
implied fences have completed (07 R139); one that lacks an entry raises `BAR_SPILL` and waits (R356).
Log 119 (DEDUCED, unsafe). -/
def execBarrierRelease (i : Nat) (s : State) : Host.Outcome State Fault Refusal :=
  match s.waits[i]? with
  | none => notEnabled "BARRIER_RELEASE"
  | some w =>
    let tk := tkOfW w.wk
    let bar : Bool := match w.what with | .bar _ _ | .barw _ _ _ => true | _ => false
    if bar && s.arriving w then
      if !s.fencesDone w then notEnabled "BARRIER_RELEASE"
      else match s.arrive w with
        | .ok s => .next s
        | .error (d, gid) => if w.spill then notEnabled "BARRIER_RELEASE" else .next ((s.barSpill d gid).setWait w { w with spill := true })
    else match w.what, s.launchOf tk, tget s.teams tk with
    | .bar k id, some x, some t =>
      let inst := s.instOf k w.wk
      let gid := gidOf x.num k id false inst
      if !(s.barMet t.launch k id inst) then notEnabled "BARRIER_RELEASE"
      else
        let ws := s.waits.filter (fun v => v.atBar k id && (s.instThreads t.launch k inst).any v.tids.contains)
        .next (((s.leaveBar ws).btFree gid).farRelease t.die t.vf gid)
    | .barw id n ph, some x, some t =>
      let gid := gidOf x.num x.teamLevel id true t.idx
      let past := match s.btFind t.die gid 0 with | some e => ph < e.phase | none => false
      let ws := s.waits.filter (fun v => v.arr ≠ 0 && tkOfW v.wk = tk && (match v.what with
        | .barw id' _ ph' => id' = id && ph' = ph
        | _ => false))
      if n = 0 || !past then notEnabled "BARRIER_RELEASE" else .next (s.leaveBar ws)
    | _, _, _ => notEnabled "BARRIER_RELEASE"

/-! ### Barriers that can never complete -/

/-- A barrier that threads wait at: level, id and instance, or with level 8 a `barw` id of a team. -/
abbrev BarKey := Nat × Nat × Nat

/-- The barrier of a wait. -/
def State.barKey (s : State) (w : Wait) : Option BarKey :=
  match w.what with
  | .bar k id => some (k, id, s.instOf k w.wk)
  | .barw id _ _ => some (8, id, tkOfW w.wk)
  | _ => none

/-- The barrier at which a thread waits. -/
def State.barOf (s : State) (tid : Nat) : Option BarKey :=
  if (s.thread tid).stat = .waiting then (s.waitOf tid).bind s.barKey else none

/-- Whether a thread can still arrive at a barrier, given barriers that can complete: it waits at none, or at one of
those. Log 67 (DEDUCED, unsafe). -/
def State.canArrive (s : State) (ok : List BarKey) (tid : Nat) : Bool :=
  match s.barOf tid with | none => true | some b => ok.contains b

/-- Whether a barrier of a launch can complete, given barriers that can (15 R285). Log 67 (DEDUCED, unsafe). -/
def State.completable (s : State) (l : Nat) (ok : List BarKey) (b : BarKey) : Bool :=
  if b.1 = 8 then
    let live := s.teamLive b.2.2
    let at' := live.filter (fun t => s.barOf t = some b)
    let n := match s.waits.find? (fun w => s.barKey w = some b) with
      | some w => (match w.what with | .barw _ n _ => n | _ => 0)
      | none => 0
    n ≤ at'.length + (live.filter (fun t => s.barOf t ≠ some b && s.canArrive ok t)).length
  else
    (s.instThreads l b.1 b.2.2).all (fun t => s.exited t || s.barOf t = some b || s.canArrive ok t)

/-- Barriers that can complete: the least set closed under `completable`. Log 67 (DEDUCED, unsafe). -/
def State.liveBars (s : State) (l : Nat) (bs : List BarKey) : Nat → List BarKey
  | 0 => []
  | n + 1 => let ok := s.liveBars l bs n; bs.filter (s.completable l ok)

/-- BAR_SPLIT (R285). Log 67 (DEDUCED, unsafe). -/
def execBarSplit (l lev inst : Nat) (s : State) : Host.Outcome State Fault Refusal :=
  let live := (s.instThreads l lev inst).filter (fun t => !s.exited t)
  let all := (s.waits.filter (fun w => match tget s.teams (tkOfW w.wk) with | some t => t.launch = l | none => false)).filterMap s.barKey
  let bs := all.eraseDups
  let ok := s.liveBars l bs bs.length
  let stuck := live.all (fun t => match s.barOf t with | some b => !ok.contains b | none => false)
  if !(1 ≤ lev && lev ≤ 7 && !live.isEmpty && s.instStarted l lev inst && stuck) then notEnabled "BAR_SPLIT"
  else
    let mine (w : Wait) : Bool := w.tids.any live.contains
    let ws := s.waits.filter mine
    let s := s.leaveWaits ws live
    let s := (ws.flatMap (·.fences)).foldl (fun s g => match tget s.accs g with | some f => s.endFence f | none => s) s
    .next (s.deliverLanes (ws.flatMap (fun w => (w.tids.filter live.contains).map (fun t =>
      ⟨t, tBarSplit, 0, w.pc, (w.kept.getD {}).words, w.next⟩))))

/-! ### Completion words and channels -/

/-- The load of a completion word by a wave's uniform stream, which its program order lets perform; with the page and
the time (15 R291). -/
def State.seqWord (s : State) (w : Wait) (va back : Nat) : Option (Except Nat (Page × Nat × Nat) × State) :=
  let tid := w.tids.headD 0
  let die := s.dieOfTeam (tkOfW w.wk)
  match s.translate (s.asidOf tid) va false false with
  | (.error k, s) => some (.error k, s)
  | (.ok p, s) =>
    let pa := p.pa + (va - p.va)
    let a : Acc := { gid := s.next, owner := .uni w.wk, core := s.coreOf (tkOfW w.wk), die := die, kind := .load, page := p,
                     target := .pkg p.die, elem := { pa := pa, bit := 8 * pa, width := 64 }, lines := linesOf pa 8 }
    let q := s.stream a.owner
    let before := (s.before q a).filter (fun e => !w.fences.contains e.gid)
    if before.any (fun e => q.blocks e a) || s.lineStall a.lines a.gid || !(s.snoopsOf a.lines false).isEmpty then none
    else
      let t := s.loadTime a back
      let (v, _) := overlay a.elem (s.ownStores a.owner a.target) (readNat ((s.die die).byte t) pa 8)
      some (.ok (p, v, t), s)

/-- A `waitseq` that stops waiting with a word read at time `t`: an acquire (07 R138). Log 66 (DEDUCED, unsafe). -/
def State.seqDone (s : State) (w : Wait) (p : Page) (va sb v t : Nat) : State :=
  let pa := p.pa + (va - p.va)
  let die := s.dieOfTeam (tkOfW w.wk)
  let s := s.readDone die t [p] [(p.die, pa, 8)] (linesOf pa 8) (clusterOf (s.coreOf (tkOfW w.wk)))
  let s := s.raiseFloor (fragOwners w.tids) t
  (s.setSreg w.tids sb (BitVec.ofNat 64 v)).endWait w

/-- A `waitseq` that a fault parks (15 R291). -/
def State.seqPark (s : State) (w : Wait) (va : Nat) (thr : W64) (k : Nat) (words : W64) : State :=
  let s : State := { s with waits := s.waits.erase w }
  s.parkFrag w.tids ⟨k, 5, va⟩ { pc := w.pc, words := words, a := BitVec.ofNat 64 va, b := thr } thr

/-- Whether a completion word ends a wait for a threshold (15 R291). -/
def seqMet (thr : W64) (v : Nat) : Bool := bits thr.toNat 62 0 ≤ bits v 62 0 || bitAt v 63

/-- A completion word outside the package that has been answered: the wait ends with it, at once where its limit has passed,
or asks for it again (15 R291). Log 46 (DEDUCED, unsafe). -/
def State.seqFar (s : State) (w : Wait) (va : Va) (sb : Nat) (thr : W64) (left : Option Nat) : Option State :=
  match s.blocks w.fences with
  | none => none
  | some r =>
    let tgt := (((w.fences.head?).bind (tget s.accs)).map (·.target)).getD .host
    let s := s.dropBlocks w.fences
    match r with
    | .error e => some (s.seqPark w va.toNat thr e.1 ((w.kept.getD {}).words))
    | .ok b =>
      if seqMet thr (bytesNat b) || left = some 0 then
        let s := s.raiseFloor (fragOwners w.tids) (s.die (s.dieOfTeam (tkOfW w.wk))).clock
        some ((s.setSreg w.tids sb (BitVec.ofNat 64 (bytesNat b))).endWait w)
      else some (({ s with waits := s.waits.erase w }).farWord tgt w)

/-- WAITSEQ_COMPLETE (R291): the word read meets the threshold, or its bit 63 is set. -/
def execWaitseqComplete (i back : Nat) (s : State) : Host.Outcome State Fault Refusal :=
  match s.waits[i]? with
  | none => notEnabled "WAITSEQ_COMPLETE"
  | some w => match w.what with
    | .waitseq va sb thr left => if !w.fences.isEmpty then (match s.seqFar w va sb thr left with
        | some s => .next s
        | none => notEnabled "WAITSEQ_COMPLETE")
      else match s.seqWord w va.toNat back with
      | none =>
        let hs := match s.translate (s.asidOf (w.tids.headD 0)) va.toNat false false with
          | (.ok p, _) => s.snoopsOf (linesOf (p.pa + (va.toNat - p.va)) 8) false
          | _ => []
        if hs.isEmpty then notEnabled "WAITSEQ_COMPLETE" else .next (s.snoop hs false)
      | some (.error k, s) => .next (s.seqPark w va.toNat thr k ((w.kept.getD {}).words))
      | some (.ok (p, v, t), s) =>
        if seqMet thr v then .next (s.seqDone w p va.toNat sb v t) else notEnabled "WAITSEQ_COMPLETE"
    | _ => notEnabled "WAITSEQ_COMPLETE"

/-- WAITSEQ_TIMEOUT (R291): the limit has passed, and the last word read, at the die clock, is written. -/
def execWaitseqTimeout (i : Nat) (s : State) : Host.Outcome State Fault Refusal :=
  match s.waits[i]? with
  | none => notEnabled "WAITSEQ_TIMEOUT"
  | some w => match w.what with
    | .waitseq va sb thr (some 0) => if !w.fences.isEmpty then (match s.seqFar w va sb thr (some 0) with
        | some s => .next s
        | none => notEnabled "WAITSEQ_TIMEOUT")
      else match s.seqWord w va.toNat 0 with
      | none => notEnabled "WAITSEQ_TIMEOUT"
      | some (.error k, s) => .next (s.seqPark w va.toNat thr k ((w.kept.getD {}).words))
      | some (.ok (p, v, t), s) => .next (s.seqDone w p va.toNat sb v t)
    | _ => notEnabled "WAITSEQ_TIMEOUT"

/-- Whether an engine is idle: no entry in progress and none linked (15 R290). -/
def Engine.idle (e : Engine) : Bool := e.job.isNone && e.chains.all (fun c => c.next.isEmpty)

/-- WAITWP_COMPLETE (R290): it acquires the `wp` that it observed. -/
def execWaitwpComplete (i : Nat) (s : State) : Host.Outcome State Fault Refusal :=
  match s.waits[i]? with
  | none => notEnabled "WAITWP_COMPLETE"
  | some w => match w.what with
    | .waitwp die chan thr sa =>
      let e := s.engine (32 * die + chan)
      let wp := tgetD (s.die die).ccwp chan 0
      let d := s.dieOfTeam (tkOfW w.wk)
      if (bits thr.toNat 56 0 ≤ bits wp.toNat 56 0 || e.idle) && vcCovers (s.vcOf d) e.wpVc then
        let s := s.raiseFloor (fragOwners w.tids) (s.die d).clock
        .next ((s.setSreg w.tids sa wp).endWait w)
      else notEnabled "WAITWP_COMPLETE"
    | _ => notEnabled "WAITWP_COMPLETE"

/-! ### Work lists -/

/-- WLQUIET_WAKE (R289): the list holds an item. -/
def execWlquietWake (i : Nat) (s : State) : Host.Outcome State Fault Refusal :=
  match s.waits[i]? with
  | none => notEnabled "WLQUIET_WAKE"
  | some w => match w.what, s.launchOf (tkOfW w.wk) with
    | .wlquiet n sa, some l =>
      if (l.items n).isEmpty then notEnabled "WLQUIET_WAKE" else .next ((s.setSreg w.tids sa 0).endWait w)
    | _, _ => notEnabled "WLQUIET_WAKE"

/-- Whether a launch is quiescent (15 R289, 18 R353). -/
def State.quiescent (s : State) (l : Nat) (x : Launch) : Bool :=
  x.lists.all List.isEmpty && x.held.isEmpty && s.instStarted l 8 0 &&
  (s.instThreads l 8 0).all (fun t => s.exited t || ((s.thread t).stat = .waiting && (match s.waitOf t with
    | some w => (match w.what with | .wlquiet _ _ => true | _ => false)
    | none => false)))

/-- QUIESCENCE (R289, R353): every waiting `wlquiet` of the launch ends with 1, and acquires every push. -/
def execQuiescence (l : Nat) (s : State) : Host.Outcome State Fault Refusal :=
  match tget s.launches l with
  | none => notEnabled "QUIESCENCE"
  | some x =>
    let ws := s.waits.filter (fun w => match tget s.teams (tkOfW w.wk) with | some t => t.launch = l | none => false)
    let seen := ws.all (fun w => vcCovers (s.vcOf (s.dieOfTeam (tkOfW w.wk))) x.pushed)
    if ws.isEmpty || !s.quiescent l x || !seen then notEnabled "QUIESCENCE"
    else
      .next (ws.foldl (fun s w => match w.what with
        | .wlquiet _ sa =>
          let s := s.raiseFloor (fragOwners w.tids) (s.die (s.dieOfTeam (tkOfW w.wk))).clock
          (s.setSreg w.tids sa 1).endWait w
        | _ => s) s)

end Sys2Proof.Machine
end

