-- ==== Sys2Proof/Machine/EvDev.lean ====
section
/-! DEFINITION. What the device's own agents do in memory: reads and writes at a VA, the elements that engines read
and write, and their output by lines and tiles (07 R137, 11 R209, R217, 15 R296, 26 R428). -/

namespace Sys2Proof.Machine

/-- Whether a die changes the attribute of some pages (17 R327). -/
def Die.attrBusy (d : Die) : Bool := d.mtStat.getLsbD 0 && (bits d.mtCmd.toNat 3 0 = 3 || bits d.mtCmd.toNat 3 0 = 4)

/-- Whether an attribute change stalls accesses (17 R327). Log 59 (DEDUCED, unsafe). -/
def State.attrBusy (s : State) : Bool := s.dies.any (fun e => e.2.attrBusy)

/-- Whether some lines lie in a page whose attribute changes (17 R327). -/
def State.attrHolds (s : State) (ls : List Nat) : Bool := s.dies.any (fun e => e.2.attrBusy && e.2.mtPages.any (fun p => ls.any p.hasLine))

/-- Whether the device may access lines now, reading `rd` and writing `wr`: none while something keeps it from them; else
the snoops that the host must answer first, if any (07 R137, 17 R327, 25 R414, R415). -/
def State.clear (s : State) (rd wr : List Nat) : Option (Option State) :=
  if s.attrHolds (rd ++ wr) || s.inFlip (rd ++ wr) s.next || s.writeStall wr s.next || (!wr.isEmpty && !(upto nDies).all s.queuesOpen) then none
  else
    let hw := s.snoopsOf wr true
    let hr := (s.snoopsOf rd false).filter (fun h => !hw.contains h)
    if hw.isEmpty && hr.isEmpty then some none else some (some ((s.snoop hw true).snoop hr false))

/-- Pieces of `n` bytes from a VA, split at multiples of 64: start and length of each. -/
def pieces (va n : Nat) : Nat → List (Nat × Nat)
  | 0 => []
  | k + 1 => if n = 0 then [] else let m := min n (64 - va % 64); (va, m) :: pieces (va + m) (n - m) k

/-- All pieces of a range. -/
def piecesOf (va n : Nat) : List (Nat × Nat) := pieces va n (n / 64 + 2)

/-- Values that the manual leaves open, one for each index: they are counted (log entry 3).
Log 3 (DESIGN CHOICE, unsafe). -/
def State.takeFrees (s : State) (n : Nat) : List W64 × State :=
  ((upto n).map (fun i => Config.freeValue (s.free + i)), { s with free := s.free + n })

/-- What an agent has read: the bytes, and for each range of package memory its page, PA and length. -/
structure Got where
  bytes : List W8 := []
  from' : List (Page × Nat × Nat) := []
  deriving DecidableEq, Repr

/-- The lines of what was read. -/
def Got.lines (g : Got) : List Nat := dedup (g.from'.flatMap (fun x => linesOf x.2.1 x.2.2))

/-- One piece read relaxed in a die's view at its clock. What the host's memory holds is not known here: a read of the
window gives free bytes (log entry 13). -/
def State.devPiece (s : State) (die asid va n : Nat) : Except Nat Got × State :=
  match s.vaTarget asid va with
  | .error k => (.error k, s)
  | .ok (.other _) => (.error kFormatAccess, s)
  | .ok .host =>
    let (v, s) := s.takeFrees n
    (.ok { bytes := v.map (fun x => x.setWidth 8) }, { s with out := s.out ++ [.host die "RdCurr" (bits va 43 0) [] false] })
  | .ok (.pkg _) => match s.translate asid va false false with
    | (.error k, s) => (.error k, s)
    | (.ok p, s) =>
      let pa := p.pa + (va - p.va)
      (.ok { bytes := (upto n).map (fun i => s.viewByte die (pa + i)), from' := [(p, pa, n)] }, s)

/-- Bytes read at a VA by an agent of a die, or the fault. Log 13 (DESIGN CHOICE, safe). -/
def State.devRead (s : State) (die asid va n : Nat) : Except Nat Got × State :=
  (piecesOf va n).foldl (fun x c => match x with
    | (.error k, s) => (.error k, s)
    | (.ok g, s) => match s.devPiece die asid (c.1 % 2 ^ 57) c.2 with
      | (.error k, s) => (.error k, s)
      | (.ok h, s) => (.ok { bytes := g.bytes ++ h.bytes, from' := g.from' ++ h.from' }, s)) (.ok {}, s)

/-- The leases, accessed bits and merges of a read (07 R120, 23 Table 23-1). -/
def State.gotDone (s : State) (die : Nat) (g : Got) : State :=
  s.readDone die (s.die die).clock (g.from'.map (·.1)) (g.from'.map (fun x => (x.1.die, x.2.1, x.2.2))) g.lines

/-- A number of `n` bytes at an offset of bytes read. -/
def at' (b : List W8) (o n : Nat) : Nat := bytesNat ((b.drop o).take n)

/-- An access of an agent to another package or to the host, waiting to be sent. Log 70 (DEDUCED, unsafe). -/
def farStore (o : Owner) (die asid va : Nat) (t : Target) (b : List W8) (raw bad : Bool) : Acc :=
  { gid := 0, owner := o, core := coresPerDie * die, die := die, kind := .store, op := if raw then 0 else 1, bad := bad, stage := .issued, va := BitVec.ofNat 57 va,
    asid := asid, page := farPage asid, target := t, elem := { pa := va, bit := 8 * va, width := 8 * b.length },
    lines := [lineOf va], raw := true, data := BitVec.ofNat 64 (bytesNat b), cells := cellsAt va b }

/-- Bytes written at a VA by an agent of a die, within one line, or the fault. In package memory the write is sequenced
at once. Log 13 (DESIGN CHOICE, safe). -/
def State.devWrite (s : State) (o : Owner) (die asid va : Nat) (b : List W8) : Option Nat × State :=
  match s.vaTarget asid va with
  | .error k => (some k, s)
  | .ok (.pkg d) => match s.translate asid va true false with
    | (.error k, s) => (some k, s)
    | (.ok p, s) =>
      let cells := cellsAt (p.pa + (va - p.va)) b
      if p.map then match s.withHeader (tileAt p va) false with
        | (.error e, s) => (some e.1, s)
        | (.ok t, s) => match s.forceMat d (s.vcOf die) t with
          | none => (some kHeaderInvalid, s)
          | some s => (none, (s.seqWrite d (s.vcOf die) cells none).touchPage p true)
      else (none, (s.seqWrite d (s.vcOf die) cells none).touchPage p true)
  | .ok t => (none, (s.addAcc (farStore o die asid va t b false false)).2)

/-- The line of a VA of package memory and those of its tile, for the checks before a write to it; none where the write goes
elsewhere (11 R217). -/
def State.devLine (s : State) (asid va : Nat) : List Nat :=
  match s.vaTarget asid va with
  | .ok (.pkg d) => (match s.pageOf d asid va with
    | .ok p => dedup (lineOf (p.pa + (va - p.va)) :: (if p.map then (match s.withHeader (tileAt p va) false with | (.ok t, _) => tileLines t | _ => []) else []))
    | .error _ => [])
  | _ => []

/-! ### Elements -/

/-- The VA of element `i` from a VA on, each page's elements having that page's own width, `w` bytes on raw pages (13 R255); the
VA and the index within it, where a packed page ends the walk. The fuel is one page each. Log 69 (DEDUCED, unsafe). -/
def State.elemVa (s : State) (asid w : Nat) (write : Bool) : Nat → Nat → Nat → Except AccFault (Nat × Nat) × State
  | 0, va, i => (.ok (va, i), s)
  | fuel + 1, va, i => match s.translate asid va write false with
    | (.error k, s) => (.error ⟨k, 8, va⟩, s)
    | (.ok p, s) =>
      if isPacked p then (.ok (va, i), s)
      else
        let wd := if isRaw p then w else fmtWidth p.fmt / 8
        let n := (p.va + 2 ^ p.bits - va + wd - 1) / wd
        if i < n then (.ok ((va + wd * i) % 2 ^ 57, 0), s) else s.elemVa asid w write fuel ((va + wd * n) % 2 ^ 57) (i - n)

/-- Element `i` from a VA on: on a packed page it lies in that page; on raw bytes elements are `w` bytes wide; else its
own page decodes it (12 R222, 13 R255). The answer has the VA of its first byte. -/
def State.engElem (s : State) (asid va i w : Nat) (write : Bool) : Except AccFault (Page × Elem × Nat) × State :=
  let out (p : Page) (r : Except AccFault Elem × State) : Except AccFault (Page × Elem × Nat) × State :=
    match r with
    | (.error f, s) => (.error f, s)
    | (.ok e, s) => (.ok (p, e, p.va + (e.bit / 8 - p.pa)), s)
  match s.translate asid va write false with
  | (.error k, s) => (.error ⟨k, 8, va⟩, s)
  | (.ok p0, s) =>
    if isPacked p0 then out p0 (s.place p0 va va i 0 false write 8)
    else match s.elemVa asid w write (i + 1) va i with
      | (.error f, s) => (.error f, s)
      | (.ok (v, _), s) => match s.translate asid v write false with
        | (.error k, s) => (.error ⟨k, 8, v⟩, s)
        | (.ok p, s) =>
          if isPacked p || isRaw p ≠ isRaw p0 then (.error ⟨kFormatAccess, 8, v⟩, s) else out p (s.place p v v 0 (8 * w) false write 8)

/-- The VA of an element's tile header. -/
def Elem.hdrVa (e : Elem) : Nat := match e.tile with | some t => t.hdrVa | none => 0

/-- An element as an engine reads it: its format, whether it is an integer and whether it is a number at all, its
encoding and exact value, and whether its line was poisoned. -/
structure Src where
  fmt : Nat
  int : Bool
  num : Bool
  code : Nat
  v : Val
  bad : Bool
  deriving DecidableEq, Repr

/-- The value of an element in a die's view; raw bytes count as format `ty`, and `mode` signs an exact zero (11 R208). None when its tile's header is invalid
(11 R208, R209, 03 R64). -/
def State.engVal (s : State) (die : Nat) (p : Page) (e : Elem) (ty mode : Nat) : Option Src :=
  let rd := s.viewByte die
  let bad := s.poisoned (elemLines e)
  let plain (fmt code : Nat) : Src :=
    { fmt := fmt, int := isInt fmt, num := fmt ≤ 18, code := code, v := decodeVal fmt code, bad := bad }
  match e.tile with
  | some t =>
    let h := readHdr rd t
    if !h.valid t.page.tl t.page.fmt then none
    else if isRaw p then some (plain ty (readPermuted rd t e.idx (e.width / 8)))
    else
      let v := tileVal rd t h mode e.idx
      some { fmt := p.fmt, int := false, num := true, code := (toFloat p.fmt 0 0 v).1, v := v, bad := bad }
  | none =>
    let code := readBits rd e
    if isRaw p then some (plain ty code)
    else if p.blk ≠ 0 then
      let sc := match e.scale with | some a => (rd a).toNat | none => 127
      some { fmt := p.fmt, int := false, num := true, code := code, bad := bad,
             v := if p.sp = 2 then elemVal p.fmt true code else mxVal p.fmt code sc }
    else some (plain p.fmt code)

/-- The encoding of a value in a format, none where the formats do not mix (04 Table 4-7, 12 Table 12-1).
Log 69 (DEDUCED, unsafe). -/
def convSrc (d mode r : Nat) (x : Src) : Option Nat :=
  if 19 ≤ d || d = 9 then (if x.fmt = d then some x.code else none)
  else if !x.num then none
  else if isInt d then some (if x.int then match x.v with | .fin n m e => wrapInt (fmtWidth d) ((if n then -1 else 1) * (m * 2 ^ e.toNat : Nat)) | _ => 0
                             else (toInt d mode r x.v).1)
  else some (convVal d mode r x.v).1

/-- The code that an engine writes in an element of a page: raw bytes take format `ty`, an element of a block its value
under the scale found at home (11 R209, 12 R226). -/
def State.engCode (s : State) (p : Page) (e : Elem) (ty mode r : Nat) (x : Src) : Option Nat :=
  if isRaw p then convSrc ty mode r x
  else if p.blk ≠ 0 then
    if !x.num then none
    else
      let sc := match e.scale with | some a => (s.homeByte a).toNat | none => 127
      let y := if p.sp = 2 || sc = 255 then x.v else x.v.scale (127 - (sc : Int))
      some (if p.fmt = 10 then toMxInt mode r y else convVal p.fmt mode r y).1
  else convSrc p.fmt mode r x

/-- One element of an engine's output. -/
structure OutEl where
  page : Page
  va : Nat
  elem : Elem
  code : Nat
  bad : Bool
  deriving DecidableEq, Repr

/-! ### Elements and tiles of another package's memory -/

/-- The bytes by which an element goes to another package: its index, the random value, the rounding mode, whether equal formats keep
the encoding, what it is, the type of raw bytes, and its exact value. Log 15 (DESIGN CHOICE, unsafe). -/
def Src.bytes (x : Src) (ty i mode r : Nat) (keep : Bool) : List W8 :=
  let (k, n, m, e) : Nat × Bool × Nat × Int := match x.v with
    | .fin n m e => (0, n, m, e)
    | .inf n => (1, n, 0, 0)
    | .nan n => (2, n, 0, 0)
  let bit (b : Bool) (n : Nat) : Nat := if b then 2 ^ n else 0
  natBytes i 8 ++ natBytes r 2 ++ natBytes (mode + bit keep 3 + bit x.int 4 + bit x.num 5 + bit n 6) 1 ++ natBytes k 1 ++ natBytes x.fmt 1 ++
    natBytes ty 1 ++ natBytes x.code 8 ++ natBytes (e + 2 ^ 32).toNat 8 ++ natBytes m 72

/-- The element that such bytes give. -/
def srcOfBytes (b : List W8) (bad : Bool) : Src :=
  let f := at' b 10 1
  let m := at' b 30 72
  { fmt := at' b 12 1, int := bitAt f 4, num := bitAt f 5, code := at' b 14 8, bad := bad,
    v := match at' b 11 1 with
      | 0 => .fin (bitAt f 6) m ((at' b 22 8 : Nat) - 2 ^ 32)
      | 1 => .inf (bitAt f 6)
      | _ => .nan (bitAt f 6) }

/-- An element written to another package, whose page decides where it lies and in what format (17 R322, 07 R130).
Log 46 (DEDUCED, unsafe). -/
def farEl (pkg dst ty i mode r : Nat) (keep : Bool) (x : Src) : OutLine :=
  { wp := dst, va := dst, target := .other pkg, lines := [lineOf dst], cells := cellsAt dst (x.bytes ty i mode r keep), bad := x.bad, op := 13 }

/-- A raw tile written to another package: its payload in parts of 64 bytes, and then its header, each with the FMT and TL of its tile
(11 R217, 17 R322). Log 46 (DEDUCED, unsafe). -/
def farTile (pkg va fmt tl n : Nat) (pay hdr : List W8) (bad : Bool) : List OutLine :=
  let part (wp off : Nat) (b : List W8) : OutLine :=
    { wp := wp, va := va, target := .other pkg, lines := [lineOf va], bad := bad, op := 12,
      cells := cellsAt va (natBytes fmt 1 ++ natBytes tl 1 ++ natBytes off 2 ++ b) }
  (upto ((n + 63) / 64)).map (fun i => part va (64 * i) ((pay.drop (64 * i)).take 64)) ++ [part (va + n) 0xFFFF hdr]

/-! ### Output by lines and tiles -/

/-- Insertion of a line in ascending order of address. Log 71 (DEDUCED, unsafe). -/
def insLine (o : OutLine) : List OutLine → List OutLine
  | [] => [o]
  | p :: r => if o.va ≤ p.va then o :: p :: r else p :: insLine o r

/-- The lines of cells of one page, with what is common to them. Log 71 (DEDUCED, unsafe). -/
def lineOuts (p : Page) (cells : List Host.Cell) (badLines : List Nat) (tile : Option TileRef) : List OutLine :=
  (cellLines cells).map (fun l =>
    let va := p.va + (l * lineBytes - p.pa)
    { wp := va + lineBytes, va := va, page := p, target := .pkg p.die, cells := cells.filter (fun c => lineOf c.1 = l),
      lines := match tile with | some t => dedup (l :: tileLines t) | none => [l],
      mats := match tile with | some t => [t] | none => [], bad := badLines.contains l })

/-- The cells of some elements over what home holds. -/
def State.elCells (s : State) (els : List OutEl) : List Host.Cell :=
  els.foldl (fun c x => c ++ elemCells (fun a => (cellGet c a).getD (s.homeByte a)) x.elem x.code) []

/-- The lines that poisoned elements touch. -/
def badLinesOf (els : List OutEl) : List Nat :=
  dedup ((els.filter (·.bad)).flatMap (fun x => linesOf (x.elem.bit / 8) ((x.elem.bit % 8 + x.elem.width + 7) / 8)))

/-- The write of a whole tile: its payload with an identity header, one version on (11 R217). -/
def State.tileOut (s : State) (t : TileRef) (els : List OutEl) : OutLine :=
  let cells := s.elCells els ++ hdrCells t (hdrIdent (readHdr s.homeByte t))
  let n := 2 ^ (t.page.tg + 2)
  let va := t.page.va + (t.pay - t.page.pa)
  { wp := va + n, va := va, page := t.page, target := .pkg t.page.die, lines := tileLines t, cells := cells, bad := els.any (·.bad) }

/-- An engine's output by lines and whole tiles, in ascending order of address (07 R137, 11 R217).
Log 71 (DEDUCED, unsafe). -/
def State.outOf (s : State) (els : List OutEl) : List OutLine :=
  let groups : List (Nat × Nat) := (els.map (fun x => (x.page.pa, match x.elem.tile with | some t => t.pay + 1 | none => 0))).eraseDups
  let outs := groups.flatMap (fun g =>
    let mine := els.filter (fun x => x.page.pa = g.1 && (match x.elem.tile with | some t => t.pay + 1 | none => 0) = g.2)
    match mine with
    | [] => []
    | x :: _ => match x.elem.tile with
      | none => lineOuts x.page (s.elCells mine) (badLinesOf mine) none
      | some t =>
        if (dedup (mine.map (fun y => y.elem.idx))).length * elemBytes t.page = 2 ^ (t.page.tg + 2) then [s.tileOut t mine]
        else lineOuts x.page (s.elCells mine) (badLinesOf mine) (some t))
  outs.foldl (fun a o => insLine o a) []

/-- Raw bytes written from a VA on, by lines, or by half-lines in the host window (25 R416). `bad` says which lines'
worth of source was poisoned. -/
def rawOut (t : Target) (p : Page) (va : Nat) (b : List (W8 × Bool)) : OutLine :=
  let here : Bool := match t with | .pkg _ => true | _ => false
  let a := if here then p.pa + (va - p.va) else va
  { wp := va / lineBytes * lineBytes + lineBytes, va := va, page := p, target := t, lines := [lineOf a],
    cells := cellsAt a (b.map (·.1)), bad := b.any (·.2) }

/-- Neighbouring writes of one line joined, of any package's memory. -/
def joinOuts (l : List OutLine) : List OutLine :=
  l.foldl (fun a o => match a.getLast? with
    | some p =>
      if p.target = o.target && p.lines = o.lines && o.target ≠ .host then
        a.dropLast ++ [{ p with cells := p.cells ++ o.cells, bad := p.bad || o.bad }]
      else a ++ [o]
    | none => [o]) []

end Sys2Proof.Machine
end

