-- ==== Sys2Proof/Machine/EvEngine.lean ====
section
/-! DEFINITION. The entries of the copy, gather and top-k engines, and the steps that every engine shares (07 R137,
R138, 15 R293 to R297, 17 R321, R322). -/

namespace Sys2Proof.Machine

/-! ### What an entry's work comes to -/

/-- The work of an entry: its writes, its status, the fault that stops it, and what it read. -/
structure Work where
  out : List OutLine := []
  status : Nat := 0
  fault : Option AccFault := none
  pages : List Page := []
  ranges : List (Nat × Nat × Nat) := []
  lines : List Nat := []
  deriving DecidableEq, Repr

/-- A bad entry (15 Table 15-5). -/
def Work.badEntry : Work := { status := 4 }

/-- More elements read. -/
def Work.saw (w : Work) (p : Page) (e : Elem) : Work :=
  { w with pages := w.pages ++ pagesOfElems [p] [e], ranges := w.ranges ++ elemRange p e, lines := dedup (w.lines ++ elemLines e) }

/-- More bytes read. -/
def Work.got (w : Work) (g : Got) : Work :=
  { w with pages := w.pages ++ g.from'.map (·.1), ranges := w.ranges ++ g.from'.map (fun x => (x.1.die, x.2.1, x.2.2)),
           lines := dedup (w.lines ++ g.lines) }

/-- Lines of package memory that the writes go to. -/
def ownedBy (out : List OutLine) : List Nat :=
  dedup (out.flatMap (fun o => match o.target with | .pkg _ => o.lines | _ => []))

/-- The random values of an entry's roundings: not fixed by the manual where RND is SR (log entry 3).
Log 72 (DESIGN CHOICE, safe). -/
def State.sr (s : State) (mode n : Nat) : (Nat → Nat) × State :=
  if mode = 5 then
    let k := s.free
    (fun i => (Config.freeValue (k + i)).toNat % 2 ^ 16, { s with free := s.free + n })
  else (fun _ => 0, s)

/-- Where a source element lies: its VA's base and its index from there. -/
abbrev SrcAt := Nat → Nat × Nat

/-- Elements converted one after another, up to the first fault: `src i` is where source element `i` lies and `dst` where
the destination begins; raw bytes count as `w` bytes of format `ty`. -/
def State.moveEls (s : State) (die asid : Nat) (src : SrcAt) (dst : Nat) (ty w mode : Nat) (r : Nat → Nat) (n : Nat) :
    List OutEl × Work × State :=
  (upto n).foldl (fun (x : List OutEl × Work × State) i =>
    let (els, wk, s) := x
    if wk.fault.isSome then x
    else match s.engElem asid (src i).1 (src i).2 w false with
      | (.error f, s) => (els, { wk with fault := some f }, s)
      | (.ok (p, e, _), s) => match s.engVal die p e ty mode with
        | none => (els, { wk with fault := some ⟨kHeaderInvalid, 8, e.hdrVa⟩ }, s)
        | some y => match s.vaTarget asid dst with
          | .ok (.other pk) => (els, { wk with out := wk.out ++ [farEl pk dst ty i mode (r i) false y] }.saw p e, s)
          | _ => match s.engElem asid dst i w true with
            | (.error f, s) => (els, { wk with fault := some f }, s)
            | (.ok (q, d, u), s) => match s.engCode q d ty mode (r i) y with
              | none => (els, { wk with fault := some ⟨kFormatAccess, 8, u⟩ }, s)
              | some c => (els ++ [{ page := q, va := u, elem := d, code := c, bad := y.bad }], wk.saw p e, s))
    (([] : List OutEl), ({} : Work), s)

/-- Whether a write reaches the end of its last line. -/
def OutLine.reachesEnd (o : OutLine) : Bool := o.cells.any (fun c => c.1 % lineBytes = lineBytes - 1)

/-- The lines that a fault leaves to be written: those before the faulting one (15 R297). Log 68 (DEDUCED, unsafe). -/
def Work.cut (w : Work) : Work :=
  if w.fault.isNone then w
  else match w.out.getLast? with
    | some o => if o.reachesEnd || o.op ≠ 0 then w else { w with out := w.out.dropLast }
    | none => w

/-- A copy of raw bytes (15 Table 15-6 MODE 0, 17 R322, 25 R416). Log 69 (DEDUCED, unsafe). -/
def State.copyRaw (s : State) (die asid src dst n : Nat) : Work × State :=
  let (b, wk, s) := (piecesOf src n).foldl (fun (x : List (W8 × Bool) × Work × State) c =>
    if x.2.1.fault.isSome then x
    else match x.2.2.devPiece die asid (c.1 % 2 ^ 57) c.2 with
      | (.error k, s) => (x.1, { x.2.1 with fault := some ⟨k, 8, c.1⟩ }, s)
      | (.ok g, s) => (x.1 ++ g.bytes.map (fun v => (v, s.poisoned g.lines)), x.2.1.got g, s)) (([] : List (W8 × Bool)), ({} : Work), s)
  let (out, f, s) := (piecesOf dst b.length).foldl (fun (x : List OutLine × Option AccFault × State) c =>
    if x.2.1.isSome then x
    else match x.2.2.reach asid (c.1 % 2 ^ 57) true with
      | (.error k, s) => (x.1, some ⟨k, 8, c.1⟩, s)
      | (.ok (t, p), s) => (x.1 ++ [rawOut t p (c.1 % 2 ^ 57) ((b.drop (c.1 - dst)).take c.2)], x.2.1, s))
    (([] : List OutLine), (none : Option AccFault), s)
  (({ wk with out := joinOuts out, fault := match f with | some x => some x | none => wk.fault } : Work).cut, s)

/-- A copy of raw tiles (11 R217, 15 Table 15-6 MODE 1): a source header that is not canonical is a fault (11 R205, R206).
Log 69 (DEDUCED, unsafe). -/
def State.copyTiles (s : State) (die asid src dst n : Nat) : Work × State :=
  let tile (s : State) (va i : Nat) (write : Bool) : Except AccFault TileRef × State :=
    match s.translate asid va write false with
    | (.error k, s) => (.error ⟨k, 8, va⟩, s)
    | (.ok p, s) =>
      let v := (va + i * 2 ^ (p.tg + 2)) % 2 ^ 57
      match s.translate asid v write false with
      | (.error k, s) => (.error ⟨k, 8, v⟩, s)
      | (.ok p, s) =>
        if !p.map then (.error ⟨kFormatAccess, 8, v⟩, s)
        else if v % 2 ^ (p.tg + 2) ≠ 0 then (.error ⟨kMisaligned, 8, v⟩, s)
        else match s.withHeader (tileAt p v) write with
          | (.error (k, h), s) => (.error ⟨k, 8, h⟩, s)
          | (.ok t, s) => (.ok t, s)
  (upto n).foldl (fun (x : Work × State) i =>
    if x.1.fault.isSome then x
    else match tile x.2 src i false with
      | (.error f, s) => ({ x.1 with fault := some f }, s)
      | (.ok a, s) => match s.vaTarget asid dst with
        | .ok (.other pk) =>
          if !(readHdr (s.viewByte die) a).valid a.page.tl a.page.fmt then ({ x.1 with fault := some ⟨kHeaderInvalid, 8, a.hdrVa⟩ }, s)
          else
            let m := 2 ^ (a.page.tg + 2)
            let rd := s.viewByte die
            let o := farTile pk ((dst + i * m) % 2 ^ 57) a.page.fmt a.page.tl m ((upto m).map (fun j => rd (a.pay + j)))
              ((upto 32).map (fun j => rd (a.hdr + j))) (s.poisoned (tileLines a))
            let e : Elem := { pa := a.pay, bit := 8 * a.pay, width := 8 * m, tile := some a }
            ({ x.1 with out := x.1.out ++ o }.saw a.page e, s)
        | _ => match tile s dst i true with
          | (.error f, s) => ({ x.1 with fault := some f }, s)
          | (.ok b, s) =>
            if !(readHdr (s.viewByte die) a).valid a.page.tl a.page.fmt then ({ x.1 with fault := some ⟨kHeaderInvalid, 8, a.hdrVa⟩ }, s)
            else if a.page.fmt ≠ b.page.fmt || a.page.tl ≠ b.page.tl then ({ x.1 with fault := some ⟨kFormatAccess, 8, dst⟩ }, s)
            else
              let m := 2 ^ (a.page.tg + 2)
              let rd := s.viewByte die
              let cells := cellsAt b.pay ((upto m).map (fun j => rd (a.pay + j))) ++ cellsAt b.hdr ((upto 32).map (fun j => rd (a.hdr + j)))
              let va := b.page.va + (b.pay - b.page.pa)
              let o : OutLine := { wp := va + m, va := va, page := b.page, target := .pkg b.page.die, lines := tileLines b, cells := cells,
                                   bad := s.poisoned (tileLines a) }
              let e : Elem := { pa := a.pay, bit := 8 * a.pay, width := 8 * m, tile := some a }
              ({ x.1 with out := x.1.out ++ [o] }.saw a.page e, s)) (({} : Work), s)

/-- A decoded copy (15 Table 15-6 MODE 2). Log 69 (DEDUCED, unsafe). -/
def State.copyDecoded (s : State) (die asid src dst n mode : Nat) : Work × State :=
  let (r, s) := s.sr mode n
  let (els, wk, s) := s.moveEls die asid (fun i => (src, i)) dst 22 1 mode r n
  (({ wk with out := wk.out ++ s.outOf els } : Work).cut, s)

/-- Whether a VA lies in the host window. Log 70 (DEDUCED, unsafe). -/
def State.toHost (s : State) (asid va : Nat) : Bool := match s.vaTarget asid va with | .ok .host => true | _ => vaPkg va = 2047

/-- A copy entry (15 Table 15-6, 17 R321, R322): `rd` gives the 8 bytes at an offset of the entry.
Log 68 (DEDUCED, unsafe). -/
def State.copyWork (s : State) (die asid mode : Nat) (rd : Nat → Nat) : Work × State :=
  let src := rd 0x20 % 2 ^ 57
  let dst := rd 0x28 % 2 ^ 57
  let n := rd 0x30
  match bits (rd 0x38) 1 0 with
  | 0 => s.copyRaw die asid src dst n
  | 1 => if s.toHost asid dst then (.badEntry, s) else s.copyTiles die asid src dst n
  | 2 => if s.toHost asid dst then (.badEntry, s) else s.copyDecoded die asid src dst n mode
  | _ => (.badEntry, s)

/-- An array of `n32` indexes, up to the first fault. -/
def State.readIdx (s : State) (die asid va n : Nat) : List Nat × Work × State :=
  (upto n).foldl (fun (x : List Nat × Work × State) i =>
    if x.2.1.fault.isSome then x
    else match x.2.2.engElem asid va i 4 false with
      | (.error f, s) => (x.1, { x.2.1 with fault := some f }, s)
      | (.ok (p, e, v), s) => match s.engVal die p e 16 0 with
        | some y => if y.int then (x.1 ++ [y.code % 2 ^ 32], x.2.1.saw p e, s) else (x.1, { x.2.1 with fault := some ⟨kFormatAccess, 8, v⟩ }, s)
        | none => (x.1, { x.2.1 with fault := some ⟨kHeaderInvalid, 8, e.hdrVa⟩ }, s)) (([] : List Nat), ({} : Work), s)

/-- Writes of a work joined to what another read. -/
def Work.after (w v : Work) : Work :=
  { w with pages := v.pages ++ w.pages, ranges := v.ranges ++ w.ranges, lines := dedup (v.lines ++ w.lines) }

/-- A gather entry (15 Table 15-6): every line is released at completion, so a fault leaves nothing written. -/
def State.gatherWork (s : State) (die asid mode : Nat) (rd : Nat → Nat) : Work × State :=
  let base := rd 0x20 % 2 ^ 57
  let n := rd 0x38
  let (idx, iw, s) := s.readIdx die asid (rd 0x28 % 2 ^ 57) n
  if iw.fault.isSome then (iw, s)
  else
    let (r, s) := s.sr mode n
    let (els, wk, s) := s.moveEls die asid (fun i => (base, idx.getD i 0)) (rd 0x30 % 2 ^ 57) 22 1 mode r n
    let wk := wk.after iw
    (if wk.fault.isSome then { wk with out := [] } else { wk with out := wk.out ++ s.outOf els }, s)

/-! ### Top-k -/

/-- The types of collectives and top-k (15 Table 15-6). -/
def engTyOk (c : Nat) : Bool := c = 1 || c = 2 || c = 3 || c = 12 || c = 16

/-- Elements read in a type, up to the first fault: codes, and whether each was poisoned. -/
def State.readTyped (s : State) (die asid va ty mode n : Nat) : List (Nat × Bool) × Work × State :=
  let (r, s) := s.sr mode n
  (upto n).foldl (fun (x : List (Nat × Bool) × Work × State) i =>
    if x.2.1.fault.isSome then x
    else match x.2.2.engElem asid va i (fmtWidth ty / 8) false with
      | (.error f, s) => (x.1, { x.2.1 with fault := some f }, s)
      | (.ok (p, e, v), s) => match s.engVal die p e ty mode with
        | none => (x.1, { x.2.1 with fault := some ⟨kHeaderInvalid, 8, e.hdrVa⟩ }, s)
        | some y => match (if y.fmt = ty && e.tile.isNone then some y.code else convSrc ty mode (r i) y) with
          | none => (x.1, { x.2.1 with fault := some ⟨kFormatAccess, 8, v⟩ }, s)
          | some c => (x.1 ++ [(c, y.bad)], x.2.1.saw p e, s)) (([] : List (Nat × Bool)), ({} : Work), s)

/-- The code of an element that keeps its encoding where its format stays the same. -/
def State.keepCode (s : State) (q : Page) (d : Elem) (ty mode r : Nat) (y : Src) : Option Nat :=
  if isRaw q || (q.fmt = y.fmt && q.blk = 0) then some y.code else s.engCode q d ty mode r y

/-- Codes of a type written from a VA on, each with its poison; an element of the same format keeps its encoding. -/
def State.writeTyped (s : State) (asid va ty mode : Nat) (cs : List (Nat × Bool)) : List OutEl × List OutLine × Option AccFault × State :=
  let (r, s) := s.sr mode cs.length
  ((upto cs.length).zip cs).foldl (fun (x : List OutEl × List OutLine × Option AccFault × State) c =>
    let (els, far, f, s) := x
    let y : Src := { fmt := ty, int := isInt ty, num := true, code := c.2.1, v := decodeVal ty c.2.1, bad := c.2.2 }
    if f.isSome then x
    else match s.vaTarget asid va with
      | .ok (.other pk) => (els, far ++ [farEl pk va ty c.1 mode (r c.1) true y], f, s)
      | _ => match s.engElem asid va c.1 (fmtWidth ty / 8) true with
        | (.error f, s) => (els, far, some f, s)
        | (.ok (q, d, u), s) => match s.keepCode q d ty mode (r c.1) y with
          | none => (els, far, some ⟨kFormatAccess, 8, u⟩, s)
          | some k => (els ++ [{ page := q, va := u, elem := d, code := k, bad := c.2.2 }], far, f, s))
    (([] : List OutEl), ([] : List OutLine), (none : Option AccFault), s)

/-- Whether candidate `x` (value and index) stands before `y`: greater in the total order, or equal with the lower index
(15 R296, 03 R71). Log 74 (DEDUCED, unsafe). -/
def topBefore (ty : Nat) (x y : Nat × Nat) : Bool :=
  match tord (decodeVal ty x.1) (decodeVal ty y.1) with
  | .gt => true
  | .lt => false
  | .eq => x.2 < y.2

/-- Insertion of a candidate in descending order. Log 74 (DEDUCED, unsafe). -/
def insTop (ty : Nat) (x : Nat × Nat) : List (Nat × Nat) → List (Nat × Nat)
  | [] => [x]
  | y :: r => if topBefore ty x y then x :: y :: r else y :: insTop ty x r

/-- The K greatest, filled up with slots beyond N: the default NaN, or for integers, which have none, a free value (log
entry 3); index `0xFFFF_FFFF`. Log 74 (DEDUCED, unsafe). -/
def topK (ty k : Nat) (l : List (Nat × Nat)) (free : Nat → Nat) : List (Nat × Nat) :=
  let top := (l.foldl (fun a x => insTop ty x a) []).take k
  top ++ (upto (k - top.length)).map (fun i => (if isInt ty then free i else defaultNan ty, 0xFFFFFFFF))

/-- The candidates of a top-k entry: values with indexes from IB on, or index and value pairs in the layout of 12 R237.
Log 124 (DEDUCED, unsafe). -/
def State.topSource (s : State) (die asid src n ty mode ib : Nat) (pairs : Bool) : List (Nat × Nat) × Bool × Work × State :=
  if pairs then
    let (l, wk, s) := s.readTyped die asid src 17 0 n
    (l.map (fun x => (x.1 / 2 ^ 32 % 2 ^ fmtWidth ty, x.1 % 2 ^ 32)), l.any (·.2), wk, s)
  else
    let (l, wk, s) := s.readTyped die asid src ty mode n
    (((upto l.length).zip l).map (fun x => (x.2.1, (ib + x.1) % 2 ^ 32)), l.any (·.2), wk, s)

/-- A top-k entry (15 R296, Table 15-6). Log 74 (DEDUCED, unsafe). -/
def State.topWork (s : State) (die asid mode : Nat) (rd : Nat → Nat) : Work × State :=
  let w := rd 0x30
  let k := bits w 10 0
  let ty := bits w 20 16
  if k < 1 || 1024 < k || !engTyOk ty then (.badEntry, s)
  else
    let (l, bad, wk, s) := s.topSource die asid (rd 0x20 % 2 ^ 57) (rd 0x28) ty mode (rd 0x38) (bitAt w 24)
    if wk.fault.isSome then (wk, s)
    else
      let (fs, s) := s.takeFrees k
      let top := topK ty k l (fun i => (fs.getD i 0).toNat % 2 ^ fmtWidth ty)
      let (vs, o1, f1, s) := s.writeTyped asid (rd 0x40 % 2 ^ 57) ty mode (top.map (fun x => (x.1, bad)))
      let (is, o2, f2, s) := s.writeTyped asid (rd 0x48 % 2 ^ 57) 16 mode (top.map (fun x => (x.2, bad)))
      match f1, f2 with
      | none, none => ({ wk with out := s.outOf (vs ++ is) ++ o1 ++ o2 }, s)
      | some f, _ => ({ wk with fault := some f }, s)
      | _, f => ({ wk with fault := f }, s)

/-! ### The steps that engines share -/

/-- The die of an engine, and its unit there. -/
def engDie (e : Nat) : Nat := e / 32
/-- See `engDie`. -/
def engUnit (e : Nat) : Nat := e % 32
/-- The kind of an engine's entries (15 Table 15-4). -/
def engKind (e : Nat) : Nat := if engUnit e < 16 then 0 else engUnit e - 15

/-- The next entry of an engine: its chain and the entry, the chains taken in turn (15 R293). -/
def Engine.pick (e : Engine) : Option (Chain × Va × List Nat × List Chain) :=
  match e.chains.find? (fun c => !c.next.isEmpty) with
  | none => none
  | some c => match c.next with
    | [] => none
    | (v, vc) :: r =>
      some (c, v, vc, e.chains.filter (fun x => !(x.cb = c.cb && x.asid = c.asid)) ++ [{ c with next := r }])

/-- Whether every engine stops (26 R430). -/
def State.stoppedAll (s : State) : Bool := s.hub.fatal

/-- Lines released: a write of an engine's own, which may poison its line (07 R137, 26 R428). -/
def State.release (s : State) (die : Nat) (o : OutLine) : State :=
  match o.target with
  | .pkg home =>
    let s := o.mats.foldl (fun s t => (s.forceMat home (s.vcOf die) t).getD s) s
    let s := s.seqWrite home (s.vcOf die) o.cells none
    let s := s.poisonLines o.bad (cellLines o.cells)
    s.touchPage o.page true
  | _ => s

/-- The number of writes that its home has sequenced, after a release (07 R138). -/
def State.vcAfter (s : State) (vc : List Nat) (t : Target) : List Nat :=
  match t with | .pkg home => lset vc home (s.die home).h | _ => vc

/-- A far write cut into the requests that carry it: half-lines to the host, whole to another package (25 R416).
Log 70 (DEDUCED, unsafe). -/
def farPieces (t : Target) (va : Nat) (b : List W8) : List (Nat × List W8) :=
  if t ≠ .host then [(va, b)]
  else
    let n := min b.length (64 - va % 64)
    let m := min (b.length - n) 64
    ((va, b.take n) :: (if m = 0 then [] else [(va + n, (b.drop n).take m)])) ++
      (if n + m < b.length then [(va + n + m, b.drop (n + m))] else [])

/-- A job's next write released, `none` while another package or the host has yet to acknowledge it: the job, and `wp`
when it moves (07 R137, 17 R321). -/
def State.releaseNext (s : State) (die : Nat) (own : Owner) (j : Job) : Option (Job × Option Nat × State) :=
  match j.out with
  | [] => none
  | o :: r => match o.target with
    | .pkg _ =>
      if !(match o.target with | .pkg h => s.queuesOpen h | _ => true) then none
      else
        let s := s.release die o
        some ({ j with out := r, owned := ownedBy r, vc := s.vcAfter j.vc o.target }, some o.wp, s)
    | t =>
      if o.sent then
        if s.accs.any (fun e => e.2.owner = own) then none else some ({ j with out := r }, some o.wp, s)
      else
        let s := (farPieces t o.va (o.cells.map (·.2))).foldl (fun s c =>
          (s.addAcc { farStore own die j.asid c.1 t c.2 true o.bad with op := o.op }).2) s
        some ({ j with out := { o with sent := true } :: r }, none, s)

/-- The record of an entry stopped by a fault (15 R297, 20 Table 20-3). -/
def entryRec (k asid va vf : Nat) : FaultRec := { engRec k 8 asid va with vf := vf }

/-- The record of an entry's fault: it names the entry, or the header of a materialisation that failed (11 R218). -/
def faultRecOf (f : AccFault) (asid entry vf : Nat) : FaultRec :=
  if f.access = 9 then { engRec f.kind 9 asid f.va with vf := vf } else entryRec f.kind asid entry vf

/-- The entry's header and body read by its engine. -/
def entryRd (b : List W8) (o : Nat) : Nat := at' b o 8

/-- Whether an entry, as its engine reads it, keeps the rules that `chapp` checked (15 R294, Table 15-5).
Log 68 (DEDUCED, unsafe). -/
def entryOk (kind : Nat) (rd : Nat → Nat) : Bool :=
  let h := rd 8
  bits h 3 0 = kind && bits h 14 12 < 6 && bodyOk kind (bits h 11 8) rd

/-- STATUS and then CW written for an entry, STATUS alone where its CW could not be read (15 R297): both are the completion
release of 07 R138. A fault on either leaves a record only. Log 75 (DEDUCED, unsafe). -/
def State.writeCw (s : State) (o : Owner) (die asid vf : Nat) (entry : Va) (cw : Option W64) (seq : W64) (status : Nat) : State :=
  let (f1, s) := s.devWrite o die asid ((entry.toNat + 0x18) % 2 ^ 57) (natBytes status 8)
  let s := match f1 with | some k => s.queueFault die (entryRec k asid entry.toNat vf) | none => s
  let v := seq.toNat % 2 ^ 63 + (if status = 0 then 0 else 2 ^ 63)
  match cw with
  | none => s
  | some w => match s.devWrite o die asid (w.toNat % 2 ^ 57) (natBytes v 8) with
    | (some k, s) => s.queueFault die (entryRec k asid entry.toNat vf)
    | (none, s) => s

/-- HEAD of a control block (15 Table 15-4). -/
def State.writeHead (s : State) (o : Owner) (die asid : Nat) (cb : Va) (v : Nat) : State :=
  (s.devWrite o die asid ((cb.toNat + 0x18) % 2 ^ 57) (natBytes v 8)).2

/-- An entry taken: its job, with the work begun. Lines that `w` writes are owned from here. -/
def jobOf (c : Chain) (entry : Va) (kind : Nat) (seq cw : W64) (w : Work) : Job :=
  { chain := c.cb.toNat, entry := entry, asid := c.asid, vf := c.vf, kind := kind, seq := seq, cw := cw, out := w.out,
    owned := ownedBy w.out, status := if w.fault.isSome then 1 else w.status,
    faulted := w.fault.map (fun f => faultRecOf f c.asid entry.toNat c.vf) }

/-- The completion word of a job, where it is known. -/
def Job.word (j : Job) : Option W64 := if j.noCw then none else some j.cw

/-- The work of an entry of a copy, gather or top-k engine. -/
def State.entryWork (s : State) (die : Nat) (c : Chain) (kind : Nat) (rd : Nat → Nat) : Work × State :=
  let mode := bits (rd 8) 14 12
  if !entryOk kind rd then (.badEntry, s)
  else if kind = 0 then s.copyWork die c.asid mode rd
  else if kind = 1 then s.gatherWork die c.asid mode rd
  else s.topWork die c.asid mode rd

/-- What the reads of a work leave (07 R120). -/
def State.workDone (s : State) (die t : Nat) (w : Work) : State := s.readDone die t w.pages w.ranges w.lines

/-- What an engine works out with its die's view as of time `t` (07 R120). -/
def State.seenAt {α : Type} (s : State) (die t : Nat) (f : State → α × State) : α × State :=
  let d := s.die die
  let (x, u) := f (s.modDie die (fun d => { d with log := d.log.filter (fun e => e.t ≤ t) }))
  (x, u.modDie die (fun v => { v with log := d.log }))

/-- The time of an engine's relaxed reads: `back` ticks before the clock, at or after the writes that the append of its entry
released, within the window (07 R120, R138). One time serves all the reads of an entry.
Log 122 (DESIGN CHOICE, unsafe). -/
def State.engTime (s : State) (die : Nat) (vc : List Nat) (back : Nat) : Nat :=
  let d := s.die die
  let low := (d.log.filter (fun e => e.num ≤ vc.getD e.home 0)).foldl (fun m e => max m e.t) (d.clock - loadWindow)
  min d.clock (max low (d.clock - back))

/-- ENGINE_LINE_RELEASE (R137, R217, R254, 17 R321): engine `e`, or from 128 on stream `e` - 128. An engine that is no copy
channel releases its lines when its entry completes. -/
def execEngineLineRelease (e : Nat) (s : State) : Host.Outcome State Fault Refusal :=
  if s.stoppedAll then notEnabled "ENGINE_LINE_RELEASE"
  else if e < 128 then
    match (s.engine e).job with
    | none => notEnabled "ENGINE_LINE_RELEASE"
    | some j =>
      if j.kind ≠ 0 then notEnabled "ENGINE_LINE_RELEASE"
      else match s.releaseNext (engDie e) (.engine e) j with
        | none => notEnabled "ENGINE_LINE_RELEASE"
        | some (j, wp, s) =>
          let s := s.modEngine e (fun x => { x with job := some j, wpVc := if wp.isSome then j.vc else x.wpVc })
          .next (match wp with
            | some v => s.modDie (engDie e) (fun d => { d with ccwp := tset d.ccwp (engUnit e) (BitVec.ofNat 64 (v % 2 ^ 57)) })
            | none => s)
  else
    match s.streams[e - 128]? with
    | none => notEnabled "ENGINE_LINE_RELEASE"
    | some x => match x.job with
      | none => notEnabled "ENGINE_LINE_RELEASE"
      | some j => match s.releaseNext x.die (.engine (128 + x.sid)) j with
        | none => notEnabled "ENGINE_LINE_RELEASE"
        | some (j, _, s) => .next { s with streams := lset s.streams (e - 128) { x with job := some j } }

/-- Every write of a job released in order (07 R137): the engines that release at completion. -/
def State.releaseAll (s : State) (die : Nat) (j : Job) : Job × State :=
  let r := j.out.foldl (fun (x : Job × State) o =>
    let s := x.2.release die o
    ({ x.1 with vc := s.vcAfter x.1.vc o.target }, s)) (j, s)
  ({ r.1 with out := [], owned := [] }, r.2)

/-- The end of an entry: STATUS, CW and HEAD written, its lines given up (15 R297). -/
def State.endEntry (s : State) (e : Nat) (j : Job) : State :=
  let die := engDie e
  let s := s.modEngine e (fun x => { x with job := none })
  let s := s.writeCw (.engine e) die j.asid j.vf j.entry j.word j.seq j.status
  let more := (s.engine e).chains.any (fun c => c.cb.toNat = j.chain && c.asid = j.asid && !c.next.isEmpty)
  if more then s else s.writeHead (.engine e) die j.asid (BitVec.ofNat 57 j.chain) 0

/-- Whether a job's lines have been released and applied at its engine's die, so that the release of its completion word
can be made (07 R138). -/
def State.jobDone (s : State) (e : Nat) (j : Job) : Bool :=
  j.out.isEmpty && vcCovers (s.vcOf (engDie e)) j.vc && !s.accs.any (fun a => a.2.owner = .engine e)

/-- The lines that the end of an entry writes. Log 75 (DEDUCED, unsafe). -/
def State.endLines (s : State) (asid : Nat) (entry : Va) (cw : Option W64) (cb : Nat) : List Nat :=
  s.devLine asid ((entry.toNat + 0x18) % 2 ^ 57) ++ (match cw with | some w => s.devLine asid (w.toNat % 2 ^ 57) | none => []) ++ s.devLine asid ((cb + 0x18) % 2 ^ 57)

/-- The end of an entry, once nothing keeps the engine from its lines. Log 75 (DEDUCED, unsafe). -/
def State.tryEnd (s : State) (e : Nat) (j : Job) (name : String) (before : State → State) : Host.Outcome State Fault Refusal :=
  if !s.jobDone e j then notEnabled name
  else match s.clear [] (s.endLines j.asid j.entry j.word j.chain) with
    | none => notEnabled name
    | some (some s) => .next s
    | some none => .next ((before s).endEntry e { j with faulted := none })

/-- ENGINE_ENTRY_COMPLETE (R297): an engine that is no copy channel first releases its lines. -/
def execEngineEntryComplete (e : Nat) (s : State) : Host.Outcome State Fault Refusal :=
  match (s.engine e).job with
  | none => notEnabled "ENGINE_ENTRY_COMPLETE"
  | some j =>
    let ready := !s.stoppedAll && j.faulted.isNone && (j.kind ≠ 2 || j.status ≠ 0 || bitAt j.flags.toNat 0)
    if !ready then notEnabled "ENGINE_ENTRY_COMPLETE"
    else if j.kind ≠ 0 && !j.out.isEmpty then
      let (j, s) := s.releaseAll (engDie e) j
      .next (s.modEngine e (fun x => { x with job := some j }))
    else s.tryEnd e j "ENGINE_ENTRY_COMPLETE" id

/-- ENGINE_FAULT (R297, 20 R361): a faulted entry whose earlier lines are written stops with STATUS 1 and a record. -/
def execEngineFault (e : Nat) (s : State) : Host.Outcome State Fault Refusal :=
  match (s.engine e).job with
  | none => notEnabled "ENGINE_FAULT"
  | some j => match j.faulted with
    | none => notEnabled "ENGINE_FAULT"
    | some r =>
      if s.stoppedAll then notEnabled "ENGINE_FAULT" else s.tryEnd e j "ENGINE_FAULT" (fun s => s.queueFault (engDie e) r)

end Sys2Proof.Machine
end

