-- ==== Sys2Proof/Machine/EvLaunch.lean ====
section
/-! DEFINITION. Launches from their request to admission, and their end (18 R332 to R342, R352, 23 R401, 25 R423). -/

namespace Sys2Proof.Machine

/-! ### Launch records -/

/-- A launch from its record's bytes (18 Table 18-1). -/
def launchOfRec (src : LSrc) (nm : Bool) (asid vf die : Nat) (record : Va) (b : List W8) : Launch :=
  { src := src, nm := nm, asid := asid, vf := vf, record := record, die := die,
    pc := BitVec.ofNat 57 (at' b 0 8), ctl := BitVec.ofNat 64 (at' b 8 8), lev := (b.drop 0x10).take 6,
    ext := (upto 8).map (fun k => at' b (0x40 + 4 * k) 4), wait := BitVec.ofNat 64 (at' b 0x18 8),
    waitv := BitVec.ofNat 64 (at' b 0x20 8), wlBase := BitVec.ofNat 64 (at' b 0x60 8), wlCap := at' b 0x68 8,
    args := (upto 16).map (fun n => BitVec.ofNat 64 (at' b (0x80 + 8 * n) 8)) }

/-- Whether the levels break a rule of 01 R12 (18 Table 18-3 code 1). -/
def Launch.badLevels (l : Launch) : Bool :=
  l.top = 0 ||
  l.levels.any (fun k => l.dom k = 0 || 5 < l.dom k || l.scopeOf k < 2 || l.scopeOf k < l.dom k + 1 ||
    (3 ≤ k && l.dom k < l.dom (k - 1))) ||
  !l.levels.any (fun k => l.dom k = 1)

/-- Threads of the launch. -/
def Launch.threadCount (l : Launch) : Nat := prodL ((upto (l.top + 1)).map l.ln)

/-- Whether a limit of 01 R14 is broken (code 2). -/
def Launch.tooBig (l : Launch) : Bool := 2 ^ 40 < l.threadCount || 32 < l.teamWaves

/-- Whether a reserved field or bit is not 0, or an extent is 0 (code 3). Log 77 (DEDUCED, unsafe). -/
def Launch.badFields (l : Launch) (b : List W8) : Bool :=
  l.levels.any (fun k => bitAt (l.levByte k) 3 || bitAt (l.levByte k) 7) || bits (at' b 0 8) 63 57 ≠ 0 || bitAt l.waitv.toNat 63 ||
  (l.wln = 0 && (l.wlBase ≠ 0 || l.wlCap ≠ 0)) || at' b 0x16 2 ≠ 0 || at' b 0x28 24 ≠ 0 || l.ext.getD 0 0 ≠ 0 || at' b 0x70 8 ≠ 0 ||
  bits l.ctl.toNat 15 13 ≠ 0 || bits l.ctl.toNat 31 28 ≠ 0 || bits l.ctl.toNat 63 37 ≠ 0 ||
  ((upto (l.top + 1)).filter (1 ≤ ·)).any (fun k => l.ext.getD k 0 = 0) ||
  ((upto 8).filter (fun k => l.top < k)).any (fun k => l.ext.getD k 0 ≠ 0 || (2 ≤ k && l.levByte k ≠ 0))

/-- Bytes of the work-list region (18 R352). -/
def Launch.wlBytes (l : Launch) : Nat := l.wln * ((l.wlCap + 1) * 8)

/-- The 4 KiB pages of the work-list region. -/
def Launch.wlPages (l : Launch) : List Nat := (upto ((l.wlBytes + 4095) / 4096)).map (fun i => (l.wlBase.toNat + 4096 * i) % 2 ^ 57)

/-- Whether the work lists are not as code 6 asks. Log 77 (DEDUCED, unsafe). -/
def State.badLists (s : State) (l : Launch) : Bool :=
  16 < l.wln || (l.wln ≠ 0 && (l.wlCap < 1 || 2 ^ 24 < l.wlCap)) || l.wlBase.toNat % 4096 ≠ 0 ||
  (l.wln ≤ 16 && l.wlCap ≤ 2 ^ 24 && l.wlPages.any (fun v => match (s.translate l.asid v true false).1 with
    | .ok p => !(isRaw p && p.cc = 0)
    | .error _ => true))

/-- AFF and AFFV (18 Table 18-2). -/
def Launch.aff (l : Launch) : Nat := bits l.ctl.toNat 11 8
/-- See `aff`. -/
def Launch.affv (l : Launch) : Bool := bitAt l.ctl.toNat 12
/-- Argument `n`. -/
def Launch.arg (l : Launch) (n : Nat) : W64 := l.args.getD n 0

/-- Whether a VA lies in the memory of this package (23 R401, R402). -/
def State.inPackage (s : State) (asid va : Nat) : Bool := match s.vaTarget asid va with | .ok (.pkg _) => true | _ => false

/-- Whether a near-memory launch breaks a condition of 23 R401 (code 7). -/
def State.badNm (s : State) (l : Launch) : Bool :=
  l.nm && (l.levels.any (fun k => l.dom k = 2) || 4 < l.teamWaves || l.spb ≠ 0 || l.accTiles ≠ 0 || l.wln ≠ 0 || !l.affv || 14 < l.aff ||
    !s.inPackage l.asid ((l.arg l.aff).toNat % 2 ^ 57))

/-- Whether a function's partition holds a core of a die (25 Table 25-6). -/
def State.vfHasCore (s : State) (v c : Nat) : Bool :=
  bitAt (tgetD (s.vf v).vfCore (2 * (c / coresPerDie) + c % coresPerDie / 64) 0).toNat (c % coresPerDie % 64)
/-- See `vfHasCore`. -/
def State.vfDie (s : State) (v d : Nat) : Bool := (upto coresPerDie).any (fun i => s.vfHasCore v (coresPerDie * d + i))

/-- The rejection code of a record, 0 for none: the lowest of 18 Table 18-3. Log 77 (DEDUCED, unsafe). -/
def State.rejectCode (s : State) (l : Launch) (b : List W8) : Nat :=
  if l.badLevels then 1
  else if l.tooBig then 2
  else if l.badFields b then 3
  else if l.pc.toNat % 4 ≠ 0 || l.record.toNat % 64 ≠ 0 then 4
  else if 64 < l.spb || 16 < l.accTiles then 5
  else if s.badLists l then 6
  else if s.badNm l then 7
  else if !(upto nDies).any (s.vfDie l.vf) then 9
  else if (l.det && !s.feature l.vf 1) || (l.nm && !s.feature l.vf 4) then 10
  else 0

/-- A launch rejected with a code: REASON is written, and a fault of that write loses the code (18 R334).
Log 77 (DEDUCED, unsafe). -/
def State.reject (s : State) (k code : Nat) : State :=
  match tget s.launches k with
  | none => s
  | some l =>
    let (_, s) := s.devWrite .host l.die l.asid ((l.record.toNat + 0x78) % 2 ^ 57) (natBytes code 8)
    s.modLaunch k (fun l => { l with stage := .complete, status := 4, reason := code })

/-- The record of a fault on a launch record or its dependence (20 R361, R442). -/
def Launch.fault (l : Launch) (k va : Nat) : FaultRec := { engRec k 12 l.asid va with vf := l.vf }

/-- A launch completed by a fault (18 R334). Log 77 (DEDUCED, unsafe). -/
def State.launchFault (s : State) (k kind va : Nat) : State :=
  match tget s.launches k with
  | none => s
  | some l => (s.queueFault l.die (l.fault kind va)).modLaunch k (fun l => { l with stage := .complete, status := 1 })

/-- A launch entered in the table. -/
def State.addLaunch (s : State) (l : Launch) : Nat × State :=
  let (k, s) := s.fresh
  (k, { s with launches := tset s.launches k l })

/-- A launch taken from a chain or a slot: its record read and checked (18 R334, R340). None when something keeps the device
from the record; the Boolean is false when the host must answer first. -/
def State.takeLaunch (s : State) (src : LSrc) (nm : Bool) (asid vf die : Nat) (record : Va) (rel : List Nat) :
    Option (State × Bool) :=
  match s.devRead die asid record.toNat 256 with
  | (.error k, s) =>
    let l := { launchOfRec src nm asid vf die record [] with rel := rel }
    let (n, s) := s.addLaunch l
    some (s.launchFault n k record.toNat, true)
  | (.ok g, s') => match s.clear g.lines (s.devLine asid ((record.toNat + 0x78) % 2 ^ 57)) with
    | none => none
    | some (some s) => some (s, false)
    | some none =>
      let s := s'.gotDone die g
      let l := { launchOfRec src nm asid vf die record g.bytes with rel := rel }
      let code := s.rejectCode l g.bytes
      let (n, s) := s.addLaunch l
      if code ≠ 0 then some (s.reject n code, true)
      else if l.wait = 0 then
        some ((s.modLaunch n (fun l => { l with stage := .eligible, since := s.next })), true)
      else some (s, true)

/-- What a launch's WAIT word decides: its rejection, or its eligibility with an acquire (18 R340). -/
def State.dependence (s : State) (l : Nat) (x : Launch) (v : Nat) : Option State :=
  if bitAt v 63 then some (s.reject l 8)
  else if bits x.waitv.toNat 62 0 ≤ bits v 62 0 then
    some (s.modLaunch l (fun y => { y with stage := .eligible, since := s.next, rel := vcMax y.rel (s.vcOf x.die) }))
  else none

/-- A WAIT word outside the package: it is asked for, and asked for again while it does not decide (18 R340, 15 R291).
Log 46 (DEDUCED, unsafe). -/
def State.farDependence (s : State) (l : Nat) (x : Launch) (t : Target) (va : Nat) : Option State :=
  let ask (s : State) : State :=
    let (g, s) := s.addBlock { gid := 0, owner := .host, core := coresPerDie * x.die, die := x.die, kind := .load, asid := x.asid } t va 8
    s.modLaunch l (fun y => { y with waitAcc := some g })
  match x.waitAcc with
  | none => some (ask s)
  | some g => match s.blocks [g] with
    | none => none
    | some r =>
      let s := (s.dropBlocks [g]).modLaunch l (fun y => { y with waitAcc := none })
      match r with
      | .error e => some (s.launchFault l e.1 va)
      | .ok b => match s.dependence l x (bytesNat b) with
        | some s => some s
        | none => some (ask s)

/-- LAUNCH_ELIGIBLE (R340): the dependence is read, relaxed, in the view of the engine's die; reaching WAITV is an
acquire. -/
def execLaunchEligible (l : Nat) (s : State) : Host.Outcome State Fault Refusal :=
  match tget s.launches l with
  | none => notEnabled "LAUNCH_ELIGIBLE"
  | some x =>
    let va := x.wait.toNat % 2 ^ 57
    if x.stage ≠ .taken || s.stoppedAll then notEnabled "LAUNCH_ELIGIBLE"
    else if va % 8 ≠ 0 then .next (s.launchFault l kMisaligned va)
    else match (match s.vaTarget x.asid va with | .ok (.pkg _) => none | .ok t => some t | _ => none) with
    | some t => match s.farDependence l x t va with
      | some s => .next s
      | none => notEnabled "LAUNCH_ELIGIBLE"
    | none => match s.devRead x.die x.asid va 8 with
      | (.error k, s) => .next (s.launchFault l k va)
      | (.ok g, s') => match s.clear g.lines (s.devLine x.asid ((x.record.toNat + 0x78) % 2 ^ 57)) with
        | none => notEnabled "LAUNCH_ELIGIBLE"
        | some (some s) => .next s
        | some none =>
          let v := at' g.bytes 0 8
          let s := s'.gotDone x.die g
          match s.dependence l x v with
          | some s => .next s
          | none => notEnabled "LAUNCH_ELIGIBLE"

/-! ### Admission -/

/-- The die that the affinity argument names, when it decides (18 R341). -/
def State.affDie (s : State) (l : Launch) : Option Nat :=
  let va := (l.arg l.aff).toNat
  if l.affv && vaPkg va = s.hub.fabId.toNat && s.vfDie l.vf (vaDie va) then some (vaDie va) else none

/-- Whether another launch of the function is admitted before this one (18 R341); of two that became eligible together, the one taken
first. -/
def State.admitFirst (s : State) (k : Nat) (l : Launch) : Bool :=
  s.launches.any (fun e => e.1 ≠ k && e.2.stage = .eligible && e.2.vf = l.vf &&
    (l.prio < e.2.prio || (l.prio = e.2.prio && (e.2.since < l.since || (e.2.since = l.since && e.1 < k)))))

/-- The lowest launch number that a die's launches do not use. -/
def freeNum (used : List Nat) : Nat → Nat
  | 0 => 0
  | n + 1 => let k := used.length + 1 - (n + 1); if used.contains k then freeNum used n else k

/-- The die of each team (18 R342): only this package's dies, since the partition's registers name no others. -/
def State.teamDie (s : State) (l : Launch) (d i : Nat) : Nat :=
  match l.dieLevel with
  | none => d
  | some k =>
    let ds := d :: (upto nDies).filter (fun x => x ≠ d && s.vfDie l.vf x)
    ds.getD (l.instOf k (l.logicalWave i 0) % ds.length) d

/-- The lines of a launch's work lists. -/
def State.wlLines (s : State) (l : Launch) : List Nat :=
  dedup (l.wlPages.flatMap (fun v => match (s.translate l.asid v true false).1 with
    | .ok p => linesOf (p.pa + (v - p.va)) (min 4096 (l.wlBytes - (v - l.wlBase.toNat % 2 ^ 57)))
    | .error _ => []))

/-- LAUNCH_ADMISSION (R341, R342, R352). -/
def execLaunchAdmission (l d : Nat) (s : State) : Host.Outcome State Fault Refusal :=
  match tget s.launches l with
  | none => notEnabled "LAUNCH_ADMISSION"
  | some x =>
    let dieOk : Bool := match s.affDie x with | some a => a = d | none => d < nDies && s.vfDie x.vf d
    let own := s.wlLines x
    if !(x.stage = .eligible && dieOk && !s.admitFirst l x && (s.die d).admitted.length < 256 && !s.stoppedAll &&
        !s.writeStall own s.next) then notEnabled "LAUNCH_ADMISSION"
    else
      let used := (s.launches.filter (fun e => (s.die d).admitted.contains e.1)).map (fun e => e.2.num)
      let n := x.teamCount
      let t0 := s.next
      let mk (i : Nat) : Nat × Team :=
        (t0 + i, { launch := l, idx := i, asid := x.asid, vf := x.vf, die := s.teamDie x d i, waves := x.teamWaves, spb := x.spb,
                   acc := x.accTiles, det := x.det, idem := x.idem })
      let s : State := { s with next := s.next + n, teams := s.teams ++ (upto n).map mk }
      let s := s.modDie d (fun y => { y with admitted := y.admitted ++ [l] })
      .next (s.modLaunch l (fun y => { y with
        stage := .admitted, adie := d, num := freeNum used (used.length + 1), team0 := t0, teams := n, owned := own,
        lists := (upto x.wln).map (fun _ => []), pushed := x.rel }))

/-! ### Completion -/

/-- Whether an admitted launch has come to its end (18 R336): teams ended, nothing held, every access performed.
Log 78 (DEDUCED, unsafe). -/
def State.launchOver (s : State) (k : Nat) (l : Launch) : Bool :=
  (s.teamsOf k).all (fun tk => match tget s.teams tk with | some t => t.place = .ended | none => true) &&
  l.held.isEmpty && !s.accs.any (fun e => s.launchOfAcc e.2 = k && e.2.team ≠ 0)

/-- A work list as it is written: the count, the items, and zeros (18 R352). -/
def Launch.listBytes (l : Launch) (n : Nat) : List W8 :=
  let it := l.items n
  natBytes it.length 8 ++ it.flatMap (fun x => natBytes x.1.toNat 8) ++ natBytes 0 (8 * (l.wlCap - it.length))

/-- The winnower's writes of the work lists, and a fault on them. -/
def State.listOuts (s : State) (l : Launch) : List OutLine × Option Nat × State :=
  let b := (upto l.wln).flatMap l.listBytes
  let v := l.wlBase.toNat % 2 ^ 57
  let (o, f, s) := (piecesOf v b.length).foldl (fun (x : List OutLine × Option Nat × State) c =>
    match x.2.2.translate l.asid (c.1 % 2 ^ 57) true false with
    | (.error k, s) => (x.1, some k, s)
    | (.ok p, s) => (x.1 ++ [rawOut (.pkg p.die) p (c.1 % 2 ^ 57) (((b.drop (c.1 - v)).take c.2).map (fun y => (y, false)))], x.2.1, s))
    (([] : List OutLine), (none : Option Nat), s)
  (joinOuts o, f, s)

/-- The largest applied counts of the dies that held a launch's teams. Log 78 (DEDUCED, unsafe). -/
def State.teamsVc (s : State) (k : Nat) : List Nat :=
  (s.teamsOf k).foldl (fun v tk => match tget s.teams tk with | some t => vcMax v (s.vcOf t.die) | none => v) [0, 0, 0, 0]

/-- The work lists written and given up (18 R352). -/
def State.writeLists (s : State) (k : Nat) (l : Launch) : State :=
  let (outs, f, s) := s.listOuts l
  let (vc, s) := outs.foldl (fun (x : List Nat × State) o =>
    let s := x.2.release l.die o
    (s.vcAfter x.1 o.target, s)) (s.teamsVc k, s)
  let s := match f with | some kind => s.queueFault l.die (l.fault kind (l.wlBase.toNat % 2 ^ 57)) | none => s
  s.modLaunch k (fun y => { y with stage := .complete, owned := [], rel := vcMax y.rel vc,
                                   status := if f.isSome && y.status = 0 then 1 else y.status })

/-- A launch and everything of it removed, but for its threads and waves, whose registers' last values stand (16 R304, 19 R360, 24
R407). -/
def State.dropLaunch (s : State) (k : Nat) (l : Launch) : State :=
  let ts := s.teamsOf k
  let s := s.modDie l.adie (fun d => { d with admitted := d.admitted.filter (· ≠ k) })
  let s : State := { s with
    launches := tdel s.launches k
    teams := s.teams.filter (fun e => !ts.contains e.1) }
  { s with execs := tmapAll s.execs (fun _ c => { c with current := tdel c.current k }) }

/-- Completion words of a chain's finished entries written, as far as no earlier one is open (18 R336). -/
def State.popChain (s : State) (e die : Nat) (c : Chain) : Nat → State
  | 0 => s
  | n + 1 => match c.done with
    | (entry, seq, status, true) :: r =>
      let cwv := match s.devRead die c.asid ((c.cb.toNat + 0x10) % 2 ^ 57) 8 with | (.ok g, _) => at' g.bytes 0 8 | _ => 0
      let s := s.writeCw (.engine e) die c.asid c.vf entry (BitVec.ofNat 64 cwv) seq status
      let s := s.modEngine e (fun x => { x with chains := x.chains.map (fun y => if y.cb = c.cb && y.asid = c.asid then { y with done := r } else y) })
      let c := { c with done := r }
      if r.isEmpty && c.next.isEmpty then s.writeHead (.engine e) die c.asid c.cb 0 else s.popChain e die c n
    | _ => s

/-- The VA of a host-queue slot (18 R338). -/
def HostQueue.slotVa (h : HostQueue) (n : Nat) : Nat := (h.base.toNat + 64 * (n % max 1 (bits h.size.toNat 16 0))) % 2 ^ 57

/-- A host queue changed. -/
def State.modQueue (s : State) (v q : Nat) (f : HostQueue → HostQueue) : State :=
  s.modVf v (fun x => { x with queues := tset x.queues q (f (tgetD x.queues q {})) })
/-- A host queue. -/
def State.queue (s : State) (v q : Nat) : HostQueue := tgetD (s.vf v).queues q {}

/-- Completion words of a host queue's finished slots written in slot order (18 R338). -/
def State.popSlots (s : State) (v q : Nat) : Nat → State
  | 0 => s
  | n + 1 =>
    let h := s.queue v q
    match h.done with
    | (k, seq, status, true) :: r =>
      let s := s.modQueue v q (fun h => { h with done := r })
      (s.writeCw .host 0 h.asid.toNat v (BitVec.ofNat 57 (h.slotVa k)) (some h.cw) seq status).popSlots v q n
    | _ => s

/-- The completion of a launch told to its source (18 R336). -/
def State.report (s : State) (l : Launch) : State :=
  match l.src with
  | .chain e cb entry _ =>
    let s := s.modEngine e (fun x => { x with chains := x.chains.map (fun c =>
      if c.cb = cb && c.asid = l.asid then
        { c with done := c.done.map (fun d => if d.1 = entry && !d.2.2.2 then (d.1, d.2.1, l.status, true) else d) }
      else c) })
    match (s.engine e).chains.find? (fun c => c.cb = cb && c.asid = l.asid) with
    | some c => s.popChain e (engDie e) c c.done.length
    | none => s
  | .slot v q n _ =>
    let s := s.modQueue v q (fun h => { h with done := h.done.map (fun d => if d.1 = n then (d.1, d.2.1, l.status, true) else d) })
    s.popSlots v q (s.queue v q).done.length

/-- The lines that a completion writes. Log 76 (DESIGN CHOICE, unsafe). -/
def State.reportLines (s : State) (l : Launch) : List Nat :=
  match l.src with
  | .chain _ cb entry _ => s.devLine l.asid ((entry.toNat + 0x18) % 2 ^ 57) ++ s.devLine l.asid ((cb.toNat + 0x18) % 2 ^ 57)
  | .slot v q n _ => s.devLine l.asid ((s.queue v q).slotVa n) ++ s.devLine l.asid ((s.queue v q).cw.toNat % 2 ^ 57)

/-- LAUNCH_COMPLETE (R336, R352): first the work lists are written; then STATUS and CW, when the die that writes them has
applied everything that the launch wrote (07 R138). Log 78 (DEDUCED, unsafe). -/
def execLaunchComplete (l : Nat) (s : State) : Host.Outcome State Fault Refusal :=
  match tget s.launches l with
  | none => notEnabled "LAUNCH_COMPLETE"
  | some x =>
    if s.stoppedAll then notEnabled "LAUNCH_COMPLETE"
    else if x.stage = .admitted then
      if s.launchOver l x && (upto nDies).all s.queuesOpen then .next (s.writeLists l x) else notEnabled "LAUNCH_COMPLETE"
    else if x.stage = .complete && vcCovers (s.vcOf x.die) x.rel then
      match s.clear [] (s.reportLines x) with
      | none => notEnabled "LAUNCH_COMPLETE"
      | some (some s) => .next s
      | some none => .next ((s.dropLaunch l x).report x)
    else notEnabled "LAUNCH_COMPLETE"

/-! ### Host queues -/

/-- Whether the device serves launches (26 R435). -/
def State.serves (s : State) : Bool := (s.hub.lcState = 1 || s.hub.lcState = 2) && s.hub.devStat = 6 && !s.hub.fatal

/-- A queue stopped by an error (18 R337, R338). -/
def State.queueErr (s : State) (v q code : Nat) : State := s.modQueue v q (fun h => { h with err := true, ecode := code })

/-- HOST_QUEUE_SLOT_TAKE (R338, R339). Log 76 (DESIGN CHOICE, unsafe). -/
def execHostQueueSlotTake (v q : Nat) (s : State) : Host.Outcome State Fault Refusal :=
  let h := s.queue v q
  let n := h.head.toNat
  if !(h.en && !h.err && h.head ≠ h.seen && s.serves && vcCovers (s.vcOf 0) h.rel) then notEnabled "HOST_QUEUE_SLOT_TAKE"
  else match s.devRead 0 h.asid.toNat (h.slotVa n) 64 with
    | (.error _, s) => .next (s.queueErr v q 2)
    | (.ok g, s1) => match s.clear g.lines [] with
      | none => notEnabled "HOST_QUEUE_SLOT_TAKE"
      | some (some s) => .next s
      | some none =>
        let s1 := s1.gotDone 0 g
        let rd := entryRd g.bytes
        let kind := bits (rd 8) 3 0
        let seq := BitVec.ofNat 64 (rd 0x10 % 2 ^ 63)
        let s1 := s1.modQueue v q (fun h => { h with head := h.head + 1, done := h.done ++ [(n, seq, 0, false)] })
        let record := BitVec.ofNat 57 (rd 0x20)
        if (kind ≠ 4 && kind ≠ 5) || !entryOk kind rd then
          let l := { launchOfRec (.slot v q n seq) false h.asid.toNat v 0 record [] with stage := .complete, status := 4 }
          .next (s1.addLaunch l).2
        else match s1.takeLaunch (.slot v q n seq) (kind = 5) h.asid.toNat v 0 record h.rel with
          | none => notEnabled "HOST_QUEUE_SLOT_TAKE"
          | some (s2, true) => .next s2
          | some (s2, false) => .next { s with hub := s2.hub, out := s2.out }

/-- The tail word read again, and the overrun check (18 R338). Log 76 (DESIGN CHOICE, unsafe). -/
def State.sawTail (s : State) (v q : Nat) (t : W64) : State :=
  let s := s.modQueue v q (fun h => { h with seen := t, rel := (upto nDies).map (fun d => (s.die d).h) })
  let h := s.queue v q
  if bits h.size.toNat 16 0 < (t - h.head).toNat then s.queueErr v q 1 else s

/-- TAIL_LINE_INVALIDATE (R339): in the host window the line is taken again with RdShared and holds `tail`; in device memory
it is read at its home. Log 76 (DESIGN CHOICE, unsafe). -/
def execTailLineInvalidate (v q : Nat) (tail : W64) (s : State) : Host.Outcome State Fault Refusal :=
  let h := s.queue v q
  let va := h.tail.toNat % 2 ^ 57
  if !(h.en && !h.err && !s.stoppedAll) then notEnabled "TAIL_LINE_INVALIDATE"
  else match s.vaTarget h.asid.toNat va with
    | .ok .host =>
      let s : State := { s with out := s.out ++ [.host 0 "RdShared" (bits va 43 0) [] false] }
      .next (s.sawTail v q tail)
    | .ok (.pkg d) => match s.devRead d h.asid.toNat va 8 with
      | (.error _, s) => .next (s.queueErr v q 2)
      | (.ok g, s') => match s.clear g.lines [] with
        | none => notEnabled "TAIL_LINE_INVALIDATE"
        | some (some s) => .next s
        | some none => .next ((s'.gotDone d g).sawTail v q (BitVec.ofNat 64 (at' g.bytes 0 8)))
    | _ => .next (s.queueErr v q 2)

end Sys2Proof.Machine
end

