-- ==== Sys2Proof/Machine/EvColl.lean ====
section
/-! DEFINITION. Collectives, the start of an engine's entry, and streams (07 R137, 13 R253 to R256, 15 R293, R296,
25 R417, R418, R420, R421). -/

namespace Sys2Proof.Machine

/-! ### Collectives -/

/-- A group descriptor as read (25 Table 25-5), kept in the entry's job as words: GID, NR, RANK, then each rank.
Log 14 (DESIGN CHOICE, unsafe). -/
def groupWords (b : List W8) : List W64 :=
  let nr := at' b 8 4
  BitVec.ofNat 64 (at' b 0 8) :: BitVec.ofNat 64 nr :: BitVec.ofNat 64 (at' b 0xC 4) ::
    (upto nr).map (fun r => BitVec.ofNat 64 (at' b (0x40 + 8 * r) 8))

/-- Parameters of a collective entry. -/
structure CPar where
  op : Nat
  ty : Nat
  root : Nat
  n : Nat
  deriving DecidableEq, Repr

/-- Parameters from the entry's word and N. -/
def cparOf (w n : Nat) : CPar := { op := bits w 3 0, ty := bits w 12 8, root := bits w 31 16, n := n }
/-- Parameters as the bytes that other ranks compare (log entry 14). Log 14 (DESIGN CHOICE, unsafe). -/
def CPar.bytes (p : CPar) : List W8 := natBytes p.op 8 ++ natBytes p.ty 8 ++ natBytes p.root 8 ++ natBytes p.n 8
/-- Parameters from those bytes. Log 14 (DESIGN CHOICE, unsafe). -/
def cparFrom (b : List W8) : CPar := { op := at' b 0 8, ty := at' b 8 8, root := at' b 16 8, n := at' b 24 8 }

/-- What a collective's job keeps after its start: the entry's word, N, destination, RND and DET. -/
structure CJob where
  par : CPar
  dst : Nat
  mode : Nat
  det : Bool
  ranks : List Nat
  deriving DecidableEq, Repr

/-- The body that a collective's job keeps. -/
def cbody (w n dst h : Nat) (ranks : List W64) : List W64 :=
  BitVec.ofNat 64 w :: BitVec.ofNat 64 n :: BitVec.ofNat 64 dst :: BitVec.ofNat 64 h :: ranks
/-- What the body says. -/
def cjob (b : List W64) : CJob :=
  let w (i : Nat) : Nat := (b.getD i 0).toNat
  { par := cparOf (w 0) (w 1), dst := w 2 % 2 ^ 57, mode := bits (w 3) 14 12, det := bitAt (w 3) 15, ranks := (b.drop 4).map (·.toNat) }

/-- Elements of a collective's result on each rank. -/
def CPar.count (p : CPar) (nr : Nat) : Nat := if p.op = 2 then p.n * nr else p.n

/-- The package and die of a rank. -/
def rankPkg (r : Nat) : Nat := bits r 10 0
/-- See `rankPkg`. -/
def rankDie (r : Nat) : Nat := bits r 12 11

/-- The collective engine of a die. Log 70 (DEDUCED, unsafe). -/
def collEng (d : Nat) : Nat := 32 * d + 17

/-- Ranks on other packages. -/
def State.farPkgs (s : State) (ranks : List Nat) : List Nat := dedup ((ranks.map rankPkg).filter (· ≠ s.hub.fabId.toNat))

/-- Whether a group descriptor is good for an engine (25 R420, R421). Log 73 (DEDUCED, unsafe). -/
def State.groupOk (s : State) (die vf : Nat) (g : List W64) (b : List W8) : Bool :=
  let w (i : Nat) : Nat := (g.getD i 0).toNat
  let ranks := (g.drop 3).map (·.toNat)
  w 0 ≠ 0 && 1 ≤ w 1 && w 1 ≤ 4608 && w 2 < w 1 && (b.drop 0x10).take 48 = (upto 48).map (fun _ => (0 : W8)) &&
  ranks.all (fun r => r < 2 ^ 13) && ranks.getD (w 2) 0 = s.hub.fabId.toNat + die * 2 ^ 11 &&
  ((s.farPkgs ranks).isEmpty || s.feature vf 7)

/-- One datum's worth of collective data sent to every other package of the group, 128 bytes a message, after the
parameters (log entry 14). -/
def State.collSend (s : State) (die vf : Nat) (gid turn rank : Nat) (pkgs : List Nat) (p : CPar) (data : List W8) : State :=
  let core := coresPerDie * die
  let ops (c : Nat) : Nat := rank + turn % 2 ^ 19 * 2 ^ 13 + c * 2 ^ 32
  let parts := (upto ((data.length + 127) / 128)).map (fun i => (data.drop (128 * i)).take 128)
  pkgs.foldl (fun s pkg =>
    let s := s.sendFlit 0x20 core pkg die (s.tagOf vf) (gid % 2 ^ 57) (ops 0) p.bytes
    ((upto parts.length).zip parts).foldl (fun s c => s.sendFlit 0x20 core pkg die (s.tagOf vf) (gid % 2 ^ 57) (ops (c.1 + 1)) c.2) s) s

/-- The destination elements of a collective, translated so that their lines can be owned; each is given the code 0 until
the ranks are matched. -/
def State.collDst (s : State) (asid dst ty n : Nat) : List OutEl × Option AccFault × State :=
  (upto n).foldl (fun (x : List OutEl × Option AccFault × State) i =>
    if x.2.1.isSome then x
    else match x.2.2.engElem asid dst i (fmtWidth ty / 8) true with
      | (.error f, s) => (x.1, some f, s)
      | (.ok (q, d, u), s) => (x.1 ++ [{ page := q, va := u, elem := d, code := 0, bad := false }], x.2.1, s))
    (([] : List OutEl), (none : Option AccFault), s)

/-- What the start of a collective entry comes to: its work, group words, and input bytes. -/
def State.collWork (s : State) (die asid vf : Nat) (rd : Nat → Nat) : Work × List W64 × List W8 × State :=
  let mode := bits (rd 8) 14 12
  let par := cparOf (rd 0x28) (rd 0x30)
  let gva := rd 0x20 % 2 ^ 57
  if !entryOk 2 rd || 3 < par.op || !engTyOk par.ty || gva % 64 ≠ 0 then (.badEntry, [], [], s)
  else match s.devRead die asid gva 64 with
    | (.error k, s) => ({ fault := some ⟨k, 8, gva⟩ }, [], [], s)
    | (.ok g0, s) =>
      let nr := at' g0.bytes 8 4
      if nr < 1 || 4608 < nr then (.badEntry, [], [], s)
      else match s.devRead die asid gva (64 + 8 * nr) with
        | (.error k, s) => ({ fault := some ⟨k, 8, gva⟩ }, [], [], s)
        | (.ok g, s) =>
          let gw := groupWords g.bytes
          if !s.groupOk die vf gw g.bytes || (par.op = 3 && nr ≤ par.root) then (.badEntry, gw, [], s)
          else
            let reads := par.op ≠ 3 || (gw.getD 2 0).toNat = par.root
            let (l, wk, s) := if reads then s.readTyped die asid (rd 0x38 % 2 ^ 57) par.ty mode par.n else ([], {}, s)
            if wk.fault.isSome then (wk, gw, [], s)
            else
              let (els, f, s) := s.collDst asid (rd 0x40 % 2 ^ 57) par.ty (par.count nr)
              let noRoute := (s.farPkgs ((gw.drop 3).map (·.toNat))).any (fun p => (s.usePort (coresPerDie * die) p).isNone)
              let f := if f.isNone && noRoute then some ⟨kPkgAbsent, 8, gva⟩ else f
              let w := fmtWidth par.ty / 8
              let data := l.flatMap (fun c => natBytes c.1 w)
              let wk := wk.got g
              (match f with | some x => { wk with fault := some x } | none => { wk with out := s.outOf els, status := 0 }, gw,
               data ++ (if l.any (·.2) then [1] else [0]), s)

/-- Writes whose bytes the manual leaves undefined: free values (25 R421, log entry 3).
Log 72 (DESIGN CHOICE, safe). -/
def State.freeOut (s : State) (outs : List OutLine) : List OutLine × State :=
  outs.foldl (fun (x : List OutLine × State) o =>
    let (vs, s) := x.2.takeFrees o.cells.length
    (x.1 ++ [{ o with cells := (o.cells.zip vs).map (fun y => (y.1.1, y.2.setWidth 8)) }], s)) (([] : List OutLine), s)

/-- The bits of a group id that a flit holds (25 Table 25-4). -/
def flitGid (g : W64) : W64 := BitVec.ofNat 64 (g.toNat % 2 ^ 57)

/-- The entry of a collective begun (25 R420, R421): one that names an aborted group completes with STATUS 3. -/
def State.collStart (s : State) (e t : Nat) (c : Chain) (entry : Va) (seq cw : W64) (rd : Nat → Nat) (wk : Work) (gw : List W64)
    (data : List W8) : State :=
  let die := engDie e
  let gid := gw.getD 0 0
  let s := s.workDone die t wk
  let named := gw ≠ []
  let turn := tgetD (s.engine e).turns gid.toNat 0
  let s := if named then s.modEngine e (fun x => { x with turns := tset x.turns gid.toNat (turn + 1) }) else s
  let gone := (s.engine e).aborted.contains (flitGid gid)
  let ranks := gw.drop 3
  let par := cparOf (rd 0x28) (rd 0x30)
  let (fo, s) := if gone then s.freeOut wk.out else ([], s)
  let j := jobOf c entry 2 seq cw (if gone then { out := fo, status := 3 } else wk)
  let j := { j with grp := gid, turn := turn, rank := (gw.getD 2 0).toNat, inData := data,
                    body := cbody (rd 0x28) (rd 0x30) (rd 0x40) (rd 8) ranks, out := j.out }
  let s := s.modEngine e (fun x => { x with job := some j })
  if gone || j.status ≠ 0 || wk.fault.isSome then s
  else s.collSend die c.vf gid.toNat turn j.rank (s.farPkgs (ranks.map (·.toNat))) par (data.take (data.length - 1))

/-- The data that another package's rank has sent, when all of it has come: its parameters and bytes. -/
def State.farData (s : State) (gid : W64) (turn rank : Nat) : Option (CPar × List W8) :=
  let ms := s.coll.filter (fun m => m.grp = flitGid gid && m.turn = turn && m.rank = rank)
  match ms.find? (fun m => m.chunk = 0) with
  | none => none
  | some m =>
    let p := cparFrom m.data
    let len := if p.op = 3 && rank ≠ p.root then 0 else p.n * (fmtWidth p.ty / 8)
    let n := (len + 127) / 128
    let parts := (upto n).map (fun i => (ms.find? (fun m => m.chunk = i + 1)).map (·.data))
    if parts.all Option.isSome then some (p, ((parts.filterMap id).flatten).take len) else none

/-- The job of a local rank, when its engine has begun the group's entry of that turn. -/
def State.rankJob (s : State) (gid : W64) (turn die : Nat) : Option Job :=
  match (s.engine (collEng die)).job with
  | some j => if j.kind = 2 && j.grp = gid && j.turn = turn && j.status = 0 && j.faulted.isNone && j.flags = 0 then some j else none
  | none => none

/-- Parameters and data of every rank, when all have come; a rank's poison is known on its own package only. -/
def State.rankData (s : State) (gid : W64) (turn : Nat) (ranks : List Nat) : Option (List (CPar × List W8 × Bool)) :=
  let l := ((upto ranks.length).zip ranks).map (fun x =>
    if rankPkg x.2 = s.hub.fabId.toNat then
      (s.rankJob gid turn (rankDie x.2)).map (fun j => ((cjob j.body).par, j.inData.dropLast, decide (j.inData.getLast? = some 1)))
    else (s.farData gid turn x.1).map (fun d => (d.1, d.2, false)))
  if l.all Option.isSome then some (l.filterMap id) else none

/-- One combine of two values of a type (15 R296). Log 14 (DESIGN CHOICE, unsafe). -/
def combineTy (op ty mode r x y : Nat) : Nat :=
  if op = 1 then (if tord (decodeVal ty y) (decodeVal ty x) == .gt then y else x)
  else if isInt ty then (x + y) % 2 ^ fmtWidth ty
  else (addF ty mode r x y).1

/-- One level of the rank tree. Log 73 (DEDUCED, unsafe). -/
def treeLevel (f : Nat → Nat → Nat → Nat) (k : Nat) : List Nat → List Nat × Nat
  | x :: y :: r => let (l, n) := treeLevel f (k + 1) r; (f k x y :: l, n)
  | l => (l, k)

/-- The fixed binary rank tree (15 R296): `f k x y` is combine number `k`. Log 73 (DEDUCED, unsafe). -/
def rankTree (f : Nat → Nat → Nat → Nat) : Nat → Nat → List Nat → Nat
  | 0, _, l => l.headD 0
  | n + 1, k, l => match l with
    | [] => 0
    | [x] => x
    | l => let (l, k) := treeLevel f k l; rankTree f n k l

/-- Combines in an order that the manual does not fix (15 R296): `pick` says which values each takes.
Log 72 (DESIGN CHOICE, safe). -/
def freeTree (f : Nat → Nat → Nat → Nat) (pick : Nat → Nat) : Nat → Nat → List Nat → Nat
  | 0, _, l => l.headD 0
  | n + 1, k, l =>
    if l.length ≤ 1 then l.headD 0
    else
      let i := pick (2 * k) % l.length
      let x := l.getD i 0
      let l := ldel l i
      let j := pick (2 * k + 1) % l.length
      freeTree f pick n (k + 1) (f k x (l.getD j 0) :: ldel l j)

/-- The codes of one rank's data. -/
def codesOf (ty : Nat) (n : Nat) (b : List W8) : List Nat := let w := fmtWidth ty / 8; (upto n).map (fun i => at' b (w * i) w)

/-- The result of a matched collective: codes, and whether each is poisoned (25 R421, 15 R296). Free values are counted
(log entry 3). Log 73 (DEDUCED, unsafe). -/
def State.collResult (s : State) (j : CJob) (ds : List (List W8 × Bool)) : List (Nat × Bool) × State :=
  let p := j.par
  let rows := ds.map (fun d => (codesOf p.ty p.n d.1, d.2))
  if p.op = 2 then (rows.flatMap (fun r => r.1.map (fun c => (c, r.2))), s)
  else if p.op = 3 then (match rows[p.root]? with | some r => r.1.map (fun c => (c, r.2)) | none => [], s)
  else
    let nr := rows.length
    let bad := rows.any (·.2)
    let k0 := s.free
    let s : State := { s with free := s.free + 3 * nr * p.n }
    let one (i : Nat) : Nat :=
      let free (k : Nat) : Nat := (Config.freeValue (k0 + 3 * nr * i + k)).toNat
      let f (k x y : Nat) : Nat := combineTy p.op p.ty j.mode (if j.mode = 5 then free (2 * nr + k) % 2 ^ 16 else 0) x y
      let vs := rows.map (fun r => r.1.getD i 0)
      if j.det then rankTree f nr 0 vs else freeTree f free nr 0 vs
    ((upto p.n).map (fun i => (one i, bad)), s)

/-- A local rank's entry with its result written out. Log 73 (DEDUCED, unsafe). -/
def State.collFill (s : State) (e : Nat) (cs : List (Nat × Bool)) : State :=
  match (s.engine e).job with
  | none => s
  | some j =>
    let c := cjob j.body
    let (els, far, f, s) := s.writeTyped j.asid c.dst c.par.ty c.mode cs
    s.modEngine e (fun x => { x with job := some (match f with
      | some g => { j with flags := 1, out := [], owned := [], faulted := some (entryRec g.kind j.asid j.entry.toNat j.vf) }
      | none => { j with flags := 1, out := s.outOf els ++ far }) })

/-- COLLECTIVE_MATCH (R420, R421): the entries of one turn of a group, all ranks' data at hand. -/
def execCollectiveMatch (grp : Nat) (s : State) : Host.Outcome State Fault Refusal :=
  let gid := BitVec.ofNat 64 grp
  match ((upto nDies).filterMap (fun d => match (s.engine (collEng d)).job with
      | some j => if j.kind = 2 && j.grp = gid && j.status = 0 && j.faulted.isNone && j.flags = 0 then some j else none
      | none => none)).head? with
  | none => notEnabled "COLLECTIVE_MATCH"
  | some j =>
    let ranks := (cjob j.body).ranks
    if s.stoppedAll then notEnabled "COLLECTIVE_MATCH"
    else match s.rankData gid j.turn ranks with
      | none => notEnabled "COLLECTIVE_MATCH"
      | some ds =>
        let here := (ranks.filter (fun r => rankPkg r = s.hub.fabId.toNat)).map (fun r => collEng (rankDie r))
        let s : State := { s with coll := s.coll.filter (fun m => !(m.grp = flitGid gid && m.turn = j.turn)) }
        match ds with
        | [] => notEnabled "COLLECTIVE_MATCH"
        | d :: r =>
          if r.all (fun x => x.1 = d.1) then
            let (cs, s) := s.collResult (cjob j.body) (ds.map (·.2))
            .next (here.foldl (fun s e => s.collFill e cs) s)
          else
            .next (here.foldl (fun s e => s.modEngine e (fun x => { x with job := x.job.map (fun j =>
              { j with status := 4, flags := 1, out := [], owned := [] }) })) s)

/-! ### The start of an entry -/

/-- An entry whose reading faults: it ends with STATUS 1, its SEQ and CW being those that could be read (15 R297); a launch is
entered and faults (18 R334). -/
def State.entryFault (s : State) (e : Nat) (c : Chain) (entry : Va) (seq : W64) (cw : Option W64) (k : Nat) (va : Nat) : State :=
  if 4 ≤ engKind e then
    let s := s.modEngine e (fun x => { x with chains := x.chains.map (fun y => if y.cb = c.cb && y.asid = c.asid then
      { y with done := y.done ++ [(entry, seq, 0, false)] } else y) })
    let (n, s) := s.addLaunch (launchOfRec (.chain e c.cb entry seq) false c.asid c.vf (engDie e) entry [])
    s.launchFault n k va
  else
    s.modEngine e (fun x => { x with job := some { jobOf c entry (engKind e) seq (cw.getD 0) { fault := some ⟨k, 8, entry.toNat⟩ } with
      noCw := cw.isNone } })

/-- The CW of a chain, where its control block can be read, and the fault otherwise (15 Table 15-4). -/
def State.chainCw (s : State) (die asid : Nat) (cb : Va) : Except Nat W64 × State :=
  match s.devRead die asid ((cb.toNat + 0x10) % 2 ^ 57) 8 with
  | (.ok x, s) => (.ok (BitVec.ofNat 64 (at' x.bytes 0 8)), s.gotDone die x)
  | (.error k, s) => (.error k, s)

/-- A launch engine's entry (18 R334). -/
def State.entryLaunch (s s1 : State) (e : Nat) (c : Chain) (entry : Va) (vc : List Nat) (seq : W64) (rd : Nat → Nat) : Host.Outcome State Fault Refusal :=
  let kind := engKind e
  let s1 := s1.modEngine e (fun x => { x with chains := x.chains.map (fun y => if y.cb = c.cb && y.asid = c.asid then
    { y with done := y.done ++ [(entry, seq, 0, false)] } else y) })
  let head (s : State) : State := s.writeHead (.engine e) (engDie e) c.asid c.cb entry.toNat
  if !entryOk kind rd then
    let l := { launchOfRec (.chain e c.cb entry seq) false c.asid c.vf (engDie e) entry [] with stage := .complete, status := 4 }
    .next (head (s1.addLaunch l).2)
  else match s1.takeLaunch (.chain e c.cb entry seq) (kind = 5) c.asid c.vf (engDie e) (BitVec.ofNat 57 (rd 0x20)) vc with
    | none => notEnabled "ENGINE_ENTRY_START"
    | some (s2, true) => .next (head s2)
    | some (s2, false) => .next { s with hub := s2.hub, out := s2.out }

/-- ENGINE_ENTRY_START (R137, 15 R293, 17 R321): the engine takes the next entry of the next chain that has one, reads it, its
sources as of the named ticks before the clock at most, and owns its destination lines. A launch engine takes the launch of the
entry (18 R334). Log 122 (DESIGN CHOICE, unsafe). -/
def execEngineEntryStart (n : ReadAt) (s : State) : Host.Outcome State Fault Refusal :=
  let e := n.n
  let die := engDie e
  let g := s.engine e
  match g.pick with
  | none => notEnabled "ENGINE_ENTRY_START"
  | some (c, entry, vc, chains) =>
    let kind := engKind e
    if g.job.isSome || s.stoppedAll || !vcCovers (s.vcOf die) vc || (4 ≤ kind && !s.serves) || s.accs.any (fun a => a.2.owner = .engine e) then
      notEnabled "ENGINE_ENTRY_START"
    else
      let asid := c.asid
      let cbl := s.devLine asid ((c.cb.toNat + 0x18) % 2 ^ 57)
      let (cw, sc) := s.chainCw die asid c.cb
      let word : Option W64 := match cw with | .ok v => some v | .error _ => none
      let take (s : State) : State := s.modEngine e (fun x => { x with chains := chains })
      match sc.devRead die asid entry.toNat 32 with
      | (.error k, s1) => .next ((take s1).entryFault e c entry 0 word k entry.toNat)
      | (.ok h0, s1) =>
        let seq := BitVec.ofNat 64 (at' h0.bytes 0x10 8 % 2 ^ 63)
        match s1.devRead die asid entry.toNat (64 * (bits (at' h0.bytes 8 8) 11 8 + 1)), cw with
        | (.error k, s1), _ => .next ((take s1).entryFault e c entry seq word k entry.toNat)
        | (.ok _, s1), .error k => .next ((take s1).entryFault e c entry seq none k entry.toNat)
        | (.ok b, s1), .ok cw =>
          let rd := entryRd b.bytes
          let head (s : State) : State := s.writeHead (.engine e) die asid c.cb entry.toNat
          match s.clear b.lines cbl with
          | none => notEnabled "ENGINE_ENTRY_START"
          | some (some s) => .next s
          | some none =>
            let s1 := (take s1).gotDone die b
            let t := s.engTime die vc n.back
            if 4 ≤ kind then s.entryLaunch s1 e c entry vc seq rd
            else if kind = 2 then
              let ((wk, gw, data), s2) := s1.seenAt die t (fun s => let (wk, gw, data, u) := s.collWork die asid c.vf rd; ((wk, gw, data), u))
              match s.clear wk.lines (ownedBy wk.out) with
              | none => notEnabled "ENGINE_ENTRY_START"
              | some (some s) => .next s
              | some none => .next (head (s2.collStart e t c entry seq cw rd wk gw data))
            else
              let (wk, s2) := s1.seenAt die t (fun s => s.entryWork die c kind rd)
              match s.clear wk.lines (ownedBy wk.out) with
              | none => notEnabled "ENGINE_ENTRY_START"
              | some (some s) => .next s
              | some none =>
                let s2 := (s2.workDone die t wk).modEngine e (fun x => { x with job := some (jobOf c entry kind seq cw wk) })
                let s2 := if kind = 0 then
                    s2.modDie die (fun d => { d with ccwp := tset d.ccwp (engUnit e) (BitVec.ofNat 64 (rd 0x28 % 2 ^ 57 / lineBytes * lineBytes)) })
                  else s2
                .next (head s2)

/-! ### Streams -/

/-- One operation of a stream on an exact value (13 Table 13-5). -/
def streamOp (code c d mode : Nat) (y : Val) : FRes :=
  let vc := decodeVal 1 c
  let vd := decodeVal 1 d
  let sum (a b : Val) : FRes :=
    match a, b with
    | .nan s, w => .val (.nan (s || w.isSig)) 0
    | _, .nan s => .val (.nan s) 0
    | .inf s, .inf t => if s = t then .val (.inf s) 0 else .invalid
    | .inf s, _ => .val (.inf s) 0
    | _, .inf t => .val (.inf t) 0
    | a, b =>
      let x := a.dy.add b.dy
      if x.m = 0 then .val (.fin (zeroSign mode [a, b]) 0 0) 0 else .val (.fin (x.m < 0) x.m.natAbs x.e) 0
  let prod (a b : Val) : FRes :=
    if zeroInf a b then .invalid
    else if a.isNan || b.isNan then .val (.nan (a.isSig || b.isSig)) 0 else .val (mulVal a b) 0
  let num (gt : Bool) : FRes :=
    let fl := if y.isSig || vc.isSig then fNV else 0
    if y.isNan then .val (if vc.isNan then .nan false else vc) fl
    else if vc.isNan then .val y fl
    else .val (match tord y vc with | .eq => y | .gt => if gt then y else vc | .lt => if gt then vc else y) fl
  match code with
  | 0 => .val y 0
  | 1 => sum y vc
  | 2 => prod y vc
  | 3 =>
    if zeroInf y vc then .invalid
    else if y.isNan || vc.isNan || vd.isNan then .val (.nan (y.isSig || vc.isSig || vd.isSig)) 0
    else sum (mulVal y vc) vd
  | 4 => num false
  | 5 => num true
  | 6 => .val (clampVal y vc vd) 0
  | 7 => .val (match y with | .nan _ => .nan false | .inf _ => .inf false | .fin _ m e => .fin false m e) 0
  | 8 => .val (match y with | .nan _ => .nan false | v => v.negate) 0
  | 9 => funcV 3 y
  | 10 => funcV 4 y
  | 11 => funcV 2 y
  | 12 => funcV 0 y
  | _ => funcV 1 y

/-- The operations of a stream on one element: each but the last rounds to binary32, the last to format `fmt` (13 R254).
`r j` is the random value of operation `j`. -/
def streamEl (fmt mode : Nat) (r : Nat → Nat) : List (Nat × Nat × Nat) → Nat → Val → Res
  | [], _, y => toFloat fmt mode 0 y
  | [(o, c, d)], j, y => (streamOp o c d mode y).to fmt mode (r j)
  | (o, c, d) :: l, j, y =>
    let (x, fl) := (streamOp o c d mode y).to 1 mode (r j)
    let (z, fl') := streamEl fmt mode r l (j + 1) (decodeVal 1 x)
    (z, fl ||| fl')

/-- Whether a stream's page holds elements it may take (13 R255). -/
def streamPage (p : Page) : Bool := p.blk = 0 && p.fmt ≤ 5

/-- A stream's elements, up to the first fault, with their flags. -/
def State.streamEls (s : State) (x : StreamJob) (ops : List (Nat × Nat × Nat)) (n : Nat) : List OutEl × W32 × Work × State :=
  (upto n).foldl (fun (a : List OutEl × W32 × Work × State) i =>
    let (els, fl, wk, s) := a
    if wk.fault.isSome then a
    else match s.engElem x.asid x.src.toNat i 1 false with
      | (.error f, s) => (els, fl, { wk with fault := some f }, s)
      | (.ok (p, e, v), s) =>
        if !streamPage p then (els, fl, { wk with fault := some ⟨kFormatAccess, 8, v⟩ }, s)
        else match s.engVal x.die p e 1 x.rnd with
          | none => (els, fl, { wk with fault := some ⟨kHeaderInvalid, 8, e.hdrVa⟩ }, s)
          | some y => match s.engElem x.asid x.dst.toNat i 1 true with
            | (.error f, s) => (els, fl, { wk with fault := some f }, s)
            | (.ok (q, d, u), s) =>
              if !streamPage q then (els, fl, { wk with fault := some ⟨kFormatAccess, 8, u⟩ }, s)
              else
                let r (j : Nat) : Nat := if x.rnd = 5 then srRand x.hkey x.hctr x.tid40 4 j i else 0
                let (c, f) := streamEl q.fmt x.rnd r ops 0 y.v
                (els ++ [{ page := q, va := u, elem := d, code := c, bad := y.bad }], fl ||| f, wk.saw p e, s))
    (([] : List OutEl), (0 : W32), ({} : Work), s)

/-- Bytes of `n` elements from a VA on, each page with its own width; 0 where they cannot be found (13 R255). -/
def State.streamSpan (s : State) (asid va n : Nat) : Nat :=
  match (s.engElem asid va (n - 1) 1 false).1 with
  | .ok (p, _, v) => (v + fmtWidth p.fmt / 8 + 2 ^ 57 - va) % 2 ^ 57
  | .error _ => 0

/-- Whether two ranges overlap without being equal (13 R255). -/
def badOverlap (a b n m : Nat) : Bool := a < b + m && b < a + n && !(a = b && n = m)

/-- The operations of a stream's descriptor. -/
def streamOps (b : List W8) (k : Nat) : List (Nat × Nat × Nat) :=
  (upto k).map (fun j => (at' b (0x20 + 16 * j) 1, at' b (0x24 + 16 * j) 4, at' b (0x28 + 16 * j) 4))

/-- Whether the descriptor ends a stream with the error status (13 R255). -/
def streamBad (x : StreamJob) (b : List W8) : Bool :=
  let n := at' b 0 8
  n < 1 || 2 ^ 32 < n || at' b 8 8 % 8 ≠ 0 || bitAt (at' b 0x10 8) 63 || at' b 0x18 8 ≠ 0 ||
  (upto x.k).any (fun j => 13 < at' b (0x20 + 16 * j) 1 || at' b (0x21 + 16 * j) 3 ≠ 0 || at' b (0x2C + 16 * j) 4 ≠ 0) ||
  (streamOps b x.k).any (fun o => o.1 = 6 &&
    ((decodeVal 1 o.2.1).isNan || (decodeVal 1 o.2.2).isNan || !leF32 o.2.1 o.2.2))

/-- The record of a stream: it names the descriptor (13 R256). Log 79 (DEDUCED, unsafe). -/
def StreamJob.record (x : StreamJob) (k : Nat) : FaultRec := entryRec k x.asid x.desc.toNat x.vf

/-- The job of a stream begun: CW and CV are kept as its completion word and its value. -/
def StreamJob.begin (x : StreamJob) (cw cv : W64) (w : Work) (fl : W32) : Job :=
  { chain := 0, entry := x.desc, asid := x.asid, vf := x.vf, kind := 6, seq := cv, cw := cw, out := w.out, owned := ownedBy w.out,
    status := if w.fault.isSome then 1 else w.status, faulted := w.fault.map (fun f => x.record f.kind), flags := fl }

/-- A word of a descriptor that can be read, or 0 (13 R256). Log 79 (DEDUCED, unsafe). -/
def State.descWord (s : State) (x : StreamJob) (o : Nat) : W64 × State :=
  match s.devRead x.die x.asid ((x.desc.toNat + o) % 2 ^ 57) 8 with
  | (.ok g, s) => (BitVec.ofNat 64 (at' g.bytes 0 8), s)
  | (.error _, s) => (0, s)

/-- STREAM_START (R256): the stream starts when every earlier access is performed; it reads its descriptor and sources,
and owns its destination lines. -/
def execStreamStart (i : Nat) (s : State) : Host.Outcome State Fault Refusal :=
  match s.streams[i]? with
  | none => notEnabled "STREAM_START"
  | some x =>
    let ready := x.job.isNone && !s.stoppedAll && x.gates.all (fun g => match tget s.accs g with | some f => s.mayGo f | none => true)
    if !ready then notEnabled "STREAM_START"
    else
      let put (s : State) (j : Job) : State :=
        let s := x.gates.foldl (fun s g => match tget s.accs g with | some f => s.endFence f | none => s) s
        { s with streams := lset s.streams i { x with job := some j, gates := [] } }
      let desc := x.desc.toNat
      match s.devRead x.die x.asid desc (0x20 + 16 * x.k) with
        | (.error k, s) =>
          let (cw, s) := s.descWord x 8
          let (cv, s) := s.descWord x 0x10
          .next (put s (x.begin cw cv { fault := some ⟨k, 8, desc⟩ } 0))
        | (.ok g, s1) =>
          let b := g.bytes
          let n := at' b 0 8
          let cw := BitVec.ofNat 64 (at' b 8 8)
          let cv := BitVec.ofNat 64 (at' b 0x10 8)
          let bad := desc % 32 ≠ 0 || streamBad x b ||
            badOverlap x.src.toNat x.dst.toNat (s1.streamSpan x.asid x.src.toNat n) (s1.streamSpan x.asid x.dst.toNat n)
          let (els, fl, wk, s2) := if bad then ([], 0, Work.badEntry, s1) else s1.streamEls x (streamOps b x.k) n
          let wk : Work := if bad then wk else { wk with out := s2.outOf els }
          match s.clear (dedup (g.lines ++ wk.lines)) (ownedBy wk.out) with
          | none => notEnabled "STREAM_START"
          | some (some s) => .next s
          | some none => .next (put ((s2.gotDone x.die g).workDone x.die (s.die x.die).clock wk) (x.begin cw cv wk fl))

/-- The end of a stream: its flags go to lane 0 unless its wave has ended (13 R254), CV goes to CW, with bit 63 set for an error, and a fault on CW leaves only its record (13 R256). -/
def State.streamEnd (s : State) (i : Nat) (x : StreamJob) (j : Job) : State :=
  let s : State := { s with streams := ldel s.streams i }
  let s := if j.status = 0 && !(s.liveOf (wkOf x.flagTid)).isEmpty then s.flagThread x.flagTid j.flags else s
  if j.cw = 0 then s
  else
    let v := j.seq.toNat % 2 ^ 63 + (if j.status = 0 then 0 else 2 ^ 63)
    let va := j.cw.toNat % 2 ^ 57
    if va % 8 ≠ 0 then s.queueFault x.die (x.record kMisaligned)
    else match s.devWrite .host x.die x.asid va (natBytes v 8) with
      | (some k, s) => s.queueFault x.die (x.record k)
      | (none, s) => s

/-- A stream whose lines are written ends, once nothing keeps it from its completion word.
Log 79 (DEDUCED, unsafe). -/
def State.streamTry (s : State) (i : Nat) (fault : Bool) (name : String) : Host.Outcome State Fault Refusal :=
  match s.streams[i]? with
  | none => notEnabled name
  | some x => match x.job with
    | none => notEnabled name
    | some j =>
      let done := j.out.isEmpty && vcCovers (s.vcOf x.die) j.vc
      if !(done && j.faulted.isSome = fault && !s.stoppedAll) then notEnabled name
      else match s.clear [] (if j.cw = 0 then [] else s.devLine x.asid (j.cw.toNat % 2 ^ 57)) with
        | none => notEnabled name
        | some (some s) => .next s
        | some none => .next ((match j.faulted with | some r => s.queueFault x.die r | none => s).streamEnd i x j)

/-- STREAM_COMPLETE (R256). -/
def execStreamComplete (i : Nat) (s : State) : Host.Outcome State Fault Refusal := s.streamTry i false "STREAM_COMPLETE"

/-- STREAM_FAULT (R256): a record names the descriptor, and CW gets the error status. Log 79 (DEDUCED, unsafe). -/
def execStreamFault (i : Nat) (s : State) : Host.Outcome State Fault Refusal := s.streamTry i true "STREAM_FAULT"

end Sys2Proof.Machine
end

