-- ==== Sys2Proof/Machine/Frame.lean ====
section
/-! DEFINITION. The context frame of a team: its state by its place in Table 20-5, and the bytes that the gleaner writes to
physical memory outside the ordering machine (20 R370, R372, R373). A reserved byte of a frame reads 0 (00 R3). -/

namespace Sys2Proof.Machine

/-! ### The words of a frame -/

/-- A bit as a number. -/
def b01 (b : Bool) : Nat := if b then 1 else 0

/-- Item `i` of width `w` bits in a word. -/
def wordItem (v : W64) (w i : Nat) : Nat := bits v.toNat (w * i + w - 1) (w * i)

/-- A word made of items of `w` bits. -/
def wordOfItems (w : Nat) (l : List Nat) : Nat := l.foldr (fun x a => x % 2 ^ w + 2 ^ w * a) 0

/-- A thread's state code. -/
def statCode (t : Thread) : Nat :=
  match t.stat with
  | .ready => if t.sup then 4 else 0
  | .inSheaf => if t.sup then 4 else 0
  | .rendezvous => 1
  | .waiting => 2
  | .parked => 3
  | .exited => 5

/-- A mask of the registers that satisfy `p`. -/
def regMask (t : Thread) (p : VReg → Bool) : Nat := t.regs.foldl (fun a e => if p e.2 then a + 2 ^ e.1 else a) 0

/-- Whether a register is live. -/
def VReg.isLive (r : VReg) : Bool := match r with | .live _ => true | _ => false

/-- A word of a replay record. -/
def keptWord (k : Kept) (i : Nat) : Nat :=
  match i with
  | 0 => k.pc.toNat
  | 1 => k.words.toNat
  | 2 => k.a.toNat
  | 3 => k.b.toNat
  | 4 => k.x.toNat
  | 5 => k.data.toNat
  | _ => 0

/-- A replay record with a word written. -/
def setKept (k : Kept) (i : Nat) (v : W64) : Kept :=
  match i with
  | 0 => { k with pc := v.setWidth 57 }
  | 1 => { k with words := v }
  | 2 => { k with a := v }
  | 3 => { k with b := v }
  | 4 => { k with x := v }
  | 5 => { k with data := v }
  | _ => k

/-- A word of a thread's state. -/
def threadWord (t : Thread) (o : Nat) : Nat :=
  match o with
  | 0 => t.pc.toNat
  | 1 => statCode t + 16 * b01 t.sup + 32 * b01 t.replay
  | 2 => t.fcr.toNat + 2 ^ 32 * t.hctr.toNat
  | 3 => t.hkey.toNat
  | 4 => bits t.p.toNat 6 0
  | 5 => regMask t VReg.isLive
  | 6 => regMask t (fun r => r == .freed)
  | 7 => t.poison.toNat
  | _ => match t.kept with | some k => keptWord k (o - 8) | none => 0

/-- The value a register's slot shows: `v` when the register holds nothing. -/
def slotValue (t : Thread) (n : Nat) (v : W32) : Nat :=
  match tget t.regs n with | some (.live x) => x.toNat | _ => v.toNat

/-- A word of a wave's state. -/
def waveWord (w : Wave) (o : Nat) : Nat :=
  if o < 0x200 then (tgetD w.s (o / 8) 0).toNat
  else if o = 0x200 then w.q.toNat
  else if o = 0x208 then w.gang.toNat
  else if o = 0x210 then w.mprog.toNat % 2 ^ 64
  else if o = 0x218 then w.mprog.toNat / 2 ^ 64
  else if o = 0x220 then b01 w.yieldBit + 2 * b01 w.haltBit
  else if 0x240 ≤ o && o < 0x270 then match w.frag with | some k => keptWord k ((o - 0x240) / 8) | none => 0
  else 0

/-- A team's identity and flags. -/
def State.teamWord (s : State) (t : Team) (o : Nat) : Nat :=
  let num := match t.num, tget s.launches t.launch with
    | some n, _ => n
    | none, some l => l.num
    | none, none => 0
  if o = 0 then num + t.die * 2 ^ 16 + t.idx * 2 ^ 24
  else if o = 8 then
    b01 t.valid + 2 * b01 t.det + 4 * b01 t.idem + 8 * b01 t.spilled + 16 * b01 t.tilesOut + t.spb * 2 ^ 8 +
      t.acc * 2 ^ 16 + t.waves * 2 ^ 24
  else 0

/-- A word of a saved sheaf. -/
def savedWord (x : SavedSheaf) (o : Nat) : Nat :=
  if o = 0 then x.pc.toNat
  else if o = 8 then x.tids.length
  else if 0x40 ≤ o then wordOfItems 16 (((x.tids.map idxOf).drop ((o - 0x40) / 2)).take 4)
  else 0

/-- A latch entry of a saved sheaf: `v` when its value has not come. -/
def savedLatch (x : SavedSheaf) (b l : Nat) (v : W64) : Nat :=
  match x.tids[l]?, (x.latch.getD b none) with
  | some t, some row => match tget row t with
    | some (.val y) => y.toNat
    | some (.pend _) => v.toNat
    | none => 0
  | _, _ => 0

/-- The word at a frame offset of a team; `v` stands for what has no value (20 R378, Table 20-5).
Log 101 (DEDUCED, unsafe). -/
def State.frameGet (s : State) (tk o : Nat) (v : W64) : Nat :=
  match tget s.teams tk with
  | none => 0
  | some t =>
    let th (i : Nat) : Option Thread := tget s.threads (1024 * tk + i)
    if o < 0x40 then s.teamWord t o
    else if o < 0x80 then (s.station tk ((o - 0x40) / 8)).toNat
    else if o = 0x80 then wordOfItems 8 ((upto 8).map (fun c => (t.rings.getD c {}).bound))
    else if 0x100 ≤ o && o < 0x140 then
      let a := (o - 0x100) / 4
      (s.rowPoisonOf tk a).toNat + 2 ^ 32 * (s.rowPoisonOf tk (a + 1)).toNat
    else if 0x800 ≤ o && o < 0x1000 then
      match t.saved[(o - 0x800) / 128]? with | some x => savedWord x ((o - 0x800) % 128) | none => 0
    else if 0x1000 ≤ o && o < 0x9000 then
      let k := o - 0x1000
      match t.saved[k / 2048]? with | some x => savedLatch x (k % 2048 / 256) (k % 256 / 8) v | none => 0
    else if 0x10000 ≤ o && o < 0x18000 then
      match tget s.waves (32 * tk + (o - 0x10000) / 1024) with | some w => waveWord w (o % 1024) | none => 0
    else if 0x20000 ≤ o && o < 0x40000 then
      match th ((o - 0x20000) / 128) with | some x => threadWord x (o % 128 / 8) | none => 0
    else if 0x80000 ≤ o && o < 0xC0000 then
      bytesNat ((((t.rings.getD ((o - 0x80000) / 65536) {}).image).drop (o % 65536)).take 8)
    else if 0xC0000 ≤ o && o < 0x100000 then
      match th ((o - 0xC0000) / 256) with
      | some x => slotValue x (o % 256 / 4) (lo32 v) + 2 ^ 32 * slotValue x (o % 256 / 4 + 1) (hi32 v)
      | none => 0
    else if 0x100000 ≤ o && o < 0x100000 + 0x4000 * t.acc then
      let k := (o - 0x100000) / 4
      (tgetD (s.accOfTeam tk) k 0).toNat + 2 ^ 32 * (tgetD (s.accOfTeam tk) (k + 1) 0).toNat
    else if 0x200000 ≤ o && o < 0x200000 + 0x4000 * t.spb then
      bytesNat ((upto 8).map (fun i => s.spByte tk (o - 0x200000 + i)))
    else 0

/-! ### The frame in memory -/

/-- `n` offsets from `o` on. -/
def span (o n : Nat) : List Nat := (upto n).map (fun i => o + i)

/-- The byte of a frame offset of a team. Log 101 (DEDUCED, unsafe). -/
def State.frameByte (s : State) (tk o : Nat) (v : W64) : W8 := BitVec.ofNat 8 (s.frameGet tk (o / 8 * 8) v / 2 ^ (8 * (o % 8)))

/-- The offsets of a team's identity and flags, and of the rows that are poisoned. -/
def frameHead : List Nat := span 0 16 ++ span 0x100 0x40

/-- The offsets of a thread's state and of its live registers (01 R19). -/
def Thread.frameOffsets (t : Thread) (i : Nat) : List Nat :=
  span (0x20000 + 128 * i) 128 ++ t.regs.flatMap (fun e => if e.2.isLive then span (0xC0000 + 256 * i + 4 * e.1) 4 else [])

/-- The offsets that a save writes: every field of Table 20-5 but banks and tiles, and of the registers only the live ones
(20 R372). Log 101 (DEDUCED, unsafe). -/
def State.frameOffsets (s : State) (tk : Nat) : List Nat :=
  match tget s.teams tk with
  | none => []
  | some t =>
    frameHead ++ span 0x40 0x48 ++ span 0x800 0x8800 ++
      (upto t.waves).flatMap (fun w => span (0x10000 + 1024 * w) 0x228 ++ span (0x10240 + 1024 * w) 0x30) ++
      (upto 4).flatMap (fun c => span (0x80000 + 0x10000 * c) (min 0x10000 (t.rings.getD c {}).image.length)) ++
      (s.threads.filter (fun e => tkOf e.1 = tk)).flatMap (fun e => e.2.frameOffsets (idxOf e.1))

/-- The offsets that a spill of banks and tiles writes (20 R373). -/
def Team.bankOffsets (t : Team) : List Nat := frameHead ++ span 0x100000 (0x4000 * t.acc) ++ span 0x200000 (0x4000 * t.spb)

/-- The physical address of a team's frame, if it holds one (20 R370). -/
def State.framePa (s : State) (tk : Nat) : Option Nat :=
  match tget s.teams tk with
  | none => none
  | some t => t.frame.map (fun f => (bits (tgetD (s.die t.die).vfs t.vf {}).ctxBase.toNat 63 22 + f) * 2 ^ 22)

/-- Whether a team's state is in its frame: it has run and is in no set. -/
def State.isOut (s : State) (tk : Nat) : Bool :=
  match tget s.teams tk with | some t => t.place = .waiting && t.started | none => false

/-- A die's view with bytes of physical memory changed at every time. -/
def Die.putBytes (d : Die) (c : List Host.Cell) : Die :=
  let content (x : Content) : Content := match x with
    | .cells l => .cells (l.filter (fun e => (cellGet c e.1).isNone))
    | .red a o ty v => .red a o ty v
  { d with view := memSetAll d.view c, log := d.log.map (fun e => { e with content := e.content.map content }) }

/-- Bytes written to physical memory outside the ordering machine (20 R370): every die sees them.
Log 101 (DEDUCED, unsafe). -/
def State.putBytes (s : State) (c : List Host.Cell) : State :=
  { s with mem := { s.mem with home := memSetAll s.mem.home c }, dies := tmapAll s.dies (fun _ d => d.putBytes c) }

/-- Bytes of a team's frame written; `v` stands for a value that has not come. Log 101 (DEDUCED, unsafe). -/
def State.writeFrame (s : State) (tk : Nat) (os : List Nat) (v : W64) : State :=
  match s.framePa tk with
  | none => s
  | some b => s.putBytes (os.map (fun o => (b + o, s.frameByte tk o v)))

/-- The frame address of the first of some teams whose frame is not in memory. -/
def State.badFrame (s : State) (ts : List Nat) : Option Nat := (ts.filterMap s.framePa).find? (fun a => !paOk a)

end Sys2Proof.Machine
end

