-- ==== Sys2Proof/Machine/EvSched.lean ====
section
/-! DEFINITION. The scheduler: placement of teams and near-memory blocks, swaps, the gleaner, draws of sheaves and the
current waves of deterministic launches (18 R343 to R350, 20 R370 to R377, 23 R399, R402). -/

namespace Sys2Proof.Machine

/-! ### Teams on a core -/

/-- A thread as a launch starts it: every register unwritten (18 R335, 01 R13, R17). Log 5 (DESIGN CHOICE, unsafe). -/
def newThread (l : Launch) (idx w lane clock : Nat) : Thread :=
  { pc := l.pc,
    lv := (upto 8).map (fun k => BitVec.ofNat 32 (l.lvOf k lane (l.logicalWave idx w))),
    ln := (upto 8).map (fun k => BitVec.ofNat 32 (if l.top < k then 1 else l.ln k)),
    q := { floor := clock } }

/-- A wave as a launch starts it: s0 to s15 hold the arguments (18 Table 18-1). Log 5 (DESIGN CHOICE, unsafe). -/
def newWave (l : Launch) (clock : Nat) : Wave :=
  { s := (upto 16).map (fun n => (n, l.arg n)), uq := { floor := clock } }

/-- A team that has never run, or starts afresh, begins from its launch record: its loads begin with the acquire of
07 R139. -/
def State.startTeam (s : State) (tk : Nat) : State :=
  match tget s.teams tk, s.launchOf tk with
  | some t, some l =>
    let clock := (s.die t.die).clock
    let ws := upto t.waves
    let s : State := { s with
      threads := s.threads.filter (fun e => tkOf e.1 ≠ tk) ++
        (upto (32 * t.waves)).map (fun i => (1024 * tk + i, newThread l t.idx (i / 32) (i % 32) clock))
      waves := s.waves.filter (fun e => tkOfW e.1 ≠ tk) ++ ws.map (fun w => (32 * tk + w, newWave l clock)) }
    s.modTeam tk (fun t => { t with
      started := true, idem := l.idem, stations := [], rings := [], saved := [], spilled := false, tilesOut := false, spData := [],
      spPoison := [], accData := [], rowPoison := [] })
  | _, _ => s

/-- Lines of poison that a spilled team's poisoned bank words leave in its frame; the other lines of its banks hold none (20
R382). -/
def State.spillPoison (s : State) (tk : Nat) : State :=
  match s.framePa tk, tget s.teams tk with
  | some b, some t =>
    let at0 := b + 0x200000
    let mine (l : Nat) : Bool := lineOf at0 ≤ l && l < lineOf at0 + 0x4000 * t.spb / lineBytes
    let bad := dedup (t.spPoison.map (fun w => lineOf (at0 + 8 * w)))
    s.modMem (fun m => { m with poison := m.poison.filter (fun l => !mine l) ++ bad.filter mine })
  | _, _ => s

/-- Banks and tiles that leave a core for the frame of the team that they belong to, which holds them from then on (20 R373,
R382). A frame outside memory keeps its old bytes. -/
def State.spillBanks (s : State) (c : Nat) : State :=
  match (s.core c).bankTeam with
  | none => s
  | some tk =>
    let co := s.core c
    let s := (s.modTeam tk (fun t => { t with
      spilled := 0 < t.spb, tilesOut := 0 < t.acc, spData := co.sp.filter (fun e => e.1 < 0x4000 * t.spb), spPoison := co.spPoison,
      accData := co.acc, rowPoison := co.rowPoison })).modCore c (fun co => { co with bankTeam := none })
    match (s.badFrame [tk]), tget s.teams tk with
    | none, some t => (s.writeFrame tk t.bankOffsets 0).spillPoison tk
    | _, _ => s

/-- Banks and tiles that come from a team's frame, if they went there. -/
def State.fillBanks (s : State) (c tk : Nat) : State :=
  match tget s.teams tk with
  | none => s
  | some t =>
    let s := s.modCore c (fun co => { co with bankTeam := some tk })
    let s := if t.spilled then s.modCore c (fun co => { co with sp := t.spData, spPoison := t.spPoison }) else s
    let s := if t.tilesOut then s.modCore c (fun co => { co with acc := t.accData, rowPoison := t.rowPoison }) else s
    s.modTeam tk (fun t => { t with spilled := false, tilesOut := false, spData := [], spPoison := [], accData := [], rowPoison := [] })

/-- Whether a team has banks or tiles. -/
def Team.banks (t : Team) : Bool := 0 < t.spb + t.acc

/-- A team's products and latch entries that follow it to another core. -/
def State.moveTeam (s : State) (tk c c' : Nat) : State :=
  if c = c' then s
  else
    let s := if (s.core c).bankTeam = some tk then s.spillBanks c else s
    let ps := ((s.core c).products).filter (fun p => p.team = tk)
    let gs := ((s.core c).gangs).filter (fun g => g.team = tk)
    let s := s.modCore c (fun co => { co with
      products := co.products.filter (fun p => p.team ≠ tk), gangs := co.gangs.filter (fun g => g.team ≠ tk) })
    s.modCore c' (fun co => { co with products := co.products ++ ps, gangs := co.gangs ++ gs })

/-- Ready threads of a team filed in the bins of its core. -/
def State.binTeam (s : State) (tk : Nat) : State :=
  ((s.teamLive tk).filter (fun t => (s.thread t).stat = .ready)).foldl State.binThread s

/-- The instruction cache of an executor: its cluster's, or its own for a sequencer (17 R309). -/
def fetchUnit (c : Nat) : Nat := if isSeq c then nCores / 4 + (c - nCores) else clusterOf c

/-- The key of a cached line of code, by cache, address space and line. -/
def codeKey (unit asid line : Nat) : Nat := (unit * 2 ^ 16 + asid) * 2 ^ 50 + line

/-- Code of an address space dropped from a cluster's cache: a team placed there fetches what its launch acquired (17 R309). -/
def State.dropCode (s : State) (c asid : Nat) : State :=
  { s with icache := s.icache.filter (fun e => e.1 / 2 ^ 50 ≠ fetchUnit c * 2 ^ 16 + asid) }

/-- A team brought into a set of a core with a frame (18 R345, 20 R370, R372). -/
def State.putTeam (s : State) (tk c frame : Nat) (pl : Place) : State :=
  match tget s.teams tk with
  | none => s
  | some t =>
    let s := ((s.modCore c id).dropCode c t.asid).moveTeam tk (t.core.getD c) c
    let s := s.modTeam tk (fun t => { t with core := some c, place := pl, frame := some frame })
    let s := if t.started then s else s.startTeam tk
    let s := if t.banks && (s.core c).bankTeam = none then s.fillBanks c tk else s
    if pl = .active then s.binTeam tk else s

/-! ### Placement -/

/-- Whether a set with one more team keeps the limits of 18 R344. -/
def State.setFits (s : State) (ts : List Nat) (tk : Nat) : Bool :=
  let l := (ts ++ [tk]).filterMap (fun k => tget s.teams k)
  let sum (f : Team → Nat) : Nat := (l.map f).foldl (· + ·) 0
  ((dedup (l.map (·.vf))).length ≤ 1 && l.length ≤ 16 && sum (fun t => 32 * t.waves) ≤ 1024 && sum (·.spb) ≤ 64 &&
    sum (·.acc) ≤ 16 && (l.filter Team.banks).length ≤ 1 : Bool)

/-- Whether the instances bound to cluster keep their teams together (18 R342): placed teams of an instance lie in one
cluster. -/
def State.clusterOk (s : State) (tk c : Nat) : Bool :=
  match tget s.teams tk, s.launchOf tk with
  | some t, some l =>
    (l.levels.filter (fun k => l.dom k = 2)).all (fun k =>
      ((s.instTeamsAll t.launch k (s.instOf k (32 * tk))).filter (· ≠ tk)).all (fun x =>
        match tget s.teams x with
        | some y => y.place = .waiting || y.place = .ended || y.core.map clusterOf = some (clusterOf c)
        | none => true))
  | _, _ => true

/-- Whether a near-memory launch owns a team. -/
def State.isNm (s : State) (tk : Nat) : Bool := match s.launchOf tk with | some l => l.nm | none => false

/-- Whether a team has something to do or a release to come (18 R345): none of its threads being ready, it is not
ready. -/
def State.teamReady (s : State) (tk : Nat) : Bool :=
  match tget s.teams tk with
  | some t => !t.started || (s.teamLive tk).any (fun x => (s.thread x).stat = .ready || (s.thread x).stat = .rendezvous)
  | none => false

/-- Whether a waiting team may join a set of a core. -/
def State.mayPlace (s : State) (tk c : Nat) (pl : Place) : Bool :=
  match tget s.teams tk with
  | none => false
  | some t =>
    (t.place = .waiting && !s.isNm tk && c < nCores && dieOfCore c = t.die && s.vfHasCore t.vf c && s.clusterOk tk c &&
      s.setFits (s.teamsAt c pl) tk && (pl ≠ .loft || s.teamReady tk) : Bool)

/-- Whether another waiting team comes first (18 R345). -/
def State.placeFirst (s : State) (tk c : Nat) (pl : Place) : Bool :=
  let w (k : Nat) : Nat := match tget s.teams k with | some t => t.waited | none => 0
  s.teams.any (fun e => e.1 ≠ tk && s.mayPlace e.1 c pl &&
    (s.effPrio tk < s.effPrio e.1 || (s.effPrio tk = s.effPrio e.1 && w tk < w e.1)))

/-- Frames of a function (20 Table 20-6 CTXN). Log 87 (DEDUCED, unsafe). -/
def State.frames (s : State) (v d : Nat) : Nat := bits (tgetD (s.die d).vfs v {}).tctl.toNat 47 32

/-- Whether a team may hold a frame: its own, or one that is free (20 R370). Log 87 (DEDUCED, unsafe). -/
def State.frameOk (s : State) (tk frame : Nat) : Bool :=
  match tget s.teams tk with
  | none => false
  | some t => match t.frame with
    | some f => f = frame
    | none =>
      (frame < s.frames t.vf t.die &&
        !s.teams.any (fun e => e.2.vf = t.vf && e.2.place ≠ .ended && e.2.frame = some frame) &&
        !s.dies.any (fun d => d.2.fqFrames.any (fun r => r.2.1 = t.vf && r.2.2 = frame && d.2.fqTail.toNat ≤ r.1) ||
          d.2.faults.any (fun r => !r.eng && r.vf = t.vf && r.frame = frame)) : Bool)

/-- Whether a team's die has applied what its launch acquires (07 R139). Log 87 (DEDUCED, unsafe). -/
def State.teamAcquired (s : State) (tk : Nat) : Bool :=
  match tget s.teams tk, s.launchOf tk with
  | some t, some l => t.started || vcCovers (s.vcOf t.die) l.rel
  | _, _ => false

/-- TEAM_PLACEMENT (R345, R342, R344, R370). -/
def execTeamPlacement (tk core frame : Nat) (s : State) : Host.Outcome State Fault Refusal :=
  if s.mayPlace tk core .active && !s.placeFirst tk core .active && s.frameOk tk frame && s.teamAcquired tk && !s.stoppedAll &&
      (s.core core).swapping = 0 then .next (s.putTeam tk core frame .active)
  else notEnabled "TEAM_PLACEMENT"

/-- Blocks of a near-memory launch that have not started never start (23 R402). -/
def State.stopBlocks (s : State) (k : Nat) : State :=
  let ts := (s.teamsOf k).filter (fun tk => match tget s.teams tk with | some t => t.place = .waiting | none => false)
  (ts.foldl State.endTeam s).modLaunch k (fun l => { l with stopped := true })

/-- The affinity address of block `i` (23 R402). -/
def Launch.affinity (l : Launch) (i : Nat) : Nat := bits (l.arg l.aff + BitVec.ofNat 64 i * l.arg (l.aff + 1)).toNat 56 0

/-- A near-memory launch that stops with a status (23 R402); REASON 7 is written at once. -/
def State.stopNm (s : State) (k status : Nat) (va : Option (Nat × Nat)) : State :=
  match tget s.launches k with
  | none => s
  | some l =>
    let s := s.stopBlocks k
    let s := match va with
      | some (kind, a) => s.queueFault l.die (l.fault kind a)
      | none => (s.devWrite .host l.die l.asid ((l.record.toNat + 0x78) % 2 ^ 57) (natBytes 7 8)).2
    s.modLaunch k (fun l => { l with status := status, reason := if status = 4 then 7 else l.reason })

/-- Whether a team is the lowest block of its launch that is not placed. -/
def State.nextBlock (s : State) (tk : Nat) : Bool :=
  match tget s.teams tk with
  | none => false
  | some t =>
    (t.place = .waiting && !(s.teamsOf t.launch).any (fun x => match tget s.teams x with
      | some y => y.place = .waiting && y.idx < t.idx
      | none => false) : Bool)

/-- NM_BLOCK_PLACEMENT (R402): `seqr` is the executor number of a free sequencer of the affinity address's stack. -/
def execNmBlockPlacement (tk seqr frame : Nat) (s : State) : Host.Outcome State Fault Refusal :=
  match tget s.teams tk, s.launchOf tk with
  | some t, some l =>
    if !(l.nm && !l.stopped && l.stage = .admitted && s.nextBlock tk && !s.stoppedAll && s.teamAcquired tk) then
      notEnabled "NM_BLOCK_PLACEMENT"
    else
      let va := l.affinity t.idx
      if !s.inPackage t.asid va then .next (s.stopNm t.launch 4 none)
      else match s.translate t.asid va false false with
        | (.error k, s) => .next (s.stopNm t.launch 1 (some (k, va)))
        | (.ok p, s) =>
          if isSeq seqr && stackOf seqr = bits p.pa 39 36 && (s.teamsAt seqr .active).isEmpty && s.frameOk tk frame then
            .next ((s.modTeam tk (fun t => { t with die := dieOfCore seqr })).putTeam tk seqr frame .active)
          else notEnabled "NM_BLOCK_PLACEMENT"
  | _, _ => notEnabled "NM_BLOCK_PLACEMENT"

/-- PRIORITY_AGING (R343). -/
def execPriorityAging (tk : Nat) (s : State) : Host.Outcome State Fault Refusal :=
  match tget s.teams tk with
  | none => notEnabled "PRIORITY_AGING"
  | some t =>
    if t.place = .waiting && 2 ^ 24 ≤ t.waited && !t.boosted then .next (s.modTeam tk (fun t => { t with boosted := true }))
    else notEnabled "PRIORITY_AGING"

/-! ### Swaps -/

/-- SCHCTL of a core's die. -/
def State.schCtl (s : State) (c : Nat) : Nat := (s.die (dieOfCore c)).schCtl.toNat

/-- TIME_SLICE_EXPIRY (R345): a slice of 0 is none. -/
def execTimeSliceExpiry (c : Nat) (s : State) : Host.Outcome State Fault Refusal :=
  let n := bits (s.schCtl c) 31 0
  let loft := s.teamsAt c .loft
  if n ≠ 0 && n ≤ (s.core c).activeCycles && !loft.isEmpty && s.topPrio (s.teamsAt c .active) ≤ s.topPrio loft then
    .next (s.modCore c (fun co => { co with swapDue := true }))
  else notEnabled "TIME_SLICE_EXPIRY"

/-- BLOCKED_TIMEOUT (R345). -/
def execBlockedTimeout (c : Nat) (s : State) : Host.Outcome State Fault Refusal :=
  if s.setBlocked c && bits (s.schCtl c) 63 32 ≤ (s.core c).blockedCycles && !(s.teamsAt c .loft).isEmpty then
    .next (s.modCore c (fun co => { co with swapDue := true }))
  else notEnabled "BLOCKED_TIMEOUT"

/-- LOFT_SWAP (R345, R371, R375): sheaves are saved whole, products finish their K-group step, and the incoming set may
issue 64 cycles later. -/
def execLoftSwap (c : Nat) (s : State) : Host.Outcome State Fault Refusal :=
  let out := s.teamsAt c .active
  let inn := s.teamsAt c .loft
  let halt := s.waves.any (fun e => out.contains (tkOfW e.1) && e.2.haltBit)
  if inn.isEmpty || halt || (s.core c).swapping ≠ 0 || !((s.core c).swapDue || s.topPrio out < s.topPrio inn) then
    notEnabled "LOFT_SWAP"
  else
    let s := (s.sheaves.filter (fun h => h.core = c)).foldl State.breakSheaf s
    let s := s.interruptWaves c (fun wk => out.contains (tkOfW wk))
    let s := s.modCore c (fun co => { co with
      bins := [], overflow := [], swapping := 64, swapDue := false, activeCycles := 0, blockedCycles := 0 })
    let s := out.foldl (fun s tk => s.modTeam tk (fun t => { t with place := .leaving })) s
    let s := inn.foldl (fun s tk => s.modTeam tk (fun t => { t with place := .active })) s
    .next (inn.foldl (fun s tk => s.binTeam tk) s)

/-- Whether an outgoing team may be discarded (20 R377). -/
def State.mayDiscard (s : State) (tk : Nat) : Bool :=
  match tget s.teams tk with
  | some t => t.idem && (s.teamLive tk).all (fun x => (s.thread x).stat ≠ .parked && !(s.thread x).sup)
  | none => false

/-- A team discarded: it starts afresh when it is placed again, and its accesses in flight are dropped (20 R377). -/
def State.discardTeam (s : State) (tk : Nat) : State :=
  let c := s.coreOf tk
  let (num, idx, die) := match tget s.teams tk, s.launchOf tk with
    | some t, some l => (l.num, t.idx, t.die)
    | _, _ => (0, 0, 0)
  let mine (e : BtEntry) : Bool := bits e.gid.toNat 15 0 = num && bitAt e.gid.toNat 27 && bits e.gid.toNat 63 28 = idx
  let s : State := { s with
    threads := s.threads.filter (fun e => tkOf e.1 ≠ tk)
    waves := s.waves.filter (fun e => tkOfW e.1 ≠ tk)
    waits := s.waits.filter (fun w => tkOfW w.wk ≠ tk)
    accs := s.accs.filter (fun e => e.2.team ≠ tk)
    ringLoads := s.ringLoads.filter (fun r => r.team ≠ tk)
    stationLoads := s.stationLoads.filter (fun r => r.team ≠ tk) }
  let s := s.modCore c (fun co => { co with
    products := co.products.filter (fun p => p.team ≠ tk), gangs := co.gangs.filter (fun g => g.team ≠ tk),
    bankTeam := if co.bankTeam = some tk then none else co.bankTeam })
  (s.modDie die (fun d => { d with bt := d.bt.filter (fun e => !mine e) })).modTeam tk (fun t => { t with started := false })

/-- GLEANER_SAVE (R372, R377): the state of the outgoing teams goes to their frames, and they return to waiting; a discarded
team writes nothing. Log 101 (DEDUCED, unsafe). -/
def execGleanerSave (c : Nat) (discard : List Nat) (s : State) : Host.Outcome State Fault Refusal :=
  let out := s.teamsAt c .leaving
  if out.isEmpty || (s.core c).swapping ≠ 0 || !discard.all (fun tk => out.contains tk && s.mayDiscard tk) then notEnabled "GLEANER_SAVE"
  else
    let kept := out.filter (fun tk => !discard.contains tk)
    match s.badFrame kept with
    | some a => .fault (.noSuchPA a)
    | none =>
      let (v, s) := (discard.foldl State.discardTeam s).takeFree
      let s := kept.foldl (fun s tk => s.writeFrame tk (s.frameOffsets tk) v) s
      .next (out.foldl (fun s tk => s.modTeam tk (fun t => { t with place := .waiting })) s)

/-- GLEANER_FILL (R372, R345): a sequencer has no loft. Log 101 (DEDUCED, unsafe). -/
def execGleanerFill (c tk frame : Nat) (s : State) : Host.Outcome State Fault Refusal :=
  if s.mayPlace tk c .loft && !s.placeFirst tk c .loft && s.frameOk tk frame && s.teamAcquired tk && !s.stoppedAll &&
      (s.teamsAt c .leaving).isEmpty then .next (s.putTeam tk c frame .loft)
  else notEnabled "GLEANER_FILL"

/-- BANK_SPILL_FILL (R373): the banks and tiles of the team that goes are spilled to its frame, and those of the set's team
filled; a `station` in progress of the team that goes completes first. Log 101 (DEDUCED, unsafe). -/
def execBankSpillFill (c : Nat) (s : State) : Host.Outcome State Fault Refusal :=
  match (s.teamsAt c .active).filter (fun tk => match tget s.teams tk with | some t => t.banks | none => false) with
  | [] => notEnabled "BANK_SPILL_FILL"
  | tk :: _ =>
    let old := (s.core c).bankTeam
    if old = some tk || s.stationLoads.any (fun x => some x.team = old) then notEnabled "BANK_SPILL_FILL"
    else match s.badFrame old.toList with
      | some a => .fault (.noSuchPA a)
      | none =>
        .next ((s.spillBanks c).fillBanks c tk)

/-! ### Draws -/

/-- What a draw may take: its class, the oldest filing, the bin number, the threads and a saved chain. -/
structure Cand where
  cls : Nat
  oldest : Nat
  bin : Nat
  team : Nat
  pc : Va
  tids : List Nat
  latch : List (Option (Tbl LatchVal))
  /-- Whether it is a saved sheaf. -/
  saved : Bool := false
  deriving DecidableEq, Repr

/-- Whether a ready thread may be drawn: its wave is not halted, or it may take one step; and in a DET launch its wave is
the current one and no `yield` of it awaits its switch point (18 R348, R350, 20 R378). -/
def State.drawable (s : State) (c tid : Nat) : Bool :=
  let tk := tkOf tid
  let w := s.wave (wkOf tid)
  (!w.haltBit || w.stepping.contains tid) &&
  (match tget s.teams tk with
    | some t => !t.det || (tget (s.core c).current t.launch = some (wkOf tid) && !w.yieldBit)
    | none => false)

/-- Oldest first, ties by logical wave and by lane (18 R348). -/
def State.olderThread (s : State) (x y : Nat) : Bool :=
  let k (t : Nat) : Nat × Nat × Nat × Nat := ((s.thread t).filedAt, s.logicalWave (wkOf t), laneOf t, 0)
  keyLt (k x) (k y)

/-- Insertion of a thread by age. -/
def State.insOld (s : State) (x : Nat) : List Nat → List Nat
  | [] => [x]
  | y :: r => if s.olderThread x y then x :: y :: r else y :: s.insOld x r

/-- The class of a candidate: 1 starved, 2 full, 3 aged, 0 none (18 R348). Log 45 (DEDUCED, unsafe). -/
def State.drawClass (s : State) (c : Nat) (tids : List Nat) (oldest : Nat) : Nat :=
  let age := (s.core c).age.toNat
  let now := (s.die (dieOfCore c)).cycles.toNat
  if 8 * age ≤ now - oldest then 1 else if 32 ≤ tids.length then 2 else if age ≤ now - oldest then 3 else 0

/-- A candidate of a bin. Log 45 (DEDUCED, unsafe). -/
def State.cand (s : State) (c : Nat) (bin : Nat × Nat × Va) (tids : List Nat) (latch : List (Option (Tbl LatchVal))) : Cand :=
  let oldest := (tids.map (fun t => (s.thread t).filedAt)).foldl min ((s.thread (tids.headD 0)).filedAt)
  { cls := s.drawClass c tids oldest, oldest := oldest, bin := bin.1, team := bin.2.1, pc := bin.2.2, tids := tids, latch := latch }

/-- The candidates of a bin: each saved sheaf whose threads are all ready, and the other threads (01 R23, 18 R348). -/
def State.binCands (s : State) (c : Nat) (bin : Nat × Nat × Va) : List Cand :=
  let now := (s.die (dieOfCore c)).cycles.toNat
  let ms := (s.binMembers c bin.2).filter (fun t => s.drawable c t && (s.thread t).filedAt < now)
  let saved : List SavedSheaf := match tget s.teams bin.2.1 with | some t => t.saved.filter (fun v => v.pc = bin.2.2) | none => ([] : List SavedSheaf)
  let whole := saved.filter (fun v => !v.tids.isEmpty && v.tids.all ms.contains)
  let rest := ms.filter (fun t => (s.thread t).sup || !saved.any (fun v => v.tids.contains t))
  whole.map (fun v => { s.cand c bin v.tids v.latch with saved := true }) ++ (if rest.isEmpty then [] else [s.cand c bin rest (List.replicate 8 none)])

/-- Whether a candidate goes before another. -/
def Cand.before (x y : Cand) : Bool := keyLt (x.cls, x.oldest, x.bin, 0) (y.cls, y.oldest, y.bin, 0)

/-- The candidate that goes first. -/
def firstCand : List Cand → Option Cand
  | [] => none
  | x :: r => match firstCand r with
    | some y => if y.before x then some y else some x
    | none => some x

/-- The threads of a sheaf: at most 32 of the oldest, of one privilege level and, in a DET launch, of one wave. -/
def State.sheafTids (s : State) (x : Cand) : List Nat :=
  if x.saved then x.tids
  else
    let l := x.tids.foldl (fun a t => s.insOld t a) []
    let sup := (s.thread (l.headD 0)).sup
    (l.filter (fun t => (s.thread t).sup = sup)).take 32

/-- One sheaf formed, if a bin is in a class. Log 45 (DEDUCED, unsafe). -/
def State.drawOne (s : State) (c : Nat) : Option State :=
  match firstCand (((s.core c).bins.flatMap (s.binCands c)).filter (fun x => x.cls ≠ 0)) with
  | none => none
  | some x =>
    let ts := s.sheafTids x
    let s := s.modThreads ts (fun _ t => { t with stat := .inSheaf })
    let s := s.modTeam x.team (fun t => { t with saved := t.saved.filter (fun v => !(v.pc = x.pc && v.tids = ts)) })
    let (n, s) := s.fresh
    let h : Sheaf := { core := c, team := x.team, pc := x.pc, tids := ts, latch := x.latch, inRun := x.saved, formed := n }
    some ({ s with sheaves := s.sheaves ++ [h] }.cleanBins c)

/-- Up to `n` sheaves formed while the core holds fewer than 16. -/
def State.draws (s : State) (c : Nat) : Nat → State
  | 0 => s
  | n + 1 =>
    if 16 ≤ (s.sheaves.filter (fun h => h.core = c)).length then s
    else match s.drawOne c with
      | none => s
      | some s => s.draws c n

/-- SHEAF_DRAW (R348): every 4 cycles; with no bin in a class nothing happens. -/
def execSheafDraw (c : Nat) (s : State) : Host.Outcome State Fault Refusal :=
  let now := (s.die (dieOfCore c)).cycles.toNat
  if (s.core c).swapping ≠ 0 || now % 4 ≠ 0 || now < (s.core c).drawAt || s.stoppedAll then notEnabled "SHEAF_DRAW"
  else if (s.drawOne c).isNone then .next s
  else .next ((s.draws c 4).modCore c (fun co => { co with drawAt := now + 4 }))

/-! ### Current waves -/

/-- The waves of a DET launch on a core, by logical index. Log 86 (DEDUCED, unsafe). -/
def State.detWaves (s : State) (c l : Nat) : List Nat :=
  let ts := (s.teamsAt c .active).filter (fun tk => match tget s.teams tk with | some t => t.launch = l && t.det | none => false)
  let ws := ts.flatMap (fun tk => match tget s.teams tk with | some t => (upto t.waves).map (· + 32 * tk) | none => [])
  (sortNat (ws.map (fun w => s.logicalWave w))).filterMap (fun i => ws.find? (fun w => s.logicalWave w = i))

/-- Whether a thread is stopped at a switch point (18 R350). Log 86 (DEDUCED, unsafe). -/
def State.switchStopped (s : State) (tid : Nat) : Bool :=
  let t := s.thread tid
  t.stat = .exited || t.stat = .parked || t.sup || s.detStalled tid ||
  (match s.waitOf tid with
    | some w => (match w.what with
      | .bar _ _ | .barw _ _ _ => w.arr ≠ 0
      | .aflush => true
      | .held _ => true
      | .wlquiet _ _ => true
      | .latch => true
      | _ => false)
    | none => false)

/-- Whether a wave is runnable: some thread of it is not waiting. Log 86 (DEDUCED, unsafe). -/
def State.runnable (s : State) (wk : Nat) : Bool :=
  (s.liveOf wk).any (fun t => ((s.thread t).stat = .ready || (s.thread t).stat = .inSheaf) && !s.detStalled t)

/-- DET_SWITCH_POINT (R350). Log 86 (DEDUCED, unsafe). -/
def execDetSwitchPoint (c l : Nat) (s : State) : Host.Outcome State Fault Refusal :=
  let ws := s.detWaves c l
  let point : Bool := match tget (s.core c).current l with
    | none => true
    | some w => !ws.contains w || (s.wave w).yieldBit || (s.threadsOf w).all s.switchStopped
  let run := ws.filter s.runnable
  if ws.isEmpty || !point || run.isEmpty then notEnabled "DET_SWITCH_POINT"
  else
    let s := if run.all (fun w => (s.wave w).yieldBit) then
        ws.foldl (fun s w => s.modWave w (fun x => { x with yieldBit := false })) s
      else s
    match run.find? (fun w => !(s.wave w).yieldBit) with
    | some w => .next (s.modCore c (fun co => { co with current := tset co.current l w }))
    | none => notEnabled "DET_SWITCH_POINT"

end Sys2Proof.Machine
end

