-- ==== Sys2Proof/Machine/Errors.lean ====
section
/-! DEFINITION. Management interrupts, the error log, and the rings of records in memory (20 R368, 26 R427 to R432). -/

namespace Sys2Proof.Machine

/-- Error and interrupt registers of a die, or of the hub as number 4. -/
def State.errOf (s : State) (d : Nat) : ErrRegs := if d = 4 then s.hub.err else (s.die d).err

/-- See `errOf`. -/
def State.modErr (s : State) (d : Nat) (f : ErrRegs → ErrRegs) : State :=
  if d = 4 then s.modHub (fun h => { h with err := f h.err }) else s.modDie d (fun x => { x with err := f x.err })

/-- An MGSTAT bit set: an enabled bit that was clear sends vector `d` (26 R432). Log 80 (DEDUCED, unsafe). -/
def State.mgEvent (s : State) (d bit : Nat) : State :=
  let e := s.errOf d
  if e.mgStat.getLsbD bit then s
  else
    let s := s.modErr d (fun e => { e with mgStat := e.mgStat ||| BitVec.ofNat 64 (2 ^ bit) })
    if e.mgEn.getLsbD bit then { s with out := s.out ++ [.msix d] } else s

/-- Bits of MGSTAT (26 Table 26-3). -/
def mgFQ : Nat := 0
def mgEL : Nat := 1
def mgWD : Nat := 2
def mgFATAL : Nat := 3
def mgPWR : Nat := 4

/-- MGSTAT.FQ held while records are unconsumed (20 R368). Log 80 (DEDUCED, unsafe). -/
def State.fqEvent (s : State) (d : Nat) : State :=
  let x := s.die d
  if x.fqHead ≠ x.fqTail && x.fqCtl.getLsbD 1 then s.mgEvent d mgFQ else s

/-- Bytes that the device writes to physical memory for a ring, a write of the frame's home.
Log 82 (DEDUCED, unsafe). -/
def State.physWrite (s : State) (pa : Nat) (b : List W8) : State :=
  let h := dieOfPa pa
  s.seqWrite h (s.vcOf h) (cellsAt pa b) none

/-- Error classes (26 Table 26-1). -/
def clsCE : Nat := 1
def clsUCNA : Nat := 2
def clsFATAL : Nat := 3

/-- Whether a CE joins a record: one source and one address within one second (26 R431). Log 82 (DEDUCED, unsafe). -/
def ErrRec.joins (r x : ErrRec) : Bool := x.cls = clsCE && r.cls = clsCE && x.src = r.src && x.addr = r.addr && r.time < x.time + 10 ^ 9

/-- A record's count raised. -/
def ErrRec.more (r : ErrRec) : ErrRec := { r with count := min (r.count + 1) (2 ^ 32 - 1) }

/-- An error record's bytes (26 Table 26-4). -/
def ErrRec.bytes (r : ErrRec) (n : Nat) : List W8 :=
  natBytes (r.cls + r.src * 2 ^ 8 + r.vf * 2 ^ 16 + n % 2 ^ 32 * 2 ^ 32) 8 ++ natBytes r.addr 8 ++ natBytes r.time 8 ++
  natBytes (r.count + r.detail % 2 ^ 32 * 2 ^ 32) 8

/-- The PA of a record of an error ring. -/
def ErrRegs.slot (e : ErrRegs) (n : Nat) : Nat := e.elBase.toNat + 32 * (n % e.elSize.toNat)

/-- Whether an error ring has no room, or cannot take records (26 R431). Log 81 (DESIGN CHOICE, safe). -/
def ErrRegs.full (e : ErrRegs) : Bool := e.elHead - e.elTail = e.elSize || !ringOkRegs e.elBase.toNat e.elSize.toNat

/-- An error in the log of a die or of the hub (26 R431): a CE joins an earlier one, or is dropped while there is no
room; of the others 64 wait. Log 81 (DESIGN CHOICE, safe). -/
def State.logErr (s : State) (d : Nat) (r : ErrRec) : State :=
  let e := s.errOf d
  match (e.waiting.any (ErrRec.joins r), e.recent.find? (fun x => r.joins x.2 && decide (e.elHead.toNat ≤ x.1 + e.elSize.toNat))) with
  | (true, _) => s.modErr d (fun e => { e with waiting := e.waiting.map (fun x => if r.joins x then x.more else x) })
  | (false, some (n, x)) =>
    let s := s.modErr d (fun e => { e with recent := e.recent.map (fun y => if y.1 = n then (n, x.more) else y) })
    s.physWrite (e.slot n) (x.more.bytes n)
  | (false, none) =>
    if e.full && r.cls = clsCE then s.modErr d (fun e => { e with elDrop := hi32 e.elDrop ++ (lo32 e.elDrop + 1) })
    else if e.full && 64 ≤ e.waiting.length then s.modErr d (fun e => { e with elDrop := (hi32 e.elDrop + 1) ++ lo32 e.elDrop })
    else s.modErr d (fun e => { e with waiting := e.waiting ++ [r] })

/-- A record made now. Log 81 (DESIGN CHOICE, safe). -/
def State.mkErr (s : State) (cls src vf addr detail : Nat) : ErrRec :=
  { cls := cls, src := src, vf := vf, addr := addr, time := s.hub.time.toNat, count := 1, detail := detail }

/-- A record whose DETAIL is a syndrome or a count that the manual does not give: a free value.
Log 81 (DESIGN CHOICE, safe). -/
def State.logFree (s : State) (d cls src vf addr : Nat) : State :=
  let (v, s) := s.takeFree
  s.logErr d (s.mkErr cls src vf addr (lo32 v).toNat)

/-- VF of a record that names no function. -/
def noVf : Nat := 0x3F

/-- A fault record's bytes (20 Table 20-3). -/
def FaultRec.bytes (r : FaultRec) (n : Nat) : List W8 :=
  let w (v : Nat) : List W8 := natBytes v 8
  w (r.kind % 2 ^ 8 + r.access % 16 * 2 ^ 8 + (if r.eng then 2 ^ 12 else 0) + r.asid % 2 ^ 16 * 2 ^ 16 + n % 2 ^ 32 * 2 ^ 32) ++
  w r.va.toNat ++ w (if r.eng then 0 else r.pc.toNat) ++
  w (r.frame % 2 ^ 16 + r.vf % 64 * 2 ^ 16 + r.wave % 32 * 2 ^ 22 + r.lanes.toNat * 2 ^ 32) ++
  w r.opa.toNat ++ w r.opb.toNat ++ w r.words.toNat ++ w r.opx.toNat

/-- Everything of the package stops (26 R430). Log 102 (DEDUCED, unsafe). -/
def State.goFatal (s : State) (d src addr detail : Nat) : State :=
  let r := s.mkErr clsFATAL src noVf addr detail
  let s := s.logErr d r
  let s := if d = 4 then s else s.logErr 4 r
  let s := s.modHub (fun h => { h with fatal := true })
  (({ s with out := s.out ++ [.internalError] } : State).mgEvent d mgFATAL)

end Sys2Proof.Machine
end

