-- ==== Sys2Proof/Machine/Fetch.lean ====
section
/-! DEFINITION. The fetch of an instruction through the instruction cache of a cluster, its faults and decode traps (05 R105,
R106, 06 R111, 17 R309, 20 R381, 23 R400). -/

namespace Sys2Proof.Machine

/-- Lines that an instruction cache of 64 KiB holds; it loses its oldest (17 R309). -/
def codeLines : Nat := 512

/-- A cache of code with a line put into it. -/
def putCode (m : Tbl (List W8)) (unit key : Nat) (b : List W8) : Tbl (List W8) :=
  let mine := m.filter (fun e => e.1 / 2 ^ 66 = unit && e.1 ≠ key)
  let m := if codeLines ≤ mine.length then (match mine with | x :: _ => tdel m x.1 | [] => m) else m
  tset m key b

/-- A line of code as the cache holds it, or as it is fetched by a relaxed load of the die, `back` ticks before the clock; `again` fetches
it anew (17 R309, 07 R120); a line of a page with host bias is not kept (25 R413). Code that changes may be fetched old or new.
Log 93 (DEDUCED, unsafe). -/
def State.fetchLine (s : State) (c asid va : Nat) (again : Bool) (back : Nat) : Except Nat (List W8) × State :=
  match s.translate asid va false true with
  | (.error k, s) => (.error k, s)
  | (.ok p, s) =>
    let key := codeKey (fetchUnit c) asid (va / lineBytes)
    match (if again then none else tget s.icache key) with
    | some b => (.ok b, s)
    | none =>
      let d := dieOfCore c
      let pa := (p.pa + (va - p.va)) / lineBytes * lineBytes
      let x := s.die d
      let t := min x.clock (max (max (x.clock - loadWindow) (x.invFloor asid va)) (x.clock - back))
      let b := (upto lineBytes).map (fun i => x.byte t (pa + i))
      let s := s.readDone d t [p] [(p.die, pa, lineBytes)] [lineOf pa] (clusterOf c)
      (.ok b, if s.hostBias (lineOf pa) then s else { s with icache := putCode s.icache (fetchUnit c) key b })

/-- The word at a VA. -/
def State.fetchWord (s : State) (c asid va : Nat) (again : Bool) (back : Nat) : Except Nat W32 × State :=
  match s.fetchLine c asid va again back with
  | (.error k, s) => (.error k, s)
  | (.ok b, s) => (.ok (wordOf (b.drop (va % lineBytes))), s)

/-- The words at a sheaf's PC, the second 0 where there is no modifier word; or a fault with its VA (05 R91, R105). -/
def State.fetchAt (s : State) (h : Sheaf) (again : Bool) (back : Nat) : Except (Nat × Nat) (W32 × W32) × State :=
  let asid := s.asidOf (h.tids.headD 0)
  match s.fetchWord h.core asid h.pc.toNat again back with
  | (.error k, s) => (.error (k, h.pc.toNat), s)
  | (.ok w, s) =>
    if !isModifier w then (.ok (w, 0), s)
    else
      let va := (h.pc.toNat + 4) % 2 ^ 57
      match s.fetchWord h.core asid va again back with
      | (.error k, s) => (.error (k, va), s)
      | (.ok w2, s) => (.ok (w, w2), s)

/-- A sheaf parked by a fetch fault, its chain kept (01 R23, 05 R105). Log 93 (DEDUCED, unsafe). -/
def State.fetchFault (s : State) (h : Sheaf) (kind va : Nat) : State :=
  let s := s.saveSheaf h
  let ts := h.active
  s.splitSheaf h ts (fun _ => h.pc) (fun s =>
    s.parkRecords ts kind 4 (s.asidOf (ts.headD 0)) va h.pc 0 0 0 0
      { kind := kind, set := .lane, grp := 0, trap := false, val := 0, rpc := h.pc, pc := h.pc, words := 0, access := 4 } none)

/-- Primary opcode numbers that a sequencer executes (23 Table 23-2). -/
def seqRuns (p : Nat) : Bool :=
  p < 0x060 || p = 0x060 || p = 0x064 || p = 0x065 || (0x080 ≤ p && p < 0x0E0 && p ≠ 0x082 && p ≠ 0x083) || p = 0x0FF ||
  (0x100 ≤ p && p < 0x160) || p = 0x185 || p = 0x1A0 || p = 0x1A1 || p = 0x1A2 || p = 0x1A7 || p = 0x1A8 || 0x1E0 ≤ p

/-- Whether an assigned opcode traps `ILLEGAL_OP` where it issues: outside a sequencer's subset, or a `stk` instruction without
the feature (23 R400, 25 Table 25-8). Log 22 (DEDUCED, unsafe). -/
def State.denied (s : State) (h : Sheaf) (w : W32) : Bool :=
  let p := primary w
  (isSeq h.core && !seqRuns p) || (0x0E0 ≤ p && p < 0x0FF && !s.feature (s.vfOf h.team) 3)

/-- The instruction of a sheaf's words, or the decode trap they raise (05 R105). -/
def State.decodeAt (s : State) (h : Sheaf) (w w2 : W32) : Except Nat Instr :=
  let x := if isModifier w then w2 else w
  match decode w w2 with
  | .illegal => .error tIllegalOp
  | .instr i => if s.denied h x then .error tIllegalOp else .ok i
  | .reserved => .error (if s.denied h x then tIllegalOp else tReservedField)

/-- The words of a record: the first word low, the suffix high. -/
def recWords (w w2 : W32) : W64 := pair64 w w2

/-- The `k`-th sheaf brought to the front. Log 93 (DEDUCED, unsafe). -/
def State.bring (s : State) (k : Nat) : State :=
  match s.sheaves[k]? with
  | some h => { s with sheaves := h :: s.sheaves.eraseIdx k }
  | none => s

/-- INSTRUCTION_FETCH (R309, R381): the lines at the `k`-th sheaf's PC are fetched anew, as of the named ticks before the clock. One parity error is corrected by the
refetch; a second at the same PC raises `INST_POISON`. Log 93 (DEDUCED, unsafe). -/
def execInstructionFetch (k : ReadAt) (bad : Nat) (s : State) : Host.Outcome State Fault Refusal :=
  match (s.bring k.n).sheaves, s.sheaves[k.n]? with
  | h :: _, some _ =>
    let d := dieOfCore h.core
    match (s.bring k.n).fetchAt h true k.back with
    | (.error (kind, va), s) => .next (s.fetchFault h kind va)
    | (.ok (w, w2), s) =>
      let n := if bad = 0 then 0 else h.refetch + bad
      if n < 2 then
        let s := if bad = 0 then s else s.logFree d clsCE 4 (s.vfOf h.team) h.core
        .next (s.setFront { h with refetch := n })
      else
        let s := s.logFree d clsUCNA 4 (s.vfOf h.team) h.core
        .next (s.trapFront { h with refetch := 0 } h.active tInstPoison h.pc (recWords w w2) 0)
  | _, _ => notEnabled "INSTRUCTION_FETCH"

end Sys2Proof.Machine
end

