-- ==== Sys2Proof/Machine/EvRas.lean ====
section
/-! DEFINITION. Records written to their rings, hardware errors, the scrub, the watchdog, silo evictions and throttling
(20 R368, R380 to R382, 23 R394, R403, 26 R427 to R432, R441). -/

namespace Sys2Proof.Machine

/-! ### Rings -/

/-- FAULT_RECORD_WRITE (R368, R370). Log 82 (DEDUCED, unsafe). -/
def execFaultRecordWrite (d : Nat) (s : State) : Host.Outcome State Fault Refusal :=
  let x := s.die d
  match x.faults with
  | [] => notEnabled "FAULT_RECORD_WRITE"
  | r :: rest =>
    if !x.fqCtl.getLsbD 0 || !ringOkRegs x.fqBase.toNat x.fqSize.toNat || x.fqFull then notEnabled "FAULT_RECORD_WRITE"
    else
      let n := x.fqHead.toNat
      let pa := x.fqBase.toNat + 64 * (n % x.fqSize.toNat)
      if !paOk pa then .fault (.noSuchPA pa)
      else
        let s := s.physWrite pa (r.bytes n)
        let s := s.modDie d (fun x =>
          { x with fqHead := x.fqHead + 1, faults := rest,
                   fqFrames := if r.eng then x.fqFrames else x.fqFrames ++ [(n, r.vf, r.frame)] }.overflow)
        .next (s.fqEvent d)

/-- ERROR_RECORD_WRITE (R431). Log 82 (DEDUCED, unsafe). -/
def execErrorRecordWrite (d : Nat) (s : State) : Host.Outcome State Fault Refusal :=
  let e := s.errOf d
  match e.waiting with
  | [] => notEnabled "ERROR_RECORD_WRITE"
  | r :: rest =>
    if e.full then notEnabled "ERROR_RECORD_WRITE"
    else
      let n := e.elHead.toNat
      let pa := e.slot n
      if !paOk pa then .fault (.noSuchPA pa)
      else
        let s := s.physWrite pa (r.bytes n)
        let old := e.recent.filter (fun x => decide (s.hub.time.toNat < x.2.time + 10 ^ 9))
        let s := s.modErr d (fun e => { e with
          elHead := e.elHead + 1, waiting := rest, recent := old ++ (if r.cls = clsCE then [(n, r)] else []) })
        .next (s.mgEvent d mgEL)

/-! ### Errors -/

/-- CORRECTED_ERROR (R427, Table 26-2): nothing but a record; a cached copy is dropped and fetched again. -/
def execCorrectedError (d src addr detail : Nat) (s : State) : Host.Outcome State Fault Refusal :=
  if 4 < d || s.hub.fatal || src < 1 || 11 < src then notEnabled "CORRECTED_ERROR"
  else
    let s := if src = 5 && d < 4 then s.modDie d (fun x => { x with copies := x.copies.filter (fun c => c.line ≠ lineOf addr) }) else s
    .next (s.logErr d (s.mkErr clsCE src noVf addr detail))

/-- A line poisoned and logged, unless it is poisoned already: one error is logged once (26 R428). -/
def State.poisonLine (s : State) (d src line detail : Nat) : State :=
  if s.mem.poison.contains line then s
  else
    let s := s.modMem (fun m => { m with poison := m.poison ++ [line] })
    s.logErr d (s.mkErr clsUCNA src noVf (line * lineBytes) detail)

/-- The function of the team whose banks a core holds. -/
def State.bankVf (s : State) (c : Nat) : Nat := match (s.core c).bankTeam with | some tk => s.vfOf tk | none => noVf

/-- UNCORRECTED_ERROR (R427, R380, R382, R428): a register, a bank word, an accumulator row or a line is poisoned.
Log 83 (DEDUCED, unsafe). -/
def execUncorrectedError (d src addr detail : Nat) (s : State) : Host.Outcome State Fault Refusal :=
  let c := addr % 1024
  let x := addr / 1024
  if nDies ≤ d || s.hub.fatal then notEnabled "UNCORRECTED_ERROR"
  else if src = 1 then
    let live : Bool := match tget (s.thread x).regs detail with | some (.live _) => true | _ => false
    if s.coreOf (tkOf x) = c && dieOfCore c = d && live then
      let s := s.modThread x (fun t => { t with poison := t.poison ||| BitVec.ofNat 64 (2 ^ detail) })
      .next (s.logErr d (s.mkErr clsUCNA src (s.vfOf (tkOf x)) c detail))
    else notEnabled "UNCORRECTED_ERROR"
  else if src = 2 && c < nCores && dieOfCore c = d && x < 0x20000 then
    let s := s.modCore c (fun co => { co with spPoison := dedup (co.spPoison ++ [x]) })
    .next (s.logErr d (s.mkErr clsUCNA src (s.bankVf c) (x / 2048) detail))
  else if src = 3 && c < nCores && dieOfCore c = d && x < 512 then
    let s := s.modCore c (fun co => { co with
      rowPoison := tset co.rowPoison (x / 32) (tgetD co.rowPoison (x / 32) 0 ||| BitVec.ofNat 32 (2 ^ (x % 32))) })
    .next (s.logErr d (s.mkErr clsUCNA src (s.bankVf c) (x / 32) detail))
  else if (src = 6 || src = 7 || src = 8) && paOk addr then .next (s.poisonLine d src (lineOf addr) detail)
  else notEnabled "UNCORRECTED_ERROR"

/-- FATAL_ERROR (R430): a die-to-die link that failed its retries, or the state of a home.
Log 83 (DEDUCED, unsafe). -/
def execFatalError (d src addr detail : Nat) (s : State) : Host.Outcome State Fault Refusal :=
  if d ≤ 4 && (src = 9 || src = 15) && !s.hub.fatal then .next (s.goFatal d src addr detail) else notEnabled "FATAL_ERROR"

/-- THERMAL_TRIP (R427, R430): the manual names no address for it, so the record's is a free value.
Log 83 (DEDUCED, unsafe). -/
def execThermalTrip (s : State) : Host.Outcome State Fault Refusal :=
  if s.hub.fatal then notEnabled "THERMAL_TRIP"
  else
    let (v, s) := s.takeFree
    .next (s.goFatal 4 16 (hi32 v).toNat (lo32 v).toNat)

/-- PATROL_SCRUB (R429): a scrub interval of 0 stops it. A correctable line keeps its value. -/
def execPatrolScrub (line bad : Nat) (s : State) : Host.Outcome State Fault Refusal :=
  let d := dieOfPa (line * lineBytes)
  if !paOk (line * lineBytes) || (lo32 (s.die d).err.scrubInt) = 0 || 2 < bad then notEnabled "PATROL_SCRUB"
  else if bad = 0 then .next s
  else if bad = 1 then .next (s.logFree d clsCE 8 noVf (line * lineBytes))
  else
    let (v, s) := s.takeFree
    .next (s.poisonLine d 8 line (lo32 v).toNat)

/-! ### Near memory -/

/-- What a watchdog reset leaves of a team's accesses: those sent perform, with their replies discarded (23 R403). -/
def State.cutAccs (s : State) (tk : Nat) : State :=
  let mine (a : Acc) : Bool := a.team = tk && (match a.owner with | .thread _ => true | .uni _ => true | _ => false)
  { s with accs := (s.accs.filter (fun e => !(mine e.2 && (e.2.unsent || e.2.kind = .fence)))).map (fun e =>
      if mine e.2 then (e.1, { e.2 with dst := none, latch := false }) else e) }

/-- SEQUENCER_WATCHDOG (R403): the reset of a sequencer, in its order. -/
def execSequencerWatchdog (e : Nat) (s : State) : Host.Outcome State Fault Refusal :=
  let d := dieOfCore e
  let st := stackOf e % 4
  let r := tgetD (s.die d).nm st {}
  match s.teamsAt e .active with
  | [tk] =>
    if !(isSeq e && r.nmCtl.getLsbD 0 && (lo32 r.nmWdt).toNat ≤ (s.core e).watch) then notEnabled "SEQUENCER_WATCHDOG"
    else
      let vf := s.vfOf tk
      let k := match tget s.teams tk with | some t => t.launch | none => 0
      let s : State := { s with sheaves := s.sheaves.filter (fun h => h.team ≠ tk) }
      let s := s.cutAccs tk
      let s := s.endTeam tk
      let s : State := { s with
        threads := tmapOn s.threads (s.teamThreads tk) (fun _ _ => { stat := .exited })
        waves := s.waves.map (fun w => if tkOfW w.1 = tk then (w.1, {}) else w) }
      let s := s.modTeam tk (fun t => { t with frame := none })
      let s := (s.stopBlocks k).modLaunch k (fun l => { l with status := 2 })
      let s := s.modCore e (fun co => { co with watch := 0, bins := [], overflow := [], products := [] })
      let r' : NmRegs :=
        { r with nmHung := r.nmHung ||| BitVec.ofNat 64 (2 ^ ((e - nCores) % seqPerStack)), nmRst := r.nmRst + 1 }
      let s := s.modDie d (fun x => { x with nm := tset x.nm st r' })
      let s := s.logFree d clsUCNA 12 vf (e - nCores)
      .next (s.mgEvent d mgWD)
  | _ => notEnabled "SEQUENCER_WATCHDOG"

/-- The reduce-state line of a stack whose most recent contribution is oldest. -/
def State.oldestLine (s : State) (st : Nat) : Option Nat :=
  let ls := s.reduceLines st
  let last (l : Nat) : Nat := (s.redOn [l]).foldl (fun m e => max m e.last) 0
  ls.foldl (fun b l => match b with | none => some l | some x => if last l < last x then some l else some x) none

/-- SILO_EVICTION (R394): a contribution needs a new line and the silo is full. -/
def execSiloEviction (st : Nat) (s : State) : Host.Outcome State Fault Refusal :=
  let need := s.dies.any (fun d => d.2.inbox.any (fun r => match tget s.accs r.gid with
    | some a => bits a.elem.pa 39 36 = st && s.siloFull a
    | none => false))
  match s.oldestLine st with
  | some l =>
    match need, s.redOn [l] with
    | true, e :: _ => .next (s.leaveReduce e.home [l])
    | _, _ => notEnabled "SILO_EVICTION"
  | none => notEnabled "SILO_EVICTION"

/-! ### Power -/

/-- POWER_THROTTLE (R441, R432, Table 26-9): an island's frequency lowered or raised; no value changes.
Log 84 (DEDUCED, unsafe). -/
def execPowerThrottle (island : Nat) (lower : Bool) (s : State) : Host.Outcome State Fault Refusal :=
  let d := dieOfIsland island
  if 1024 ≤ island || s.hub.throttled.contains island = lower then notEnabled "POWER_THROTTLE"
  else
    let (v, s) := s.takeFree
    let s := s.modHub (fun h => { h with pwrNow := v &&& 0xFFF })
    if !lower then .next (s.modHub (fun h => { h with throttled := h.throttled.filter (· ≠ island) }))
    else
      let ep := (s.die (if d = 4 then 0 else d)).cycles.toNat / 2 ^ 20 + 1
      let first := (s.errOf d).pwrEpoch ≠ ep
      let s := s.modHub (fun h => { h with
        throttled := h.throttled ++ [island]
        thrSeen := if h.thrSeen.contains island then h.thrSeen else h.thrSeen ++ [island]
        thrCnt := if h.thrSeen.contains island then h.thrCnt else h.thrCnt + 1 })
      let s := s.modErr d (fun e => { e with pwrEpoch := ep })
      .next (if first then s.mgEvent d mgPWR else s)

end Sys2Proof.Machine
end

