-- ==== Sys2Proof/Machine/EvCache.lean ====
section
/-! DEFINITION. Steps of the caches: leases, retention sleep, sectors; walks and page migration (17 R310 to R318, R323 to R330). -/

namespace Sys2Proof.Machine

/-! ### Leases and retention -/

/-- The copies that a lease gives a cache: the line of a VA, and the header line of its tile on a mapped page; each with its VA / 128 and
its line. None where the cache may hold no copy of the page (17 R308, Table 17-1, R315), or of a line (25 R413). -/
def State.leaseLines (s : State) (d unit asid va : Nat) : Option (Page × List (Nat × Nat)) :=
  match s.vaTarget asid va with
  | .ok (.pkg h) => match s.pageOf h asid va with
    | .error _ => none
    | .ok p =>
      let own := (va / lineBytes, lineOf (p.pa + (va - p.va)))
      let class' : Bool := if unit < coresPerDie then p.cc ≠ 2 else p.cc ≤ 1 && h ≠ d && unit = guestUnit (guestSlice va)
      if !class' || s.hostBias own.2 then none
      else if !p.map then some (p, [own])
      else
        let t := tileAt p va
        match s.pageOf h asid t.hdrVa with
        | .ok q =>
          let hdr := lineOf (q.pa + (t.hdrVa - q.va))
          if s.hostBias hdr then none else some (p, [own, (t.hdrVa / lineBytes, hdr)])
        | .error _ => none
  | _ => none

/-- The ways that a cache may give a copy of an address space (17 R308, R315). Log 104 (DEDUCED, safe). -/
def State.copyWays (s : State) (d unit asid : Nat) : List Nat :=
  if unit < coresPerDie then l1Ways
  else match s.ownerOfAsid asid with | some v => guestWays ((s.die d).gwmOf v).toNat | none => []

/-- A lease of a line: its new times, and its bytes, which home sends only when the wts of an old copy differs from the line's (17
R311). -/
def Die.lease (d : Die) (unit asid : Nat) (l : Nat × Nat) (lease : Nat) (ways : List Nat) : Die :=
  let wts := BitVec.ofNat 32 (tgetD d.wts l.2 0)
  let data := match d.copies.find? (fun c => c.unit = unit && c.asid = asid && c.va = l.1 && c.line = l.2) with
    | some c => if c.wts = wts then c.data else d.lineData l.2
    | none => d.lineData l.2
  (d.putCopy { unit := unit, asid := asid, va := l.1, line := l.2, wts := wts, rts := BitVec.ofNat 32 (d.clock + lease), data := data } ways).setRts
    [l.2] (d.clock + lease)

/-- LEASE_RENEWAL (R311): an absent copy, or one that does not serve, gets a lease of 16 to 4,096 ticks, a header line with its
payload's. -/
def execLeaseRenewal (d unit : Nat) (tag : Tag) (lease : Nat) (s : State) : Host.Outcome State Fault Refusal :=
  let asid := tag.asid
  let va := tag.va
  let x := s.die d
  let ways := s.copyWays d unit asid
  let ok := d < nDies && unit < coresPerDie + nSlices && 16 ≤ lease && lease ≤ 4096 && (tget x.asleep unit).isNone && !ways.isEmpty &&
    !x.copies.any (fun c => c.unit = unit && c.asid = asid && c.va = va / lineBytes && c.serves x.clock)
  match (if ok then s.leaseLines d unit asid va else none) with
  | none => notEnabled "LEASE_RENEWAL"
  | some (p, ls) =>
    let cl := if unit < coresPerDie then clusterOf (coresPerDie * d + unit) else noCluster
    let s := s.homeRequests p.die cl false (ls.map (·.2))
    .next (ls.foldl (fun s l => s.modDie d (fun x => x.lease unit asid l lease ways)) s)

/-- GENERATION_SWEEP (R310): an awake cache drops every copy whose lease lies two or more generations behind. -/
def execGenerationSweep (d unit : Nat) (s : State) : Host.Outcome State Fault Refusal :=
  if nDies ≤ d || nUnits ≤ unit || (tget (s.die d).asleep unit).isSome then notEnabled "GENERATION_SWEEP"
  else .next (s.modDie d (fun x => x.sweep (fun u => u = unit)))

/-- Whether some lines are owned by an engine, pinned by a product or to be materialised (17 R312, R316, R318). -/
def State.linesHeld (s : State) (p : Nat → Bool) : Bool :=
  s.engines.any (fun e => match e.2.job with | some j => j.owned.any p | none => false) ||
  s.streams.any (fun x => match x.job with | some j => j.owned.any p | none => false) ||
  s.launches.any (fun l => l.2.owned.any p) || s.execs.any (fun c => c.2.products.any (fun x => x.pins.any p)) ||
  s.accs.any (fun e => (match e.2.elem.tile with | some _ => e.2.stage = .numbered && e.2.lines.any p | none => false))

/-- RETENTION_SLEEP (R312). -/
def execRetentionSleep (d unit : Nat) (s : State) : Host.Outcome State Fault Refusal :=
  let held := s.linesHeld (fun l => homeUnit ((s.die d).sliceOf l) = unit)
  if nDies ≤ d || nUnits ≤ unit || (tget (s.die d).asleep unit).isSome || held then notEnabled "RETENTION_SLEEP"
  else .next (s.modDie d (fun x => { x with asleep := tset x.asleep unit (gensOf x.clock) }))

/-- RETENTION_WAKE (R312): the generations that passed are counted up to 255. Log 85 (DEDUCED, safe). -/
def execRetentionWake (d unit : Nat) (s : State) : Host.Outcome State Fault Refusal :=
  if (tget (s.die d).asleep unit).isNone then notEnabled "RETENTION_WAKE" else .next (s.wakeUnit d unit)

/-! ### Sectors -/

/-- SECTOR_MIGRATION (R316): 12 of a sector's last 16 accesses came from a cluster of its die; it goes to the same set of the slice that
the device designates nearest (a free constant of the part), and leaves a forwarding entry; in the slice of its hash it takes that entry's way.
Log 85 (DEDUCED, safe). -/
def execSectorMigration (d sector cluster : Nat) (s : State) : Host.Outcome State Fault Refusal :=
  let to' := (Config.nearSlice d cluster).val
  match tget (s.die d).sectors sector with
  | none => notEnabled "SECTOR_MIGRATION"
  | some x =>
    if !((s.die d).migCtl.getLsbD 1 && x.recent.length = 16 && 12 ≤ (x.recent.filter (· = cluster)).length && cluster / 24 = d &&
        x.slice ≠ to' && !s.linesHeld (fun l => l / 8 = sector)) then notEnabled "SECTOR_MIGRATION"
    else
      let s := s.wakeUnit d (homeUnit to')
      let s := if hashSlice (8 * sector) = to' then s else s.makeRoom d to' (homeSet (8 * sector)) (homeWays + nSlices)
      .next (s.modDie d (fun y => { y with sectors := tmap y.sectors sector (fun x => { x with slice := to' }) }))

/-- ORIENTATION_FLIP (R318): a flip is due since the fourth request in a row against the stored orientation; column requests come only
from pages with LAY = 1 (R317). Log 85 (DEDUCED, safe). -/
def execOrientationFlip (d sector : Nat) (s : State) : Host.Outcome State Fault Refusal :=
  match tget (s.die d).sectors sector with
  | none => notEnabled "ORIENTATION_FLIP"
  | some x =>
    if !x.flip || s.linesHeld (fun l => l / 8 = sector) then notEnabled "ORIENTATION_FLIP"
    else .next (s.modDie d (fun y => { y with sectors := tset y.sectors sector { x with cols := !x.cols, cnt := 0, flip := false } }))

/-! ### Walks and migration -/

/-- PAGE_WALK (R324): a walk that ends well leaves a translation; a failed one leaves none, and its fault is the access's. -/
def execPageWalk (asid va : Nat) (fetch write : Bool) (s : State) : Host.Outcome State Fault Refusal :=
  match s.vaTarget asid (va % 2 ^ 57) with
  | .ok (.pkg _) => .next (s.translate asid (va % 2 ^ 57) write fetch).2
  | _ => notEnabled "PAGE_WALK"

/-- Whether a page may migrate (17 R328). Log 88 (DEDUCED, unsafe). -/
def State.mayMigrate (s : State) (d asid : Nat) (p : Page) : Bool :=
  let x := s.die d
  x.migCtl.getLsbD 0 && p.bits ≤ 16 &&
  (match s.ownerOfAsid asid with | some v => x.migVf.getLsbD v | none => false) &&
  !s.hub.hdm.any (fun e => e.2.1 < dpaOf p.pa + 2 ^ p.bits && dpaOf p.pa < e.2.1 + e.2.2)

/-- MIGRATION_EPOCH (R328): at the end of an epoch the pages with more misses than THR become candidates, and the counts start
again. -/
def execMigrationEpoch (d : Nat) (s : State) : Host.Outcome State Fault Refusal :=
  let x := s.die d
  if nDies ≤ d || x.cycles.toNat % 2 ^ 20 ≠ 0 || x.cycles = 0 then notEnabled "MIGRATION_EPOCH"
  else
    let thr := bits x.migCtl.toNat 31 16
    let new := (x.mtlb.filter (fun t => thr < t.misses && s.mayMigrate d t.asid t.page)).map (fun t => (t.asid, t.page.va))
    .next (s.modDie d (fun x => { x with
      cands := x.cands ++ new.filter (fun c => !x.cands.contains c), mtlb := x.mtlb.map (fun t => { t with misses := 0 }) }))

/-- The frame ring of a stack and a size (17 R330), and changed. -/
def State.pool (s : State) (stack z : Nat) : Pool := tgetD (s.die (stack / 4)).pools (2 * (stack % 4) + z) {}
/-- See `pool`. -/
def State.setPool (s : State) (stack z : Nat) (p : Pool) : State :=
  s.modDie (stack / 4) (fun d => { d with pools := tset d.pools (2 * (stack % 4) + z) p })

/-- The PA of an entry of a frame ring. -/
def Pool.slot (p : Pool) (n : Nat) : Nat := p.base.toNat + 8 * (n % max 1 p.size.toNat)

/-- The first of the 8 entries from HEAD whose colour is `c`: its number. -/
def State.freeFrame (s : State) (p : Pool) (c : Nat) : Option Nat :=
  ((upto (min 8 (p.tail - p.head).toNat)).map (· + p.head.toNat)).find? (fun n =>
    colourOf (bits (memNat s.mem.home (p.slot n) 8) 51 12 * 4096) = c)

/-- Cells of one frame as those of another. -/
def moveCells (old new size : Nat) (c : List Host.Cell) : List Host.Cell :=
  (c.filter (fun e => old ≤ e.1 && e.1 < old + size)).map (fun e => (e.1 - old + new, e.2))

/-- The memory with the frame `new` a copy of the frame `old`. -/
def copyFrame (old new size : Nat) (m : List Host.Cell) : List Host.Cell :=
  memSetAll (m.filter (fun e => !(new ≤ e.1 && e.1 < new + size))) (moveCells old new size m)

/-- A die's view with the frame copied: the same values at every time (17 R329). -/
def Die.copyFrame (d : Die) (old new size : Nat) : Die :=
  let content (c : Content) : Content := match c with
    | .cells l => .cells (l.filter (fun e => !(new ≤ e.1 && e.1 < new + size)) ++ moveCells old new size l)
    | .red a b c d => .red a b c d
  let n := size / lineBytes
  { d with
    view := Machine.copyFrame old new size d.view
    log := d.log.map (fun e => { e with content := e.content.map content })
    rts := (upto n).foldl (fun r i => match tget r (lineOf old + i) with
      | some t => tset r (lineOf new + i) t
      | none => tdel r (lineOf new + i)) d.rts
    wts := (upto n).foldl (fun r i => match tget r (lineOf old + i) with
      | some t => tset r (lineOf new + i) t
      | none => tdel r (lineOf new + i)) d.wts
    sectors := d.sectors.filter (fun e => !(old / 1024 ≤ e.1 && e.1 < (old + size) / 1024) && !(new / 1024 ≤ e.1 && e.1 < (new + size) / 1024))
    copies := d.copies.filter (fun c => !(lineOf old ≤ c.line && c.line < lineOf old + n)) }

/-- A stream's times of the lines of a frame, as those of the new frame. -/
def Stream.copyFrame (q : Stream) (old new size : Nat) : Stream :=
  let n := size / lineBytes
  let mine := q.lines.filter (fun e => e.1 % 8 < 4 && lineOf old ≤ e.1 / 8 && e.1 / 8 < lineOf old + n)
  { q with lines := mine.foldl (fun r e => tset r (e.1 + 8 * lineOf new - 8 * lineOf old) e.2) q.lines }

/-- A write of a page-table entry at its home. -/
def State.writePte (s : State) (d pa v : Nat) : State := s.seqWrite d (s.vcOf d) (cellsAt pa (natBytes v 8)) none

/-- Steps 2 to 5 of 17 Table 17-6 for a page whose lines nothing uses. Log 88 (DEDUCED, unsafe). -/
def State.moveFrame (s : State) (d asid : Nat) (p : Page) (new z : Nat) : State :=
  let size := 2 ^ p.bits
  let old := p.pa
  let s := s.modMem (fun m => { m with
    home := copyFrame old new size m.home
    backing := if p.cc = 1 then memSetAll (m.backing.filter (fun e => !(new ≤ e.1 && e.1 < new + size))) (moveCells old new size m.home) else m.backing
    poison := m.poison.filter (fun l => !(linesOf new size).contains l) ++
      (m.poison.filter (fun l => (linesOf old size).contains l)).map (fun l => l - lineOf old + lineOf new) })
  let s := (upto nDies).foldl (fun s x => s.modDie x (fun y => y.copyFrame old new size)) s
  let s := s.modStreams (fun q => q.copyFrame old new size)
  let pte := memNat s.mem.home p.pte 8
  let s := s.writePte d p.pte (pte - bits pte 51 12 * 4096 + new)
  let s := s.modDie d (fun x => { x with
    mtlb := x.mtlb.map (fun t =>
      if t.asid = asid && t.page.va = p.va then { asid := t.asid, page := { t.page with pa := new } } else t) })
  let st := bits old 39 36
  let q := s.pool st z
  (s.physWrite (q.slot q.tail.toNat) (natBytes old 8)).setPool st z { q with tail := q.tail + 1 }

/-- PAGE_MIGRATION (R329): one that finds no frame, or no room for the old one, is abandoned; reduce-state lines are merged
first. Log 88 (DEDUCED, unsafe). -/
def execPageMigration (d asid va stack : Nat) (s : State) : Host.Outcome State Fault Refusal :=
  match s.mtlbFind d asid va with
  | none => notEnabled "PAGE_MIGRATION"
  | some p =>
    let z := if p.bits = 12 then 0 else 1
    let size := 2 ^ p.bits
    let ls := linesOf p.pa size
    let mine (l : Nat) : Bool := lineOf p.pa ≤ l && l < lineOf p.pa + size / lineBytes
    let busy := s.linesHeld mine || s.accs.any (fun e => e.2.lines.any mine) || s.dies.any (fun x => x.2.aq.any (fun w => w.lines.any mine)) ||
      s.mem.restores.any (fun r => mine r.1) || s.ringLoads.any (fun r => r.pa.any (fun a => mine (lineOf a)))
    if !(s.mayMigrate d asid p && (s.die d).cands.contains (asid, p.va) && stack < 16 && !s.stoppedAll) then notEnabled "PAGE_MIGRATION"
    else
      let t := s.pool stack z
      let o := s.pool (bits p.pa 39 36) z
      let drop (s : State) : State := s.modDie d (fun x => { x with cands := x.cands.filter (· ≠ (asid, p.va)) })
      match s.freeFrame t (colourOf p.pa) with
      | none => .next (drop s)
      | some n =>
        if o.size ≤ o.tail - o.head then .next (drop s)
        else if busy || !(upto nDies).all s.queuesOpen then notEnabled "PAGE_MIGRATION"
        else if !paOk (t.slot n) || !paOk (o.slot o.tail.toNat) then .fault (.noSuchPA (t.slot n))
        else if !(s.redOn ls).isEmpty then .next (s.leaveReduce d ls)
        else
          let frame := bits (memNat s.mem.home (t.slot n) 8) 51 12 * 4096
          let first := memNat s.mem.home (t.slot t.head.toNat) 8
          let s := (s.physWrite (t.slot n) (natBytes first 8)).physWrite (t.slot t.head.toNat) (natBytes frame 8)
          let s := s.setPool stack z { t with head := t.head + 1 }
          .next (drop (s.moveFrame d asid p frame z))

end Sys2Proof.Machine
end

