-- ==== Sys2Proof/Machine/EvHost.lean ====
section
/-! DEFINITION. The host: accesses to device memory, bias flips, the answers to accesses to its window, and its DOE mailbox
(25 R408 to R416, 26 R440). -/

namespace Sys2Proof.Machine

/-! ### Accesses that fail or end far away -/

/-- The ACCESS code of an access of a lane (20 Table 20-3). -/
def Acc.accessCode (a : Acc) : Nat :=
  match a.kind with
  | .load => 0
  | .atomic => 2
  | .red => 3
  | _ => 1

/-- A job whose write failed: the writes that are left are given up and a record is due (15 R297). -/
def Job.fail (j : Job) (r : FaultRec) : Job := { j with out := [], owned := [], status := 1, faulted := some r }

/-- An access that another package refused, or that the host answered with an error (25 R416, R419): its lane or fragment
parks, the engine's entry or stream stops with its record. A lane that is parked already sends its access again when it goes
on. Log 92 (DEDUCED, unsafe). -/
def State.farFaultAt (s : State) (a : Acc) (f : AccFault) : State :=
  let kind := f.kind
  let stuck (ts : List Nat) : Bool := ts.any (fun t => (s.thread t).stat = .parked)
  let again (s : State) : State := s.modAcc a.gid (fun b => { b with stage := .issued })
  if a.block then s.endBlock a 0 kind [] false
  else match a.owner with
  | .thread tid =>
    if s.exited tid || !s.threads.any (fun t => t.1 = tid) then s.finishAcc a 0
    else if stuck [tid] then again s
    else (s.finishAcc a 0).parkLateAs kind a [tid] .lane f.access f.va a.kept
  | .uni wk =>
    let ts := s.lateTids a
    if ts.isEmpty || (a.op = 5 && stuck ts) then s.finishAcc a 0
    else if a.op = 5 then (s.finishAcc a 0).parkLateAs kind a ts .wave accMx f.va a.kept
    else if stuck ts then again s
    else
      let s := (s.finishAcc a 0).modWave wk (fun w => { w with frag := some a.kept })
      s.parkLateAs kind a ts .fragment (if f.access = 9 then 9 else 5) f.va a.kept
  | .engine e =>
    let s := s.finishAcc a 0
    if e < 128 then match (s.engine e).job with
      | some j =>
        if j.out.isEmpty then s.queueFault a.die (entryRec kind a.asid a.va.toNat j.vf)
        else s.modEngine e (fun x => { x with job := some (j.fail (faultRecOf f j.asid j.entry.toNat j.vf)) })
      | none => s.queueFault a.die (entryRec kind a.asid a.va.toNat ((s.ownerOfAsid a.asid).getD 0))
    else { s with streams := s.streams.map (fun x =>
        if 128 + x.sid = e then { x with job := x.job.map (fun j => j.fail (x.record kind)) } else x) }
  | .host => (s.finishAcc a 0).queueFault a.die (entryRec kind a.asid a.va.toNat ((s.ownerOfAsid a.asid).getD 0))
  | .remote _ _ _ => s.finishAcc a 0

/-- An access that failed at its own VA. Log 92 (DEDUCED, unsafe). -/
def State.farFault (s : State) (a : Acc) (kind : Nat) : State := s.farFaultAt a ⟨kind, a.accessCode, a.va.toNat⟩

/-- The end of an access that has been answered, with the bytes that `rd` gives from its VA on.
Log 92 (DEDUCED, unsafe). -/
def State.farEnd (s : State) (a : Acc) (rd : Nat → W8) (bad : Bool) : State :=
  let t := (s.die a.die).clock
  if a.block then
    s.endBlock a t 0 ((upto (a.elem.width / 8)).map (fun i => (a.va.toNat + i, rd (a.va.toNat + i)))) bad
  else match a.kind with
  | .load => match a.loadValue rd [] with
    | some (r, _) => (((s.flagAcc a r.2).result a r.1 bad)).finishAcc a t
    | none => s.finishAcc a t
  | .atomic =>
    let o := readNat rd a.elem.pa (a.elem.width / 8)
    let s := s.flagAcc a (if a.target = .host then (atomNew a o).2.2 else 0)
    ((s.result a o bad).endAll a t).endWaits (fun w => w.what = .held a.gid)
  | _ => s.endAll a t

/-! ### Device memory -/

/-- Whether the function of a decoder owns the granule of a DPA (25 R410, R422). Log 7 (PRESUMED, unsafe). -/
def State.hostMay (s : State) (n dpa : Nat) : Bool :=
  let g := tgetD s.hub.got (dpa / 2 ^ 30) 0
  g.getLsbD 7 && bits g.toNat 5 0 = bits (tgetD s.hub.hdmVf n 0).toNat 5 0

/-- Whether decoder `n` maps a DPA of a half-line. Log 7 (PRESUMED, unsafe). -/
def State.hostDecodes (s : State) (n dpa : Nat) : Bool :=
  match tget s.hub.hdm n with
  | some (a, l) => a ≤ dpa && dpa < a + l && paOk (paOfDpa dpa)
  | none => false

/-- The page of a PA that a flip covers. -/
def State.flipping (s : State) (page : Nat) : Bool := match s.hub.flip with | some f => f.pages.contains page | none => false

/-- The start of a flip to host bias that a host request causes (25 R415). -/
def State.autoFlip (s : State) (page : Nat) : State :=
  s.modHub (fun h => { h with
    flip := some { toDevice := false, pages := [page], auto := true, gid := s.next }, biasAuto := h.biasAuto + 1 })

/-- The record of a host access outside its function's granules (25 R410). -/
def State.logHost (s : State) (pa : Nat) (v : Nat) : State := s.logFree (dieOfPa pa) clsUCNA 14 v pa

/-- A host read of a half-line: all ones with poison where the function does not own it; in a device-bias page the flip first;
else its bytes as stored, read at the home die's clock (25 R410, R411, Table 25-2). -/
def State.hostRead (s : State) (n dpa : Nat) (st : Half) (name : String) : Host.Outcome State Fault Refusal :=
  let pa := paOfDpa (dpa / 64 * 64)
  let page := pa / 4096
  if !(s.hostDecodes n dpa && s.hub.linkUp && !s.flipping page && (tget s.hub.snoops (pa / 64)).isNone) then notEnabled name
  else if !s.hostMay n dpa then
    let s : State := { s with out := s.out ++ [.hostData (dpa / 64 * 64) (List.replicate 64 0xFF) true] }
    .next (s.logHost pa (bits (tgetD s.hub.hdmVf n 0).toNat 5 0))
  else if s.hub.devBias.contains page then
    if s.hub.flip.isSome then notEnabled name else .next (s.autoFlip page)
  else if s.owned [lineOf pa] then notEnabled name
  else
    let d := dieOfPa pa
    let b := (upto 64).map (fun i => s.viewByte d (pa + i))
    let s := s.readDone d (s.die d).clock [] [(d, pa, 64)] [lineOf pa]
    let s := s.modHub (fun h => { h with halves := tset h.halves (pa / 64) st })
    .next { s with out := s.out ++ [.hostData (dpa / 64 * 64) b (s.poisoned [lineOf pa])] }

/-- HOST_READ_SHARED (R414). Log 90 (DEDUCED, unsafe). -/
def execHostReadShared (n dpa : Nat) (s : State) : Host.Outcome State Fault Refusal := s.hostRead n dpa .s "HOST_READ_SHARED"

/-- HOST_READ_OWN (R414). Log 90 (DEDUCED, unsafe). -/
def execHostReadOwn (n dpa : Nat) (s : State) : Host.Outcome State Fault Refusal := s.hostRead n dpa .m "HOST_READ_OWN"

/-- The materialisation of some tiles for a write of the host; else the record of the first whose header is unmapped or
invalid (11 R218). Log 19 (DEDUCED, unsafe). Log 89 (DEDUCED, unsafe). -/
def State.hostForce (s : State) (d : Nat) : List TileRef → Except FaultRec State
  | [] => .ok s
  | t :: r => match s.withHeader t true with
    | (.error (k, h), _) => .error (engRec k 9 t.page.asid h)
    | (.ok t, s) => match s.forceMat d (s.vcOf d) t with
      | none => .error (engRec kHeaderInvalid 9 t.page.asid t.hdrVa)
      | some s => s.hostForce d r

/-- Bytes written at home for the host, after the materialisation that they force (25 R411, 11 Table 11-2). A tile whose header
is invalid drops them with its record (11 R218). -/
def State.hostStore (s : State) (pa : Nat) (b : List W8) : State :=
  let d := dieOfPa pa
  match s.hostForce d (s.tilesOn d pa b.length) with
  | .ok s => s.seqWrite d (s.vcOf d) (cellsAt pa b) none
  | .error r => s.queueFault d r

/-- The lines of a host write: its own, and those of the tiles that it materialises (11 R217). -/
def State.hostLines (s : State) (pa n : Nat) : List Nat :=
  let d := dieOfPa pa
  dedup (linesOf pa n ++ (s.tilesOn d pa n).flatMap (fun t => match s.withHeader t true with | (.ok t, _) => tileLines t | _ => []))

/-- HOST_WRITE (R411): it waits for engine ownership and product pins, and forces a merge. -/
def execHostWrite (n dpa : Nat) (bytes : List W8) (s : State) : Host.Outcome State Fault Refusal :=
  let pa := paOfDpa dpa
  let page := pa / 4096
  let ok := s.hostDecodes n dpa && s.hub.linkUp && !s.flipping page && (tget s.hub.snoops (pa / 64)).isNone && !bytes.isEmpty &&
    dpa % 64 + bytes.length ≤ 64
  if !ok then notEnabled "HOST_WRITE"
  else if !s.hostMay n dpa then .next (s.logHost pa (bits (tgetD s.hub.hdmVf n 0).toNat 5 0))
  else if s.hub.devBias.contains page then
    if s.hub.flip.isSome then notEnabled "HOST_WRITE" else .next (s.autoFlip page)
  else if s.owned (s.hostLines pa bytes.length) || s.pinned (s.hostLines pa bytes.length) || !s.queuesOpen (dieOfPa pa) then notEnabled "HOST_WRITE"
  else
    let s := s.modHub (fun h => { h with halves := tdel h.halves (pa / 64) })
    .next (s.hostStore pa bytes)

/-- BISNP_RESPONSE (R414): data of a half that the host held modified is written at home, other
data is dropped (R424). -/
def execBisnpResponse (dpa : Nat) (data : Option (List W8)) (s : State) : Host.Outcome State Fault Refusal :=
  let pa := paOfDpa (dpa / 64 * 64)
  let h := pa / 64
  match tget s.hub.snoops h, s.hub.linkUp with
  | some inv, true =>
    let held : Bool := match tget s.hub.halves h with | some .m => true | _ => false
    let done (s : State) : State := s.modHub (fun b => { b with
      snoops := tdel b.snoops h, halves := if inv then tdel b.halves h else tset b.halves h .s })
    match data with
    | none => .next (done s)
    | some b =>
      if b.length ≠ 64 then notEnabled "BISNP_RESPONSE"
      else if !held then .next (done s)
      else if s.queuesOpen (dieOfPa pa) && !s.owned (s.hostLines pa 64) && !s.pinned (s.hostLines pa 64) then .next (done (s.hostStore pa b))
      else notEnabled "BISNP_RESPONSE"
  | _, _ => notEnabled "BISNP_RESPONSE"

/-! ### Bias -/

/-- A flip asked for through BIASCMD (25 R415, Table 25-6): a range outside HDM sets ERR. Log 90 (DEDUCED, unsafe). -/
def State.startFlip (s : State) (toDevice : Bool) : State :=
  let a := s.hub.biasArg0.toNat
  let n := s.hub.biasArg1.toNat
  let pages := (upto n).map (fun i => paOfDpa (a + 4096 * i) / 4096)
  let inHdm := s.hub.hdm.any (fun e => e.2.1 ≤ a && a + 4096 * n ≤ e.2.1 + e.2.2)
  let s := s.modHub (fun h => { h with biasCmd := if toDevice then 1 else 0 })
  if a % 4096 ≠ 0 || !inHdm then s.modHub (fun h => { h with biasErr := true })
  else s.modHub (fun h => { h with biasErr := false, flip := some { toDevice := toDevice, pages := pages, auto := false, gid := s.next } })

/-- BIAS_TO_HOST (R415): a write of BIASCMD; while a flip is in progress it is ignored. Log 90 (DEDUCED, unsafe). -/
def execBiasToHost (s : State) : Host.Outcome State Fault Refusal :=
  if s.hub.flip.isSome then .next s else .next (s.startFlip false)

/-- BIAS_TO_DEVICE (R415): a write of BIASCMD; while a flip is in progress it is ignored. -/
def execBiasToDevice (s : State) : Host.Outcome State Fault Refusal :=
  if s.hub.flip.isSome then .next s else .next (s.startFlip true)

/-- Whether a flip to host bias has drained its pages: what entered a store buffer is applied at home, and lines are released
(25 R415 step 2). Log 90 (DEDUCED, unsafe). -/
def State.flipDrained (s : State) (f : Flip) : Bool :=
  let mine (l : Nat) : Bool := f.pages.contains (l / 32)
  !s.accs.any (fun e => let a := e.2
    a.gid < f.gid && a.lines.any mine && (match a.target with | .pkg _ => true | _ => false) && !a.held && !a.homed &&
    (a.kind = .store || a.kind = .red || a.kind = .edit || (a.kind = .atomic && a.weak))) &&
  !s.dies.any (fun d => d.2.aq.any (fun w => w.home = d.1 && w.lines.any mine)) && !s.linesHeld mine

/-- The half-lines of a flip's pages that the host holds. -/
def State.flipHalves (s : State) (f : Flip) : List Nat := (s.hub.halves.filter (fun e => f.pages.contains (e.1 / 64))).map (·.1)

/-- BIAS_FLIP_COMPLETE (R415): to device bias the host's halves are invalidated first. -/
def execBiasFlipComplete (s : State) : Host.Outcome State Fault Refusal :=
  match s.hub.flip with
  | none => notEnabled "BIAS_FLIP_COMPLETE"
  | some f =>
    let hs := s.flipHalves f
    if f.toDevice then
      if hs.isEmpty && !s.hub.snoops.any (fun e => f.pages.contains (e.1 / 64)) then
        .next (s.modHub (fun h => { h with flip := none, devBias := dedup (h.devBias ++ f.pages) }))
      else if hs.all (fun h => (tget s.hub.snoops h).isSome) then notEnabled "BIAS_FLIP_COMPLETE"
      else .next (s.snoop hs true)
    else if !s.flipDrained f then notEnabled "BIAS_FLIP_COMPLETE"
    else
      let s : State := { s with dies := tmapAll s.dies (fun _ d => { d with
        copies := d.copies.filter (fun c => !f.pages.contains (c.line / 32)), sectors := d.sectors.filter (fun e => !f.pages.contains (e.1 / 4)) }) }
      .next (s.modHub (fun h => { h with
        flip := none, devBias := h.devBias.filter (fun p => !f.pages.contains p),
        halves := h.halves.filter (fun e => !f.pages.contains (e.1 / 64)) }))

/-! ### The window -/

/-- The oldest request of a die's host channel taken from it. -/
def State.popHost (s : State) (d : Nat) : State := s.modDie d (fun x => { x with hostChan := x.hostChan.drop 1 })

/-- The half-line that an atomic at the bridge writes back (25 R416). -/
def bridgeBytes (a : Acc) (data : List W8) : List W8 :=
  let off := a.va.toNat % 64
  let n := a.elem.width / 8
  let v := (atomNew a (at' data off n)).1
  data.take off ++ natBytes v n ++ data.drop (off + n)

/-- HOST_GLOBAL_OBSERVATION (R416, R131): the half-line that a load or an atomic asked for, no bytes for a store. -/
def execHostGlobalObservation (d : Nat) (data : List W8) (s : State) : Host.Outcome State Fault Refusal :=
  match (s.die d).hostChan with
  | [] => notEnabled "HOST_GLOBAL_OBSERVATION"
  | g :: _ => match tget s.accs g with
    | none => .next (s.popHost d)
    | some a =>
      let reads := a.kind = .load || a.kind = .atomic
      if !s.hub.linkUp || data.length ≠ (if reads then 64 else 0) then notEnabled "HOST_GLOBAL_OBSERVATION"
      else
        let s := (s.popHost d).farEnd a (fun x => data.getD (x % 64) 0) false
        .next (if a.kind = .atomic then
            { s with out := s.out ++ [.host d "DirtyEvict" (bits a.va.toNat 43 0 / 64 * 64) (bridgeBytes a data) false] } else s)

/-- HOST_DECODE_ERROR (R416). Log 7 (PRESUMED, unsafe). -/
def execHostDecodeError (d : Nat) (s : State) : Host.Outcome State Fault Refusal :=
  match (s.die d).hostChan with
  | [] => notEnabled "HOST_DECODE_ERROR"
  | g :: _ => match tget s.accs g with
    | none => .next (s.popHost d)
    | some a => if s.hub.linkUp then .next ((s.popHost d).farFault a kPaInvalid) else notEnabled "HOST_DECODE_ERROR"

/-- HOST_LINK_DOWN (R409): accesses in the host channels fault; a host request that waits for its flip is discarded and logged. -/
def execHostLinkDown (s : State) : Host.Outcome State Fault Refusal :=
  if !s.hub.linkUp then notEnabled "HOST_LINK_DOWN"
  else
    let s := match s.hub.flip with
      | some f => if f.auto then s.logFree 4 clsUCNA 13 noVf (f.pages.headD 0 * 4096) else s
      | none => s
    let s := s.modHub (fun h => { h with linkUp := false })
    .next ((upto nDies).foldl (fun s d =>
      let gs := (s.die d).hostChan.filterMap (fun g => tget s.accs g)
      let s := s.modDie d (fun x => { x with hostChan := [] })
      gs.foldl (fun s a => s.farFault a kHostLink) s) s)

/-- HOST_LINK_UP (R409). -/
def execHostLinkUp (s : State) : Host.Outcome State Fault Refusal :=
  if s.hub.linkUp then notEnabled "HOST_LINK_UP" else .next (s.modHub (fun h => { h with linkUp := true }))

/-! ### The DOE mailbox -/

/-- An answer on the DOE mailbox. Log 91 (DEDUCED, unsafe). -/
def State.doe (s : State) (b : List W8) : State := { s with out := s.out ++ [.doe b] }

/-- CXL_TABLE_ACCESS (R408). Log 10 (DESIGN CHOICE, safe). -/
def execCxlTableAccess (i : Nat) (s : State) : Host.Outcome State Fault Refusal := .next (s.doe (Config.cxlTable i))

/-- Kinds of SPDM responses. -/
def spdmVersion : Nat := 0
def spdmCapabilities : Nat := 1
def spdmMeasurements : Nat := 2
def spdmKeyExchange : Nat := 3

/-- Features that the device offers (25 Table 25-8). -/
def dfeat (i : Nat) : W64 := if i = 0 then 0x3FF else 0

/-- The tenancy registers of a function as bytes (25 Table 25-6). -/
def Vf.tenancy (v : Vf) : List W8 :=
  let w (x : W64) : List W8 := natBytes x.toNat 8
  w (BitVec.ofNat 64 ((if v.en then 1 else 0) + (if v.nfwd then 2 else 0) + (if v.cenf then 4 else 0))) ++ w v.vfAsid ++
  (upto 8).flatMap (fun i => w (tgetD v.vfCore i 0)) ++ w v.vfCol0 ++ w v.vfCol1 ++ w v.fabTag ++
  (upto 8).flatMap (fun i => w (tgetD v.feat i 0))

/-- What measurement block `i` is taken of (26 Table 26-8). -/
def State.measured (s : State) (i : Nat) : List W8 :=
  let w (x : Nat) : List W8 := natBytes x 8
  if i = 1 then Config.bootRomImage
  else if i = 2 then s.hub.image
  else if i = 3 then w s.hub.lcState ++ w s.hub.svn ++ (upto nDies).flatMap (fun d => w (s.die d).dbgVf.toNat)
  else if i = 4 then (upto 8).flatMap (fun i => w (dfeat i).toNat)
  else (s.vfs.filter (fun e => e.2.en)).flatMap (fun e => e.2.tenancy)

/-- An answer with the signature of the alias key over its hash (26 R440). Log 10 (DESIGN CHOICE, safe). -/
def State.spdmSigned (s : State) (kind : Nat) (fields : List (List W8)) : State :=
  s.doe (Config.spdmMessage kind (fields ++ [Config.ecdsaSign s.hub.aliasKey (Config.sha384 (Config.spdmMessage kind fields))]))

/-- SPDM_GET_VERSION (R440). Log 91 (DEDUCED, unsafe). -/
def execSpdmGetVersion (s : State) : Host.Outcome State Fault Refusal := .next (s.doe (Config.spdmMessage spdmVersion []))

/-- SPDM_GET_CAPABILITIES (R440). -/
def execSpdmGetCapabilities (s : State) : Host.Outcome State Fault Refusal := .next (s.doe (Config.spdmMessage spdmCapabilities []))

/-- SPDM_GET_MEASUREMENTS (R440): block `index`, or all of them for 0xFF. In RMA it is not answered.
Log 91 (DEDUCED, unsafe). -/
def execSpdmGetMeasurements (index : Nat) (nonce : List W8) (s : State) : Host.Outcome State Fault Refusal :=
  let is := if index = 0xFF then [1, 2, 3, 4, 5] else [index]
  if !(index = 0xFF || (1 ≤ index && index ≤ 5)) then notEnabled "SPDM_GET_MEASUREMENTS"
  else if s.hub.lcState = 3 then .next s
  else .next (s.spdmSigned spdmMeasurements (nonce :: is.flatMap (fun i => [natBytes i 1, Config.sha384 (s.measured i)])))

/-- SPDM_KEY_EXCHANGE (R440): a session with the hub's own share. In RMA it is not answered.
Log 10 (DESIGN CHOICE, safe). Log 91 (DEDUCED, unsafe). -/
def execSpdmKeyExchange (share : List W8) (s : State) : Host.Outcome State Fault Refusal :=
  if s.hub.lcState = 3 then .next s
  else
    let (e, s) := s.takeFree
    let s := s.modHub (fun h => { h with sessions := h.sessions + 1 })
    .next (s.spdmSigned spdmKeyExchange [share, Config.ecdheShare e share])

end Sys2Proof.Machine
end

