-- ==== Sys2Proof/Machine/EvFabric.lean ====
section
/-! DEFINITION. Fabric traffic (07 R130, 25 R417 to R421). The places of the fields that 25 Table 25-4 puts into OPS are the
model's own (log entry 15): of a request, the width in bytes at `<7:0>`, the type at `<12:8>`, the operation at `<23:16>`
by its primary opcode's low byte (0x86: bytes of a ring image, 0x87: an element of `ald` or `ast`, 0x88: a part of an engine's raw tile,
0x89: an engine's element), the order code at `<28:24>`, and the poison of a line at `<55>`; of an answer, the request's SEQ at `<31:0>`, the type of
the access at `<36:32>`, the ACCESS code of a fault at `<40:37>`, poison at `<55>` and the kind of a fault at `<63:56>`. The
first data flit of a request of a lane or a fragment has the base VA and the rounding state; an answer to one has the value
and the flags. -/

namespace Sys2Proof.Machine

/-- Types of messages (25 Table 25-4). -/
def flRead : Nat := 1
def flWrite : Nat := 2
def flAtomic : Nat := 3
def flRed : Nat := 4
def flData : Nat := 5
def flAck : Nat := 6
def flRefusal : Nat := 7
def flArrival : Nat := 0x10
def flRelease : Nat := 0x11
def flColl : Nat := 0x20
def flAbort : Nat := 0x21

/-- Whether a flit is a whole message of a type. -/
def flitOk (f : Flit) (type : Nat) : Bool :=
  let h := fhdr f
  h.type = type && h.len ≤ 4 && f.data.length = 32 * h.len && h.core < nCores

/-! ### Requests that leave -/

/-- The order code of an access (05 Table 5-3). Log 15 (DESIGN CHOICE, unsafe). -/
def Acc.orderCode (a : Acc) : Nat :=
  match a.use with
  | .unp => 6
  | .com => 7
  | .nor => 8
  | .qnt => 9
  | .spc => 10
  | .none => match a.ord with | .rlx => 1 | .acq => 2 | .rel => 3 | .acqrel => 4 | .sc => 5

/-- The operation of an access, by the low byte of its primary opcode; a line of an engine counts as raw, or as 0x85 where
it is to force materialisation. Log 15 (DESIGN CHOICE, unsafe). -/
def Acc.operCode (a : Acc) : Nat :=
  if !a.cells.isEmpty then (if a.op = 12 || a.op = 13 then 0x7C + a.op else 0x84 + a.op % 2)
  else match a.kind with
    | .load => if a.op = 5 then 0x87 else if a.raw then (if a.block && a.op = 2 then 0x86 else 0x84) else 0x80
    | .store => if a.op = 5 then 0x87 else 0x81
    | .atomic => a.op % 256
    | .red => 0x93 + a.op
    | _ => 0x81

/-- The message type of an access. Log 15 (DESIGN CHOICE, unsafe). -/
def Acc.flitType (a : Acc) : Nat :=
  match a.kind with | .load => flRead | .atomic => flAtomic | .red => flRed | _ => flWrite

/-- The base VA and the rounding state of a request (12 R222, R225). Log 15 (DESIGN CHOICE, unsafe). -/
def Acc.param (a : Acc) : List W8 :=
  natBytes (a.kept.a.toNat % 2 ^ 57) 8 ++ natBytes a.hkey.toNat 8 ++ natBytes a.hctr.toNat 4 ++ natBytes a.tid40 5 ++ natBytes a.mode 7

/-- The data of an access's message: an engine's line as it is, of a lane or a fragment its parameters and its operands. -/
def Acc.flitData (a : Acc) : List W8 :=
  if !a.cells.isEmpty then a.cells.map (·.2)
  else a.param ++ match a.kind with
    | .load => []
    | .atomic => natBytes a.data.toNat 8 ++ natBytes a.cmp.toNat 8
    | _ => natBytes a.data.toNat 8

/-- The bytes an access is wide. -/
def Acc.bytes (a : Acc) : Nat := if a.cells.isEmpty then a.elem.width / 8 else a.cells.length

/-- OPS of a request. Log 15 (DESIGN CHOICE, unsafe). -/
def Acc.ops (a : Acc) : Nat :=
  a.bytes + a.tyc * 2 ^ 8 + a.operCode * 2 ^ 16 + a.orderCode * 2 ^ 24 + (if (!a.cells.isEmpty || a.op = 5) && a.bad then 2 ^ 55 else 0)

/-- The function of an access. -/
def State.vfOfAcc (s : State) (a : Acc) : Nat :=
  match a.owner with
  | .thread _ | .uni _ => s.vfOf a.team
  | _ => (s.ownerOfAsid a.asid).getD 0

/-- The head of an outbound channel leaves the package; with no route it faults (25 R419). -/
def State.chanSend (s : State) (core pkg : Nat) : Host.Outcome State Fault Refusal :=
  match (s.chan core pkg).q with
  | [] => notEnabled "PACKAGE_CHANNEL_DELIVERY"
  | g :: r =>
    let c := s.chan core pkg
    let t := s.modChan core pkg (fun c => { c with q := r })
    match tget s.accs g with
    | none => .next t
    | some a =>
      if (s.usePort core pkg).isNone then .next (t.farFault a kPkgAbsent)
      else
        let t := t.modAcc g (fun b => { b with num := c.seq })
        let t := t.sendFlit a.flitType core pkg a.die (t.tagOf (t.vfOfAcc a)) a.va.toNat a.ops a.flitData
        .next (t.modChan core pkg (fun c => { c with flight := c.flight ++ [g] }))

/-! ### Requests that arrive -/

/-- The function that a flit's tag names, enabled and with FEN (25 R419). -/
def State.tagVf (s : State) (tag : Nat) : Option Nat :=
  ((s.vfs.filter (fun e => e.2.en && bits e.2.fabTag.toNat 15 0 = tag && bitAt e.2.fabTag.toNat 16)).head?).map (·.1)

/-- The function that a message is for, when it is not refused (25 R419, 26 R430). -/
def State.fabricVf (s : State) (h : FHdr) : Option Nat :=
  if h.dst = s.hub.fabId.toNat && !s.hub.fatal then
    (s.tagVf h.tag).filter (fun v => !(s.vf v).rstBusy)
  else none

/-- An answer to a request, on the channel of the request's core: `more` is its type, ACCESS code and poison in OPS.
Log 15 (DESIGN CHOICE, unsafe). -/
def State.answer (s : State) (type core pkg sdie tag va seq kind more : Nat) (data : List W8) : State :=
  s.sendFlit type core pkg sdie tag va (seq + more + kind * 2 ^ 56) data

/-- A request is refused, or waits for its turn in its channel. -/
def State.fabricRequest (s : State) (f : Flit) (type : Nat) (name : String) : Host.Outcome State Fault Refusal :=
  let h := fhdr f
  if !flitOk f type then notEnabled name
  else match s.fabricVf h with
    | none => .next (s.answer flRefusal h.core h.src 0 h.tag h.va h.seq kPkgAbsent 0 [])
    | some _ =>
      let k := chanKey h.core h.src
      .next { s with inbound := tset s.inbound k (tgetD s.inbound k [] ++ [f]) }

/-- The address space in which a request's VA is translated: the first of its function's (log entry 15).
Log 15 (DESIGN CHOICE, unsafe). -/
def State.fabricAsid (s : State) (tag : Nat) : Nat := bits ((s.vf ((s.tagVf tag).getD 0)).vfAsid.toNat) 15 0

/-- The tiles that hold some bytes of a mapped page, their headers translated for writing. -/
def State.byteTiles (s : State) (p : Page) (va n : Nat) : Except AccFault (List TileRef) × State :=
  (upto n).foldl (fun (x : Except AccFault (List TileRef) × State) i =>
    match x with
    | (.error f, s) => (.error f, s)
    | (.ok l, s) =>
      let t := tileAt p (va + i)
      if l.any (fun u => u.index = t.index) then (.ok l, s)
      else match s.withHeader t true with
        | (.error (k, hva), s) => (.error ⟨k, 9, hva⟩, s)
        | (.ok t, s) =>
          if (readHdr s.homeByte t).valid t.page.tl t.page.fmt then (.ok (l ++ [t]), s) else (.error ⟨kHeaderInvalid, 9, t.hdrVa⟩, s))
    (.ok [], s)

/-- The kind in an answer of a store whose register is no pair although its page's type is 64 bits wide (12 R224).
Log 15 (DESIGN CHOICE, unsafe). -/
def kOddRegister : Nat := 255

/-- The bits of an answer for an access's type, an ACCESS code and poison. Log 15 (DESIGN CHOICE, unsafe). -/
def ansBits (ty access : Nat) (bad : Bool) : Nat := ty * 2 ^ 32 + access * 2 ^ 37 + (if bad then 2 ^ 55 else 0)

/-- The order or use of a request at its destination: the channel performs one access at a time, so that its order is a
relaxed one's; its use is the one it carries (07 R130, R132). Log 15 (DESIGN CHOICE, unsafe). -/
def useOfCode (code : Nat) (red : Bool) : Use :=
  match code with
  | 6 => .unp
  | 7 => .com
  | 9 => .qnt
  | 10 => .spc
  | _ => if red then .com else .nor

/-- Index plus displacement of a request, from its effective address and its base. -/
def extraOf (va base : Nat) : Int :=
  let d : Nat := (va + 2 ^ 57 - base) % 2 ^ 57
  if d < 2 ^ 56 then d else (d : Int) - 2 ^ 57

/-- What every access of a request has. -/
def remoteAcc0 (f : Flit) (die asid : Nat) : Acc :=
  let h := fhdr f
  { gid := 0, owner := .remote h.src h.core h.tag, core := nCores * 4 + die, die := die, kind := .load, scope := 7, stage := .issued,
    va := BitVec.ofNat 57 h.va, asid := asid, tileNo := h.seq, mode := at' f.data 25 7 % 8, hkey := BitVec.ofNat 64 (at' f.data 8 8),
    hctr := BitVec.ofNat 32 (at' f.data 16 4), tid40 := at' f.data 20 5 }

/-- A request's load or decoded store at its page (12 R222 to R226). -/
def State.remoteMem (s : State) (f : Flit) (a0 : Acc) (st raw : Bool) : Except AccFault State × State :=
  let h := fhdr f
  let base := at' f.data 0 8 % 2 ^ 57
  let c := bits h.ops 12 8
  match s.reachOf a0.asid h.va base raw st with
  | (.error e, s) => (.error { e with access := if st then 1 else 0 }, s)
  | (.ok (tgt, p), s) =>
    if !(match tgt with | .pkg _ => true | _ => false) then (.error ⟨kPkgAbsent, if st then 1 else 0, h.va⟩, s)
    else
      let (ty, ill) := accessTy p raw st c
      if bits h.ops 23 16 = 0x87 && !(p.fmt = 1 || p.fmt = 22) then (.error ⟨kFormatAccess, 6, h.va⟩, s)
      else if st && (c = 31 || ill) && fmtWidth ty = 64 && bits h.ops 7 0 < 8 then (.error ⟨kOddRegister, 1, h.va⟩, s)
      else match s.place p h.va base (extraOf h.va base) (fmtWidth ty) raw st (if st then 1 else 0) with
        | (.error e, s) => (.error e, s)
        | (.ok e, s) =>
          let a := { a0 with page := p, target := tgt, elem := e, lines := elemLines e, ty := ty, raw := raw, flags := if ill then fILLMOD else 0 }
          if !st then (.ok (s.addAcc a).2, s)
          else
            let a := { a with kind := .store }
            let data := at' f.data 32 8
            let (code, fl) : Res := if a.atHome then (data, 0) else storeCode p false ty a.mode a.rand data
            (.ok (s.addAcc { a with data := BitVec.ofNat 64 code, flags := a.flags ||| fl, bad := bitAt h.ops 55 }).2, s)

/-- Raw bytes read for another package; those of a ring image lie on raw pages that are not mapped (10 R201). -/
def State.remoteBlock (s : State) (f : Flit) (a0 : Acc) : Except AccFault State × State :=
  let h := fhdr f
  let n := bits h.ops 7 0
  match s.reach a0.asid h.va false with
  | (.error k, s) => (.error ⟨k, 0, h.va⟩, s)
  | (.ok (.pkg d, p), s) =>
    if bits h.ops 23 16 = 0x86 && (!isRaw p || p.map) then (.error ⟨kFormatInvalid, 0, h.va⟩, s)
    else
      let pa := p.pa + (h.va - p.va)
      (.ok (s.addAcc { a0 with page := p, target := .pkg d, elem := { pa := pa, bit := 8 * pa, width := 8 * n }, lines := linesOf pa n,
                               raw := true, block := true, op := 1 }).2, s)
  | (.ok _, s) => (.error ⟨kPkgAbsent, 0, h.va⟩, s)

/-- An engine's line of another package: raw bytes as they are, or a write whose tiles are materialised first (11 R210, R216,
R217). -/
def State.remoteLine (s : State) (f : Flit) (a0 : Acc) : Except AccFault State × State :=
  let h := fhdr f
  let n := bits h.ops 7 0
  match s.reach a0.asid h.va true with
  | (.error k, s) => (.error ⟨k, 8, h.va⟩, s)
  | (.ok (.pkg d, p), s) => match (if p.map && bits h.ops 23 16 = 0x85 then s.byteTiles p h.va n else (.ok [], s)) with
    | (.error e, s) => (.error e, s)
    | (.ok ts, s) =>
      let pa := p.pa + (h.va - p.va)
      let cells := cellsAt pa (f.data.take n)
      (.ok (s.addAcc { a0 with kind := .edit, op := 6, page := p, target := .pkg d, elem := { pa := pa, bit := 8 * pa, width := 8 * n },
                               lines := dedup (cellLines cells ++ ts.flatMap tileLines), cells := cells, mats := ts,
                               bad := bitAt h.ops 55 }).2, s)
  | (.ok _, s) => (.error ⟨kPkgAbsent, 8, h.va⟩, s)

/-- A part of an engine's raw tile: it needs a tile of its FMT and TL there (11 R217). Log 46 (DEDUCED, unsafe). -/
def State.remoteTile (s : State) (f : Flit) (a0 : Acc) : Except AccFault State × State :=
  let h := fhdr f
  let off := at' f.data 2 2
  let b := (f.data.take (bits h.ops 7 0)).drop 4
  match s.reach a0.asid h.va true with
  | (.error k, s) => (.error ⟨k, 8, h.va⟩, s)
  | (.ok (.pkg d, p), s) =>
    if !(p.map && p.fmt = at' f.data 0 1 && p.tl = at' f.data 1 1) then (.error ⟨kFormatAccess, 8, h.va⟩, s)
    else if h.va % 2 ^ (p.tg + 2) ≠ 0 then (.error ⟨kMisaligned, 8, h.va⟩, s)
    else match s.withHeader (tileAt p h.va) true with
      | (.error (k, v), s) => (.error ⟨k, 8, v⟩, s)
      | (.ok t, s) =>
        let pa := if off = 0xFFFF then t.hdr else t.pay + off
        (.ok (s.addAcc { a0 with kind := .edit, op := 6, page := p, target := .pkg d, elem := { pa := pa, bit := 8 * pa, width := 8 * b.length },
                                 lines := tileLines t, cells := cellsAt pa b, bad := bitAt h.ops 55 }).2, s)
  | (.ok _, s) => (.error ⟨kPkgAbsent, 8, h.va⟩, s)

/-- An engine's element: its page places it and converts it; the answer's VA is the end of it (17 R321, R322).
Log 46 (DEDUCED, unsafe). -/
def State.remoteEl (s : State) (f : Flit) (a0 : Acc) : Except AccFault State × State :=
  let h := fhdr f
  let b := f.data
  let fl := at' b 10 1
  let ty := at' b 13 1
  match s.engElem a0.asid h.va (at' b 0 8) (if ty = 22 then 1 else fmtWidth ty / 8) true with
  | (.error e, s) => (.error e, s)
  | (.ok (q, d, u), s) =>
    let x := srcOfBytes b (bitAt h.ops 55)
    match (if bitAt fl 3 then s.keepCode q d ty (fl % 8) (at' b 8 2) x else s.engCode q d ty (fl % 8) (at' b 8 2) x) with
    | none => (.error ⟨kFormatAccess, 8, u⟩, s)
    | some c =>
      (.ok (s.addAcc { a0 with kind := .edit, op := 6, va := BitVec.ofNat 57 (u + (d.width + 7) / 8), page := q, target := .pkg q.die, elem := d,
                               lines := elemLines d, cells := s.elCells [{ page := q, va := u, elem := d, code := c, bad := x.bad }],
                               mats := match d.tile with | some t => [t] | none => [], bad := x.bad }).2, s)

/-- An atomic or a `red` of another package at its page (12 R234 to R238). -/
def State.remoteRmw (s : State) (f : Flit) (a0 : Acc) : Except AccFault State × State :=
  let h := fhdr f
  let atom : Bool := h.type = flAtomic
  let access := if atom then 2 else 3
  let base := at' f.data 0 8 % 2 ^ 57
  let c := bits h.ops 12 8
  let op := bits h.ops 23 16
  match s.reachOf a0.asid h.va base false true with
  | (.error e, s) => (.error { e with access := access }, s)
  | (.ok (.pkg d, p), s) =>
    let ok := if atom then atomPageOk p c else (isRaw p || (!isPacked p && p.fmt = c)) && (p.cc = 0 || p.cc = 1)
    if !ok then (.error ⟨kFormatAccess, access, if isPacked p then base else h.va⟩, s)
    else match s.placeWide (.pkg d) p h.va (if op = 0x95 then 64 else fmtWidth c) access with
      | (.error e, s) => (.error e, s)
      | (.ok e, s) =>
        (.ok (s.addAcc { a0 with kind := if atom then .atomic else .red, use := useOfCode (bits h.ops 28 24) (!atom), page := p,
                                 target := .pkg d, elem := e, lines := elemLines e, ty := c, op := if atom then op else op - 0x93,
                                 data := BitVec.ofNat 64 (at' f.data 32 8), cmp := BitVec.ofNat 64 (at' f.data 40 8) }).2, s)
  | (.ok _, s) => (.error ⟨kPkgAbsent, access, h.va⟩, s)

/-- A request's access issued at the die that terminates its port, or the fault it meets (07 R130). Its rounding state is the
requester's. Log 15 (DESIGN CHOICE, unsafe). -/
def State.fabricIssue (s : State) (f : Flit) : Except AccFault State × State :=
  let h := fhdr f
  let die := (Config.arrivalDie h.core h.src).val
  let a0 := remoteAcc0 f die (s.fabricAsid h.tag)
  if h.type = flRead && bits h.ops 12 8 = 22 then s.remoteBlock f a0
  else if h.type = flRead then s.remoteMem f a0 false (bits h.ops 23 16 = 0x84)
  else if h.type = flWrite then (if bits h.ops 23 16 = 0x81 || bits h.ops 23 16 = 0x87 then s.remoteMem f a0 true false
    else if bits h.ops 23 16 = 0x88 then s.remoteTile f a0 else if bits h.ops 23 16 = 0x89 then s.remoteEl f a0 else s.remoteLine f a0)
  else s.remoteRmw f a0

/-- The access of a request that has performed is answered and ends (07 R130): the value of a load or an atomic, and the
flags. Log 15 (DESIGN CHOICE, unsafe). Log 39 (DEDUCED, unsafe). Log 100 (DEDUCED, unsafe). -/
def State.remoteEnd (s : State) (a : Acc) (pkg core tag : Nat) : State :=
  let reads := a.kind = .load || a.kind = .atomic
  let kind := if a.kind = .load && a.op = kHeaderInvalid then a.op else 0
  let va := if kind = 0 then a.va.toNat else match a.elem.tile with | some t => t.hdrVa | none => a.va.toNat
  let s := s.answer (if reads then flData else flAck) core pkg a.die tag va a.tileNo kind (ansBits a.ty 0 (a.bad && kind = 0))
    (if a.block then a.cells.map (·.2) else natBytes a.res.toNat 8 ++ natBytes a.flags.toNat 4)
  { s with accs := tdel s.accs a.gid }

/-- The access that an inbound channel is performing. -/
def State.remoteAcc (s : State) (core pkg : Nat) : Option (Acc × Nat) :=
  ((s.accs.filterMap (fun e => match e.2.owner with
    | .remote p c t => if p = pkg && c = core then some (e.2, t) else none
    | _ => none)).head?)

/-- PACKAGE_CHANNEL_DELIVERY (R130): an outbound access leaves; inbound, the access that has performed is answered, or the
next one is issued at the die that terminates the arrival port. -/
def execPackageChannelDelivery (inbound : Bool) (core pkg : Nat) (s : State) : Host.Outcome State Fault Refusal :=
  if !inbound then s.chanSend core pkg
  else match s.remoteAcc core pkg with
    | some (a, tag) => if a.applied then .next (s.remoteEnd a pkg core tag) else notEnabled "PACKAGE_CHANNEL_DELIVERY"
    | none =>
      let k := chanKey core pkg
      match tgetD s.inbound k [] with
      | [] => notEnabled "PACKAGE_CHANNEL_DELIVERY"
      | f :: r =>
        let s : State := { s with inbound := if r.isEmpty then tdel s.inbound k else tset s.inbound k r }
        let h := fhdr f
        match s.fabricIssue f with
        | (.ok s, _) => .next s
        | (.error e, s) =>
          let reads := h.type = flRead || h.type = flAtomic
          .next (s.answer (if reads then flData else flAck) core pkg (Config.arrivalDie core pkg).val h.tag e.va h.seq e.kind (ansBits 0 e.access false) [])

/-- FABRIC_READ (R418, R419). -/
def execFabricRead (f : Flit) (s : State) : Host.Outcome State Fault Refusal := s.fabricRequest f flRead "FABRIC_READ"

/-- FABRIC_WRITE (R418, R419). -/
def execFabricWrite (f : Flit) (s : State) : Host.Outcome State Fault Refusal := s.fabricRequest f flWrite "FABRIC_WRITE"

/-- FABRIC_ATOMIC (R418, R419). -/
def execFabricAtomic (f : Flit) (s : State) : Host.Outcome State Fault Refusal := s.fabricRequest f flAtomic "FABRIC_ATOMIC"

/-- FABRIC_RED (R418, R419). -/
def execFabricRed (f : Flit) (s : State) : Host.Outcome State Fault Refusal := s.fabricRequest f flRed "FABRIC_RED"

/-! ### Answers -/

/-- The access in flight that an answer is for. Log 100 (DEDUCED, unsafe). -/
def State.flightOf (s : State) (h : FHdr) : Option Acc :=
  ((s.chan h.core h.src).flight.filterMap (fun g => tget s.accs g)).find? (fun a => a.num = bits h.ops 31 0)

/-- A lane whose register is no pair traps; its load writes nothing, and its latch entry becomes 0 (12 R224, 08 R143).
Log 46 (DEDUCED, unsafe). -/
def State.oddRegister (s : State) (a : Acc) : State :=
  let s := s.finishAcc a 0
  match a.owner with
  | .thread tid =>
    let s := (s.modThread tid (fun t => { t with pend := t.pend.filter (fun e => e.2 ≠ a.gid) })).fillLatches a.gid 0
    s.lateTrap a tid tReservedField
  | _ => s

/-- An answer to an access in flight, which `done` ends; one that nothing awaits is dropped.
Log 15 (DESIGN CHOICE, unsafe). Log 100 (DEDUCED, unsafe). -/
def State.fabricAnswer (s : State) (f : Flit) (type : Nat) (name : String) (done : State → Acc → State) : Host.Outcome State Fault Refusal :=
  let h := fhdr f
  if !flitOk f type then notEnabled name
  else match s.flightOf h with
    | none => .next s
    | some a =>
      let s := s.modChan h.core h.src (fun c => { c with flight := c.flight.filter (· ≠ a.gid) })
      let kind := bits h.ops 63 56
      .next (if kind = 0 then done s a
             else if kind = kOddRegister then s.oddRegister a
             else s.farFaultAt a ⟨kind, bits h.ops 40 37, h.va⟩)

/-- An access of another package's memory with the type that its page gave it (12 R224). -/
def Acc.typed (a : Acc) (ops : Nat) : Acc :=
  if a.kind = .load && !a.block then
    let ty := bits ops 36 32
    { a with ty := ty, wide := a.dst.isSome && fmtWidth ty = 64, elem := { a.elem with width := fmtWidth ty } }
  else a

/-- The flags of an answer. -/
def flagsOf (f : Flit) : W32 := BitVec.ofNat 32 (at' f.data 8 4)

/-- FABRIC_DATA_RESPONSE (R130, R418): a load whose page's type is 64 bits wide needs a pair unless its TY was allowed (12
R224). -/
def execFabricDataResponse (f : Flit) (s : State) : Host.Outcome State Fault Refusal :=
  s.fabricAnswer f flData "FABRIC_DATA_RESPONSE" (fun s a =>
    let ops := (fhdr f).ops
    let b := a.typed ops
    let odd := match b.dst with | some d => b.wide && d % 2 = 1 && !(match b.owner with | .uni _ => true | _ => false) | none => false
    if odd then s.oddRegister a
    else
      let s := s.modAcc a.gid (fun _ => b)
      (if b.block then s else s.flagAcc b (flagsOf f)).farEnd b (fun x => f.data.getD (x - a.va.toNat) 0) (bitAt ops 55))

/-- The `wp` that an engine's element of another package gives once it is acknowledged (17 R321). -/
def State.headWp (s : State) (a : Acc) (wp : Nat) : State :=
  match a.owner with
  | .engine e => if a.op = 13 && e < 128 then s.modEngine e (fun x => { x with job := x.job.map (fun j => { j with out := match j.out with
      | o :: r => { o with wp := wp } :: r
      | [] => [] }) }) else s
  | _ => s

/-- FABRIC_ACKNOWLEDGEMENT (R130, R418): a store whose page's type is 64 bits wide frees the second register of its pair with
the first (12 R224, R227). -/
def execFabricAcknowledgement (f : Flit) (s : State) : Host.Outcome State Fault Refusal :=
  s.fabricAnswer f flAck "FABRIC_ACKNOWLEDGEMENT" (fun s a =>
    let s := (s.flagAcc a (flagsOf f)).headWp a (fhdr f).va
    let s := match a.owner, a.dst with
      | .thread tid, some r => if a.kind = AccKind.store && fmtWidth (bits (fhdr f).ops 36 32) = 64 then s.modThread tid (fun t => t.freeReg r) else s
      | _, _ => s
    s.farEnd a (fun _ => 0) false)

/-- The collective entries in progress of a group, changed. -/
def State.collJobs (s : State) (gid : W64) (f : State → Job → Job × State) : State :=
  (upto nDies).foldl (fun s d => match (s.engine (collEng d)).job with
    | some j =>
      if j.kind = 2 && flitGid j.grp = gid && j.status = 0 && j.faulted.isNone then
        let (j, s) := f s j
        s.modEngine (collEng d) (fun x => { x with job := some j })
      else s
    | none => s) s

/-- FABRIC_REFUSAL (R419, R421): the lanes that asked fault. A refusal of collective data ends the group's entry: with
STATUS 4 where the other side lacks the feature. Log 94 (DEDUCED, unsafe). -/
def execFabricRefusal (f : Flit) (s : State) : Host.Outcome State Fault Refusal :=
  let h := fhdr f
  if !flitOk f flRefusal then notEnabled "FABRIC_REFUSAL"
  else match s.flightOf h with
    | some a =>
      let s := s.modChan h.core h.src (fun c => { c with flight := c.flight.filter (· ≠ a.gid) })
      .next (s.farFault a kPkgAbsent)
    | none =>
      if h.va = 0 then .next s
      else .next (s.collJobs (BitVec.ofNat 64 h.va) (fun s j =>
        (if bits h.ops 63 56 = 0 then { j with status := 4, flags := 1, out := [], owned := [] }
         else { j with flags := 1, out := [], owned := [], faulted := some (entryRec kPkgAbsent j.asid j.entry.toNat j.vf) }, s)))

/-! ### Barriers and collectives -/

/-- An arrival of another package's node at the domain node of a group, its entry allocated at the first one (18 R354, R355).
Log 119 (DEDUCED, unsafe). -/
def State.domainArrival (s : State) (gid : Nat) : State :=
  let k := bits gid 18 16
  match s.launches.find? (fun e => e.2.num = bits gid 15 0 && e.2.stage = .admitted && e.2.teamLevel < k && 5 ≤ e.2.dom k) with
  | none => s
  | some (lk, _) => match s.barNodes lk k (bits gid 26 19) (bits gid 63 28) with
    | .ok s => s
    | .error d => s.barSpill d (BitVec.ofNat 64 gid)

/-- FABRIC_BARRIER_ARRIVAL (R354): OPS holds the group id; its package gets the release. -/
def execFabricBarrierArrival (f : Flit) (s : State) : Host.Outcome State Fault Refusal :=
  let h := fhdr f
  if !flitOk f flArrival then notEnabled "FABRIC_BARRIER_ARRIVAL"
  else
    let l := tgetD s.bars h.ops []
    let s : State := { s with bars := tset s.bars h.ops (if l.contains h.src then l else l ++ [h.src]) }
    .next (s.domainArrival h.ops)

/-- The group id of a wait at a barrier (18 R355). -/
def State.waitGid (s : State) (w : Wait) : Option W64 :=
  let tk := tkOfW w.wk
  match w.what, s.launchOf tk with
  | .bar k id, some l => some (gidOf l.num k id false (s.instOf k w.wk))
  | _, _ => none

/-- FABRIC_BARRIER_RELEASE (R354): the barrier of the group id in OPS completes here once its own threads have arrived. -/
def execFabricBarrierRelease (f : Flit) (s : State) : Host.Outcome State Fault Refusal :=
  if !flitOk f flRelease then notEnabled "FABRIC_BARRIER_RELEASE"
  else
    let g := BitVec.ofNat 64 (fhdr f).ops
    match s.waits.findIdx? (fun w => s.waitGid w == some g) with
    | none => .next s
    | some i => execBarrierRelease i s

/-- FABRIC_COLLECTIVE_DATA (R421): kept until the group's ranks are matched; refused where no function takes it. -/
def execFabricCollectiveData (f : Flit) (s : State) : Host.Outcome State Fault Refusal :=
  let h := fhdr f
  if !flitOk f flColl then notEnabled "FABRIC_COLLECTIVE_DATA"
  else
    let no (kind : Nat) : State := s.answer flRefusal h.core h.src 0 h.tag h.va h.seq kind 0 []
    match s.fabricVf h with
    | none => .next (no kPkgAbsent)
    | some v =>
      if !s.feature v 7 then .next (no 0)
      else .next { s with coll := s.coll ++ [{ grp := BitVec.ofNat 64 h.va, turn := bits h.ops 31 13, rank := bits h.ops 12 0,
                                               chunk := bits h.ops 63 32, data := f.data }] }

/-- FABRIC_COLLECTIVE_ABORT (R421): entries of the group that are in progress complete with STATUS 3, and later ones will.
Log 94 (DEDUCED, unsafe). -/
def execFabricCollectiveAbort (f : Flit) (s : State) : Host.Outcome State Fault Refusal :=
  if !flitOk f flAbort then notEnabled "FABRIC_COLLECTIVE_ABORT"
  else
    let gid := BitVec.ofNat 64 (fhdr f).va
    let s := (upto nDies).foldl (fun s d => s.modEngine (collEng d) (fun x => { x with aborted := if x.aborted.contains gid then x.aborted else x.aborted ++ [gid] })) s
    let s : State := { s with coll := s.coll.filter (fun m => m.grp ≠ gid) }
    .next (s.collJobs gid (fun s j =>
      let (o, s) := s.freeOut j.out
      ({ j with status := 3, flags := 1, out := o }, s)))

/-- Whether a message type is reserved (25 Table 25-4). -/
def flitReserved (t : Nat) : Bool := !((1 ≤ t && t ≤ 7) || t = 0x10 || t = 0x11 || t = 0x20 || t = 0x21)

/-- FABRIC_RESERVED_FLIT (R418). -/
def execFabricReservedFlit (f : Flit) (s : State) : Host.Outcome State Fault Refusal :=
  if flitReserved (fhdr f).type then .next (s.modHub (fun h => { h with fabErr := h.fabErr + 1 })) else notEnabled "FABRIC_RESERVED_FLIT"

/-! ### Ports and routes -/

/-- FABRIC_PORT_DOWN (R419, 26 Table 26-2): every request in flight on a channel of the port ends.
Log 100 (DEDUCED, unsafe). -/
def execFabricPortDown (p : Nat) (s : State) : Host.Outcome State Fault Refusal :=
  if 18 ≤ p || s.hub.portsDown.contains p then notEnabled "FABRIC_PORT_DOWN"
  else
    let s := s.modHub (fun h => { h with portsDown := h.portsDown ++ [p] })
    let gs := (s.chans.filter (fun e => e.2.port = some p)).flatMap (fun e => e.2.flight)
    let s : State := { s with chans := tmapAll s.chans (fun _ c => if c.port = some p then { c with flight := [] } else c) }
    let s := (gs.filterMap (fun g => tget s.accs g)).foldl (fun s a => s.farFault a kPkgAbsent) s
    .next (s.logFree 4 clsUCNA 10 noVf p)

/-- FABRIC_ROUTE_SWITCH (R417): a channel with nothing in flight takes the port that the routing register gives it. -/
def execFabricRouteSwitch (core pkg : Nat) (s : State) : Host.Outcome State Fault Refusal :=
  let c := s.chan core pkg
  if nCores ≤ core || !c.flight.isEmpty || c.port = s.routePort core pkg then notEnabled "FABRIC_ROUTE_SWITCH"
  else .next (s.modChan core pkg (fun c => { c with port := s.routePort core pkg }))

end Sys2Proof.Machine
end

