-- ==== Sys2Proof/Machine/EvReset.lean ====
section
/-! DEFINITION. Boot, device reset, power loss, mailbox commands, the lifecycle, and the reset of a virtual function (25 R424,
R425, 26 R433 to R439). A boot and a function's reset are each one step (log entry 2). -/

namespace Sys2Proof.Machine

/-! ### Firmware -/

/-- Magic of an image and of a lifecycle token (26 Tables 26-6, 26-11). -/
def imageMagic : Nat := 0x39584C5F5746584C
/-- See `imageMagic`. -/
def tokenMagic : Nat := 0x4C43544B4C583900

/-- Bytes `off` to `off + n - 1` of a list. -/
def slice (b : List W8) (off n : Nat) : List W8 := (b.drop off).take n

/-- The root public key in an image's header (26 Table 26-6). -/
def imageKey (b : List W8) : List W8 := slice b 0x40 97
/-- The SVN of an image. -/
def imageSvn (b : List W8) : Nat := at' b 8 4
/-- The body of an image. -/
def imageBody (b : List W8) : List W8 := slice b 0x160 (at' b 0xC 4)

/-- Whether an image is accepted under a fused SVN (26 R436). Log 10 (DESIGN CHOICE, safe). -/
def imageOk (svn : Nat) (b : List W8) : Bool :=
  at' b 0 8 = imageMagic && 0x160 + at' b 0xC 4 ≤ b.length && Config.sha384 (imageBody b) = slice b 0x10 48 &&
  Config.sha384 (imageKey b) = Config.rootKeyHash &&
  Config.ecdsaValid (imageKey b) (Config.sha384 (slice b 0 0x100)) (slice b 0x100 96) && svn ≤ imageSvn b

/-! ### Boot -/

/-- The slots in the order in which a boot tries them: whether it is slot B, and its image (26 R434, R436).
Log 95 (DEDUCED, unsafe). -/
def Hub.bootOrder (h : Hub) : List (Bool × List W8) :=
  if h.tryB then [(true, h.slotB), (false, h.slotA)] else [(false, h.slotA), (true, h.slotB)]

/-- The hub's error ring kept through a reset (26 R431): where it is, and its records.
Log 81 (DESIGN CHOICE, safe). -/
def ErrRegs.keep (e : ErrRegs) : ErrRegs :=
  { elBase := e.elBase, elSize := e.elSize, elHead := e.elHead, elTail := e.elTail, elDrop := e.elDrop, waiting := e.waiting, recent := e.recent }

/-- The hub with what is fused or kept in flash, and its error ring; every other register is at its reset value.
Log 81 (DESIGN CHOICE, safe). -/
def Hub.kept (h : Hub) : Hub :=
  { lcState := h.lcState, svn := h.svn, slotA := h.slotA, slotB := h.slotB, tryB := h.tryB, activeB := h.activeB, image := [],
    idKey := h.idKey, aliasKey := [], wipePending := h.wipePending, err := h.err.keep, time := h.time, devStat := 2, wipeStat := true,
    linkUp := false }

/-- Bytes of memory that a wipe leaves: those of the hub's error ring (26 R431). -/
def State.ringBytes (s : State) : List Host.Cell :=
  let e := s.hub.err
  if ringOkRegs e.elBase.toNat e.elSize.toNat then
    s.mem.home.filter (fun c => e.elBase.toNat ≤ c.1 && c.1 < e.elBase.toNat + 32 * e.elSize.toNat)
  else []

/-- The package with nothing running, and the memory `m`, which every die has applied. -/
def State.restart (s : State) (m : List Host.Cell) (h : Hub) : State :=
  { agenda := s.agenda, free := s.free, next := s.next, out := s.out, mem := { home := m }, hub := h,
    dies := if m.isEmpty then [] else (upto nDies).map (fun d => (d, { view := m })) }

/-- The boot sequence from step 1 (26 R434, Table 26-5). With no image accepted it stops in recovery, memory not yet wiped; a
scrapped device stops after the wipe. The SVN of the image is fused once step 6 is reached.
Log 2 (DESIGN CHOICE, unsafe). Log 6 (DESIGN CHOICE, unsafe). Log 95 (DEDUCED, unsafe). -/
def State.boot (s : State) : State :=
  let h := s.hub.kept
  match (s.hub.bootOrder.filter (fun x => imageOk s.hub.svn x.2)).head? with
  | none => s.restart s.mem.home { h with devStat := 0xF }
  | some (b, img) =>
    let h := { h with image := img, activeB := b, aliasKey := Config.deriveKey Config.deviceSecret (Config.sha384 img),
                      wipePending := false, wipeStat := false }
    if h.lcState = 4 then s.restart s.ringBytes { h with devStat := 4 }
    else s.restart s.ringBytes { h with devStat := 6, linkUp := true, svn := max h.svn (imageSvn img) }

/-- Whether the device is in service, so that registers take writes (26 R435). Log 2 (DESIGN CHOICE, unsafe). -/
def State.ready (s : State) : Bool := s.hub.devStat = 6

/-- POWER_GOOD (R434). -/
def execPowerGood (s : State) : Host.Outcome State Fault Refusal := .next s.boot

/-- CXL_RESET (R434). -/
def execCxlReset (s : State) : Host.Outcome State Fault Refusal := if s.hub.devStat = 0 then notEnabled "CXL_RESET" else .next s.boot

/-- PF0_FLR (R434). -/
def execPf0Flr (s : State) : Host.Outcome State Fault Refusal := if s.hub.devStat = 0 then notEnabled "PF0_FLR" else .next s.boot

/-- DEVRST_WRITE (R434, Table 26-9). -/
def execDevrstWrite (val : W64) (s : State) : Host.Outcome State Fault Refusal :=
  .next (if s.ready && val.getLsbD 0 then s.boot else s)

/-- POWER_LOSS (R433, R437): nothing runs until power-good, whose boot wipes memory in full.
Log 95 (DEDUCED, unsafe). -/
def execPowerLoss (s : State) : Host.Outcome State Fault Refusal :=
  .next (s.restart [] { s.hub.kept with devStat := 0, wipePending := true, err := {} })

/-! ### The mailbox -/

/-- The PA of a command's buffer (26 Table 26-9). -/
def mbPa (val : W64) : Nat := bits val.toNat 63 12 * 4096

/-- Bytes of a mailbox buffer, as home memory holds them. -/
def State.mbBytes (s : State) (pa n : Nat) : List W8 := (upto n).map (fun i => s.homeByte (pa + i))

/-- A mailbox command that ends with an error, 0 for none (26 R438). -/
def State.mbEnd (s : State) (val : W64) (err : Nat) : State :=
  s.modHub (fun h => { h with mbCmd := val &&& ~~~0xFFC#64, mbStat := BitVec.ofNat 64 (2 * err) })

/-- LOAD_FW (R436, R438): the image goes into the slot that did not boot, which the next boot tries first. It works in
recovery too. Log 95 (DEDUCED, unsafe). -/
def execLoadFw (val : W64) (s : State) : Host.Outcome State Fault Refusal :=
  if bits val.toNat 1 0 ≠ 1 then notEnabled "LOAD_FW"
  else if !s.ready && s.hub.devStat ≠ 0xF then .next s
  else
    let pa := mbPa val
    let n := 0x160 + memNat (s.mbBytes (pa + 0xC) 4 |> cellsAt 0) 0 4
    if !paOk pa || !paOk (pa + n) then .next (s.mbEnd val 3)
    else
      let img := s.mbBytes pa n
      if !imageOk s.hub.svn img then .next (s.mbEnd val 1)
      else
        let s := s.modHub (fun h =>
          if h.activeB then { h with slotA := img, tryB := false } else { h with slotB := img, tryB := true })
        .next (s.mbEnd val 0)

/-- Whether Table 26-7 allows a transition. -/
def lcAllowed (old new : Nat) : Bool := (new = 1 && old = 0) || (new = 2 && old = 1) || (new = 3 && old = 2) || (new = 4 && old ≠ 4)

/-- Whether a transition needs a token. -/
def lcToken (new : Nat) : Bool := new = 1 || new = 3

/-- Whether a token is valid for a transition (26 R438, Table 26-11): it is signed by the key that the accepted image carries,
whose hash is the fused one. Log 10 (DESIGN CHOICE, safe). Log 95 (DEDUCED, unsafe). -/
def State.tokenOk (s : State) (new : Nat) (t : List W8) : Bool :=
  let key := imageKey s.hub.image
  at' t 0 8 = tokenMagic && at' t 8 4 = new && at' t 0x10 16 = (if new = 3 then Config.deviceSerial.toNat else 0) &&
  Config.sha384 key = Config.rootKeyHash && Config.ecdsaValid key (Config.sha384 (slice t 0 0x30)) (slice t 0x30 96)

/-- LC_TRANSITION (R437, R438, R439): the device is wiped, the fuse burned, and the device reset. -/
def execLcTransition (val : W64) (s : State) : Host.Outcome State Fault Refusal :=
  if bits val.toNat 1 0 ≠ 2 then notEnabled "LC_TRANSITION"
  else if !s.ready then .next s
  else if !paOk (mbPa val) then .next (s.mbEnd val 3)
  else
    let b := s.mbBytes (mbPa val) 0xA0
    let new := at' b 0 4
    let len := at' b 4 4
    if !lcAllowed s.hub.lcState new then .next (s.mbEnd val 2)
    else if lcToken new && !(len = 0x90 && s.tokenOk new (slice b 0x10 0x90)) then .next (s.mbEnd val 1)
    else if !lcToken new && len ≠ 0 then .next (s.mbEnd val 3)
    else
      let s := s.modHub (fun h => { h with lcState := new, idKey := if new = 1 then true else if new = 3 then false else h.idKey })
      .next s.boot

/-- MBCMD_BAD_OP (R438, Table 26-9). -/
def execMbcmdBadOp (val : W64) (s : State) : Host.Outcome State Fault Refusal :=
  let op := bits val.toNat 1 0
  if op = 1 || op = 2 then notEnabled "MBCMD_BAD_OP" else .next (if s.ready then s.mbEnd val 3 else s)

/-! ### The reset of a virtual function -/

/-- Teams of a function. -/
def State.vfTeams (s : State) (v : Nat) : List Nat := (s.teams.filter (fun t => t.2.vf = v)).map (·.1)

/-- Whether an access is a function's. -/
def State.accOfVf (s : State) (v : Nat) (a : Acc) : Bool :=
  match a.owner with
  | .thread _ | .uni _ => s.vfOf a.team = v
  | .engine _ => s.ownerOfAsid a.asid = some v
  | .remote _ _ tag => s.tagVf tag = some v
  | .host => s.ownerOfAsid a.asid = some v

/-- Step 2, of accesses (R424, R403): those not sent are dropped, and a request of another package among them is refused.
Log 96 (DEDUCED, unsafe). -/
def State.cutVf (s : State) (v : Nat) : State :=
  let gone (a : Acc) : Bool := s.accOfVf v a && (a.unsent || a.kind = .fence)
  let s := (s.accs.filter (fun e => gone e.2)).foldl (fun s e => match e.2.owner with
    | .remote p c tag => s.answer flRefusal c p 0 tag e.2.va.toNat e.2.tileNo kPkgAbsent 0 []
    | _ => s) s
  let s := (s.inbound.flatMap (·.2)).foldl (fun s f =>
    let h := fhdr f
    if s.tagVf h.tag = some v then s.answer flRefusal h.core h.src 0 h.tag h.va h.seq kPkgAbsent 0 [] else s) s
  { s with
    accs := (s.accs.filter (fun e => !gone e.2)).map (fun e => if s.accOfVf v e.2 then (e.1, { e.2 with dst := none, latch := false }) else e)
    inbound := s.inbound.map (fun e => (e.1, e.2.filter (fun f => s.tagVf (fhdr f).tag ≠ some v))) }

/-- Accesses of a function that wait at a home perform there (R424 step 2). Log 96 (DEDUCED, unsafe). -/
def State.flushVf (s : State) (v : Nat) : State :=
  (upto nDies).foldl (fun s d =>
    let rs := (s.die d).inbox.filter (fun r => match tget s.accs r.gid with | some a => s.accOfVf v a | none => false)
    let s := s.modDie d (fun x => { x with inbox := x.inbox.filter (fun r => !rs.contains r) })
    rs.foldl (fun s r => match tget s.accs r.gid with | some a => s.seqAcc d r.vc a | none => s) s) s

/-- The abort of a collective told to every other rank of its group (R424 step 4, R421). Log 96 (DEDUCED, unsafe). -/
def State.abortGroup (s : State) (die v : Nat) (gid : W64) (ranks : List Nat) : State :=
  let g := flitGid gid
  let s := (s.farPkgs ranks).foldl (fun s p => s.sendFlit flAbort (coresPerDie * die) p die (s.tagOf v) g.toNat 0 []) s
  let here := (ranks.filter (fun r => rankPkg r = s.hub.fabId.toNat && rankDie r ≠ die)).map rankDie
  (dedup here).foldl (fun s d => s.modEngine (collEng d) (fun x => { x with
    aborted := if x.aborted.contains g then x.aborted else x.aborted ++ [g],
    job := x.job.map (fun j =>
      if j.kind = 2 && flitGid j.grp = g && j.vf ≠ v && j.status = 0 && j.faulted.isNone then
        { j with status := 3, flags := 1, out := [], owned := [] } else j) })) s

/-- A linked entry completed with STATUS 2, its SEQ and its chain's completion word read as an engine reads them. -/
def State.abortLinked (s : State) (e : Nat) (c : Chain) (entry : Va) : State :=
  let die := engDie e
  let word (va : Nat) : Nat := match (s.devRead die c.asid (va % 2 ^ 57) 8).1 with | .ok g => at' g.bytes 0 8 | .error _ => 0
  let s := if engKind e = 2 then
      match (s.devRead die c.asid (word (entry.toNat + 0x20) % 2 ^ 57) 64).1 with
      | .ok g0 => match (s.devRead die c.asid (word (entry.toNat + 0x20) % 2 ^ 57) (64 + 8 * min (at' g0.bytes 8 4) 4608)).1 with
        | .ok g => let w := groupWords g.bytes; s.abortGroup die c.vf (w.getD 0 0) ((w.drop 3).map (·.toNat))
        | .error _ => s
      | .error _ => s
    else s
  s.writeCw (.engine e) die c.asid c.vf entry (BitVec.ofNat 64 (word (c.cb.toNat + 0x10))) (BitVec.ofNat 64 (word (entry.toNat + 0x10))) 2

/-- Entries of a function's chains on an engine, in progress and linked (R424 step 4). -/
def State.abortChains (s : State) (v e : Nat) : State :=
  let s := match (s.engine e).job with
    | some j =>
      if j.vf = v then
        let s := if j.kind = 2 then s.abortGroup (engDie e) v j.grp (cjob j.body).ranks else s
        s.endEntry e { j with status := 2, out := [], owned := [], faulted := none }
      else s
    | none => s
  let mine := (s.engine e).chains.filter (fun c => c.vf = v)
  let s := mine.foldl (fun s c =>
    let s := c.next.foldl (fun s n => s.abortLinked e c n.1) s
    s.writeHead (.engine e) (engDie e) c.asid c.cb 0) s
  s.modEngine e (fun x => { x with chains := x.chains.filter (fun c => c.vf ≠ v) })

/-- Launches of a function that are not complete (R424 step 3): each completes with STATUS 2, slots in their order. -/
def State.abortLaunches (s : State) (v : Nat) : State :=
  (s.launches.filter (fun e => e.2.vf = v)).foldl (fun s e =>
    let l := { e.2 with status := if e.2.stage = .complete then e.2.status else 2 }
    (s.dropLaunch e.1 l).report l) s

/-- Granules that a function owns (25 R422). -/
def State.vfOwns (s : State) (v pa : Nat) : Bool :=
  let g := tgetD s.hub.got (dpaOf pa / 2 ^ 30) 0
  paOk pa && g.getLsbD 7 && bits g.toNat 5 0 = v

/-- Every address of a function's granules that some copy of memory lists. -/
def State.vfCells (s : State) (v : Nat) : List Nat :=
  let log (d : Die) : List Host.Cell := (d.log.flatMap (·.content) ++ d.aq.flatMap (·.content)).flatMap Content.cells?
  ((s.mem.home ++ s.mem.backing ++ s.dies.flatMap (fun d => d.2.view ++ log d.2)).map (·.1)).foldl
    (fun m a => if s.vfOwns v a then memSet m a 1 else m) [] |>.map (·.1)

/-- Step 6 (R424): a function's memory, and what its cores and caches hold of it. Log 96 (DEDUCED, unsafe). -/
def State.wipeVf (s : State) (v : Nat) : State :=
  let hs := (s.hub.halves.filter (fun e => s.vfOwns v (64 * e.1))).map (·.1)
  let s := (s.snoop hs true).modHub (fun h => { h with halves := h.halves.filter (fun e => !hs.contains e.1) })
  let all := s.vfCells v
  let lines (l : Nat) : Bool := s.vfOwns v (l * lineBytes)
  let s := s.modMem (fun m => { m with reduce := m.reduce.filter (fun e => !s.vfOwns v e.pa), restores := m.restores.filter (fun r => !lines r.1) })
  let s := (upto nDies).foldl (fun s d =>
    let c := (all.filter (fun a => dieOfPa a = d)).map (fun a => ((a, 0) : Host.Cell))
    if c.isEmpty then s else s.seqWrite d (s.vcOf d) c none) s
  let s := s.modMem (fun m => { m with
    poison := m.poison.filter (fun l => !lines l), backing := m.backing.filter (fun c => !s.vfOwns v c.1) })
  let asid (a : Nat) : Bool := s.ownerOfAsid a = some v
  let s : State := { s with
    dies := tmapAll s.dies (fun _ d => { d with
      mtlb := d.mtlb.filter (fun t => !asid t.asid), copies := d.copies.filter (fun c => !lines c.line && !asid c.asid) })
    execs := tmapAll s.execs (fun c x => if c < nCores && s.vfHasCore v c then
        { x with sp := [], spPoison := [], acc := [], rowPoison := [], bankTeam := none, bins := [], overflow := [], gangs := [], products := [] }
      else x) }
  s.modHub (fun h => { h with devBias := h.devBias.filter (fun p => !s.vfOwns v (p * 4096)) })

/-- The reset of a function, in the order of R424. Log 2 (DESIGN CHOICE, unsafe). Log 96 (DEDUCED, unsafe). -/
def State.resetVf (s : State) (v : Nat) : State :=
  let s := s.modVf v (fun x => { x with rstBusy := true, queues := tmapAll x.queues (fun _ q => { q with en := false }) })
  let ts := s.vfTeams v
  let s : State := { s with sheaves := s.sheaves.filter (fun h => !ts.contains h.team), streams := s.streams.filter (fun x => x.vf ≠ v) }
  let s := (s.cutVf v).flushVf v
  let s := ts.foldl State.endTeam s
  let s := s.abortLaunches v
  let s := (keys s.engines).foldl (fun s e => s.abortChains v e) s
  let s := s.wipeVf v
  s.modVf v (fun x => { x with feat := [], negd := false, rstBusy := false })

/-- Functions of the package (25 Table 25-1). -/
def nVfs : Nat := 64

/-- VFRST_WRITE (R424, Table 25-6). -/
def execVfrstWrite (v : Nat) (val : W64) (s : State) : Host.Outcome State Fault Refusal :=
  if nVfs ≤ v then notEnabled "VFRST_WRITE" else .next (if s.ready && val.getLsbD 0 then s.resetVf v else s)

/-- VF_FLR (R424). -/
def execVfFlr (v : Nat) (s : State) : Host.Outcome State Fault Refusal :=
  if nVfs ≤ v || !s.ready then notEnabled "VF_FLR" else .next (s.resetVf v)

end Sys2Proof.Machine
end

