-- ==== Sys2Proof/Machine/EvXlat.lean ====
section
/-! DEFINITION. The translation commands of MTCMD and the barrier-table commands of BTCMD (17 R325 to R327, 18 R356, R357). -/

namespace Sys2Proof.Machine

/-! ### Translation commands -/

/-- A command's ERR with BUSY 0 (17 Table 17-8). -/
def State.mtEnd (s : State) (d err : Nat) : State := s.modDie d (fun x => { x with mtStat := BitVec.ofNat 64 (2 * err), mtPages := [] })

/-- A write of MTCMD that starts a command: ignored before READY or while one runs (17 R325, 26 R435). -/
def State.mtCommand (s : State) (d op : Nat) (name : String) (go : State → Host.Outcome State Fault Refusal) :
    Host.Outcome State Fault Refusal :=
  if nDies ≤ d then notEnabled name
  else if !s.ready || (s.die d).mtStat.getLsbD 0 then .next s
  else go (s.modDie d (fun x => { x with mtCmd := BitVec.ofNat 64 op }))

/-- Whether an element's tile has its header in one of some pages. -/
def hdrOn (ps : List Page) (e : Elem) : Bool :=
  match e.tile with | some t => ps.any (fun p => p.hasVa t.page.asid t.hdrVa) | none => false

/-- Pages that translations held, accesses in flight, and translations lost while reads under them may hold leases, use. -/
def State.usedPages (s : State) : List Page :=
  let outs (j : Option Job) : List Page := match j with | some j => j.out.map (·.page) | none => []
  (s.dies.flatMap (fun d => d.2.mtlb.map (·.page) ++ d.2.mtlbOld.map (·.2)) ++ s.accs.map (fun e => e.2.page) ++ s.engines.flatMap (fun e => outs e.2.job) ++
    s.streams.flatMap (fun x => outs x.job) ++ s.stationLoads.map (·.page) ++
    s.execs.flatMap (fun c => c.2.products.flatMap (fun p => p.parts.map (·.page)))).eraseDups

/-- Whether an access older than the command still uses one of its pages, itself or for the header of its tile (17 R326). -/
def State.pageUser (s : State) (ps : List Page) (gid : Nat) : Bool :=
  let outs (j : Option Job) : Bool := match j with | some j => j.out.any (fun o => ps.contains o.page || o.mats.any (fun t =>
    ps.any (fun p => p.hasVa t.page.asid t.hdrVa))) | none => false
  s.accs.any (fun e => e.1 < gid && (ps.contains e.2.page || hdrOn ps e.2.elem)) || s.engines.any (fun e => outs e.2.job) || s.streams.any (fun x => outs x.job) ||
  s.stationLoads.any (fun x => x.g < gid && ((x.page :: x.pages).any ps.contains || x.elems.any (hdrOn ps))) ||
  s.ringLoads.any (fun r => r.g < gid && r.pages.any ps.contains) ||
  s.execs.any (fun c => c.2.products.any (fun p => !p.read && p.g < gid &&
    p.parts.any (fun x => (x.page :: x.pages).any ps.contains || x.els.any (hdrOn ps))))

/-- The largest rts granted on lines of some pages, by reads and by leases, each of which raises it (17 R311, R326). -/
def State.rtsOf (s : State) (ps : List Page) : Nat :=
  let hit (l : Nat) : Bool := ps.any (fun p => p.hasLine l)
  s.dies.foldl (fun m d => d.2.rts.foldl (fun m e => if hit e.1 then max m e.2 else m) m) 0

/-- A command begun: BUSY, the pages it affects, what its completion waits for, and the translations gone (17 R326). -/
def State.mtStart (s : State) (d : Nat) (ps : List Page) : State :=
  let s := s.modDie d (fun x => { x with
    mtStat := 1, mtPages := ps, mtGid := s.next, mtUntil := s.rtsOf ps, mtIn0 := x.mtArg0.toNat, mtIn1 := x.mtArg1.toNat, mtPtes := [] })
  { s with dies := tmapAll s.dies (fun _ x => { x with mtlb := x.mtlb.filter (fun t => !ps.contains t.page) }) }

/-- Arguments of a command (17 Table 17-8). -/
def Die.mt0 (x : Die) : Nat := x.mtArg0.toNat
/-- See `mt0`. -/
def Die.mt1 (x : Die) : Nat := x.mtArg1.toNat
/-- See `mt0`. -/
def Die.mt2 (x : Die) : Nat := x.mtArg2.toNat

/-- INV_ALL (R325): the die's MTLB holds only VAs homed on it. -/
def execInvAll (d : Nat) (s : State) : Host.Outcome State Fault Refusal :=
  s.mtCommand d 0 "INV_ALL" (fun s =>
    let x := s.die d
    if x.mt0 ≠ 0 || x.mt1 ≠ 0 || x.mt2 ≠ 0 then .next (s.mtEnd d 1) else .next (s.mtStart d (s.usedPages.filter (fun p => p.die = d))))

/-- INV_ASID (R325). -/
def execInvAsid (d : Nat) (s : State) : Host.Outcome State Fault Refusal :=
  s.mtCommand d 1 "INV_ASID" (fun s =>
    let x := s.die d
    if x.mt0 ≠ 0 || bits x.mt1 63 16 ≠ 0 || x.mt2 ≠ 0 then .next (s.mtEnd d 1)
    else .next (s.mtStart d (s.usedPages.filter (fun p => p.die = d && p.asid = bits x.mt1 15 0))))

/-- The page size of a VA's region as its entry gives it, in bits. -/
def State.regionBits (s : State) (d asid va : Nat) : Nat := pageBits (bits (s.regionEntry d asid (vaRegion va)) 2 1)

/-- The VAs homed on a die of this package begin here (01 Table 1-9). -/
def State.dieBase (s : State) (d : Nat) : Nat := (4 * s.hub.fabId.toNat + d) * 2 ^ 44

/-- Whether every VA of a range has the die as its home (17 R325): `n` pages of `2 ^ p` bytes from `va`. -/
def State.rangeOk (s : State) (d va n p : Nat) : Bool :=
  s.dieBase d ≤ va && va + (n - 1) * 2 ^ p < s.dieBase d + 2 ^ 44

/-- The pages of a range that are in use. -/
def State.rangePages (s : State) (d asid va n p : Nat) : List Page :=
  let a := va / 2 ^ p * 2 ^ p
  s.usedPages.filter (fun q => q.die = d && q.asid = asid && a ≤ q.va + (2 ^ q.bits - 1) && q.va < a + n * 2 ^ p)

/-- INV_RANGE (R325). -/
def execInvRange (d : Nat) (s : State) : Host.Outcome State Fault Refusal :=
  s.mtCommand d 2 "INV_RANGE" (fun s =>
    let x := s.die d
    let asid := bits x.mt1 15 0
    let n := bits x.mt1 47 16
    let p := s.regionBits d asid x.mt0
    if bits x.mt0 63 57 ≠ 0 || bits x.mt1 63 48 ≠ 0 || x.mt2 ≠ 0 then .next (s.mtEnd d 1)
    else if n = 0 then .next (s.mtEnd d 0)
    else if !s.rangeOk d x.mt0 n p then .next (s.mtEnd d 1)
    else .next (s.mtStart d (s.rangePages d asid x.mt0 n p)))

/-- The pages that a range's page tables map. -/
def State.mappedPages (s : State) (d asid va n p : Nat) : List Page :=
  let a := va / 2 ^ p * 2 ^ p
  (upto n).filterMap (fun i => match s.walk d asid (a + i * 2 ^ p) with | .ok q => some q | .error _ => none)

/-- The page-table entries of a range that hold a page, whatever its format: their homes and PAs. -/
def State.rangePtes (s : State) (d asid va n p : Nat) : List (Nat × Nat) :=
  let a := va / 2 ^ p * 2 ^ p
  (upto n).filterMap (fun i => match s.leafPte d asid (a + i * 2 ^ p) with
    | .ok (pte, e) => if bitAt e 0 then some (d, pte) else none
    | .error _ => none)

/-- SET_ATTR (R325, R327): accesses to its pages stall from here; the attribute changes when the command completes. -/
def execSetAttr (d : Nat) (s : State) : Host.Outcome State Fault Refusal :=
  s.mtCommand d 3 "SET_ATTR" (fun s =>
    let x := s.die d
    let asid := bits x.mt1 15 0
    let n := bits x.mt1 47 16
    let p := s.regionBits d asid x.mt0
    if bits x.mt0 63 57 ≠ 0 || bits x.mt1 63 52 ≠ 0 || x.mt2 ≠ 0 then .next (s.mtEnd d 1)
    else if n = 0 then .next (s.mtEnd d 0)
    else if !s.rangeOk d x.mt0 n p then .next (s.mtEnd d 1)
    else
      let ptes := s.rangePtes d asid x.mt0 n p
      .next ((s.mtStart d ((s.mappedPages d asid x.mt0 n p ++ s.rangePages d asid x.mt0 n p).eraseDups)).modDie d (fun x =>
        { x with mtPtes := ptes })))

/-- Valid entries of a page-table node of `n` entries: their indexes, as the die's view lists their bytes. -/
def Die.nodeEntries (d : Die) (node n : Nat) : List Nat :=
  dedup ((d.listed.filter (fun a => node ≤ a && a < node + 8 * n && (a - node) % 8 = 0 && bitAt (d.viewNat a 1) 0)).map (fun a => (a - node) / 8))

/-- The offsets, in pages, that a page table maps, from the node at `node` with the index bits left. -/
def Die.leaves (d : Die) : List Nat → Nat → Nat → List Nat
  | [], _, off => [off]
  | [b], node, off => (d.nodeEntries node (2 ^ b)).map (fun i => off * 2 ^ b + i)
  | b :: r, node, off => (d.nodeEntries node (2 ^ b)).flatMap (fun i => d.leaves r (bits (d.viewNat (node + 8 * i) 8) 51 12 * 4096) (off * 2 ^ b + i))

/-- Every page of an address space that a die maps. -/
def State.allPages (s : State) (d asid : Nat) : List Page :=
  (upto 64).flatMap (fun g =>
    let re := s.regionEntry d asid g
    let p := pageBits (bits re 2 1)
    if !bitAt re 0 then []
    else ((s.die d).leaves (levelBits (38 - p) (bits re 4 3 + 1)) (bits re 51 12 * 4096) 0).filterMap (fun o =>
      match s.walk d asid (s.dieBase d + g * 2 ^ 38 + o * 2 ^ p) with | .ok q => some q | .error _ => none))

/-- SET_FMT (R326, R327): it is carried out on all four C-dies. Log 97 (DEDUCED, unsafe). -/
def execSetFmt (d : Nat) (s : State) : Host.Outcome State Fault Refusal :=
  s.mtCommand d 4 "SET_FMT" (fun s =>
    let x := s.die d
    let asid := bits x.mt1 15 0
    let i := bits x.mt1 19 16
    if bits x.mt0 63 32 ≠ 0 || bits x.mt1 63 20 ≠ 0 || x.mt2 ≠ 0 then .next (s.mtEnd d 1)
    else
      let ps := ((upto nDies).flatMap (fun e => s.allPages e asid) ++ s.usedPages).filter (fun p => p.asid = asid && p.fix = i)
      .next (s.mtStart d ps.eraseDups))

/-- SET_REGION (R326, R327): accepted only when the old or the new entry has V = 0. Log 97 (DEDUCED, unsafe). -/
def execSetRegion (d : Nat) (s : State) : Host.Outcome State Fault Refusal :=
  s.mtCommand d 5 "SET_REGION" (fun s =>
    let x := s.die d
    let asid := bits x.mt1 15 0
    let g := bits x.mt1 21 16
    let pa (e : Nat) : Nat := s.descPa e asid + 16 * g
    if bits x.mt1 63 22 ≠ 0 then .next (s.mtEnd d 1)
    else if bitAt x.mt0 0 && (upto nDies).any (fun e => bitAt (s.regionEntry e asid g) 0) then .next (s.mtEnd d 2)
    else match (upto nDies).find? (fun e => !paOk (pa e)) with
      | some e => .fault (.noSuchPA (pa e))
      | none =>
        let s := (upto nDies).foldl (fun s e => s.physWrite (pa e) (natBytes x.mt0 8 ++ natBytes x.mt2 8)) s
        .next (s.mtStart d (s.usedPages.filter (fun p => p.asid = asid && p.region = g))))

/-- MTCMD_BAD_OP (R325, Table 17-8). -/
def execMtcmdBadOp (d op : Nat) (s : State) : Host.Outcome State Fault Refusal :=
  if op < 6 || 16 ≤ op then notEnabled "MTCMD_BAD_OP" else s.mtCommand d op "MTCMD_BAD_OP" (fun s => .next (s.mtEnd d 1))

/-- The tiles of a mapped page. -/
def Page.tiles (p : Page) : List TileRef :=
  let g := 2 ^ (p.tg + 2)
  (upto (2 ^ p.bits / g)).map (fun i => tileAt p (p.va + i * g))

/-- Every non-identity tile of some pages materialised; the Boolean is false when a header page faulted (17 R327).
Log 97 (DEDUCED, unsafe). -/
def State.matPages (s : State) (ps : List Page) : State × Bool :=
  ((ps.filter (·.map)).flatMap Page.tiles).foldl (fun (x : State × Bool) t =>
    if !x.2 then x
    else match x.1.withHeader t false with
      | (.error _, s) => (s, false)
      | (.ok t, s) => match s.forceMat t.page.die (s.vcOf t.page.die) t with
        | none => (s, false)
        | some s => (s, true)) (s, true)

/-- The new FIX in some page-table entries (17 R327). Log 97 (DEDUCED, unsafe). -/
def State.writeFix (s : State) (ptes : List (Nat × Nat)) (fix : Nat) : State :=
  ptes.eraseDups.foldl (fun s p =>
    let e := memNat s.mem.home p.2 8
    s.writePte p.1 p.2 (e - bits e 8 5 * 2 ^ 5 + fix * 2 ^ 5)) s

/-- The VAs whose translation a command has changed: `x` is its die as it completes (17 R325, R326). -/
def State.invRanges (s : State) (d op : Nat) (x : Die) : List (Option Nat × Nat × Nat) :=
  let asid := some (bits x.mtIn1 15 0)
  let b := s.dieBase d
  if op = 0 then [(none, b, b + 2 ^ 44)]
  else if op = 1 then [(asid, b, b + 2 ^ 44)]
  else if op = 5 then (upto nDies).map (fun e => (asid, s.dieBase e + bits x.mtIn1 21 16 * 2 ^ 38, s.dieBase e + (bits x.mtIn1 21 16 + 1) * 2 ^ 38))
  else if op = 4 then x.mtPages.map (fun p => (some p.asid, p.va, p.va + 2 ^ p.bits))
  else
    let va := x.mtIn0 % 2 ^ 57
    let p := s.regionBits d (bits x.mtIn1 15 0) va
    let a := va / 2 ^ p * 2 ^ p
    [(asid, a, a + bits x.mtIn1 47 16 * 2 ^ p)]

/-- From its completion on, no load under a changed translation takes a time before it, on any die: no cached copy under the old
one serves a load, and the loads of the new one read what had performed before (17 R326, 21 R387).
Log 59 (DEDUCED, unsafe). -/
def State.raiseInv (s : State) (d op : Nat) (x : Die) : State :=
  let r := s.invRanges d op x
  (upto nDies).foldl (fun s e => s.modDie e (fun y =>
    { y with invs := y.invs.filter (fun i => y.clock ≤ i.t + loadWindow) ++ r.map (fun i => { asid := i.1, lo := i.2.1, hi := i.2.2, t := y.clock }) })) s

/-- The reduce-state lines of some pages merged and out of reduce state (23 Table 23-1: SET_ATTR and SET_FMT). -/
def State.leavePages (s : State) (ps : List Page) : State :=
  s.mem.reduce.foldl (fun t e => if ps.any (fun p => p.pa / 128 ≤ lineOf e.pa && lineOf e.pa < (p.pa + 2 ^ p.bits) / 128) then t.leaveReduce e.home [lineOf e.pa]
    else t) s

/-- MTCMD_COMPLETE (R326, R327): nothing older uses the old translations, and the home clock has passed every read of their
lines. An attribute changes here, after the reduce-state lines
of its pages are merged and its tiles materialised. Log 97 (DEDUCED, unsafe). -/
def execMtcmdComplete (d : Nat) (s : State) : Host.Outcome State Fault Refusal :=
  let x := s.die d
  let op := bits x.mtCmd.toNat 3 0
  let homes := if op = 4 || op = 5 then upto nDies else [d]
  let held := (op = 3 || op = 4) && s.linesHeld (fun l => (x.mtPages.filter (·.map)).any (fun p => p.pa / 128 ≤ l && l < (p.pa + 2 ^ p.bits) / 128))
  let ready := x.mtStat.getLsbD 0 && !held && !s.pageUser x.mtPages x.mtGid && homes.all (fun e => x.mtUntil < (s.die e).clock) &&
    (upto nDies).all s.queuesOpen
  if !ready then notEnabled "MTCMD_COMPLETE"
  else if op = 3 || op = 4 then
    let asid := bits x.mtIn1 15 0
    let i := bits x.mtIn1 19 16
    let pa (e : Nat) : Nat := s.descPa e asid + 1024 + 4 * i
    match (if op = 4 then (upto nDies).find? (fun e => !paOk (pa e)) else none) with
    | some e => .fault (.noSuchPA (pa e))
    | none =>
      let (t, ok) := (s.leavePages x.mtPages).matPages x.mtPages
      if !ok then .next (t.mtEnd d 3)
      else
        let t := if op = 3 then t.writeFix x.mtPtes (bits x.mtIn1 51 48)
          else (upto nDies).foldl (fun t e => t.physWrite (pa e) (natBytes x.mtIn0 4)) t
        let t : State := { t with dies := tmapAll t.dies (fun _ y => { y with mtlb := y.mtlb.filter (fun r =>
          !x.mtPages.any (fun p => p.asid = r.asid && p.die = r.page.die && p.va = r.page.va)) }) }
        .next ((t.raiseInv d op x).mtEnd d 0)
  else .next ((s.raiseInv d op x).mtEnd d 0)

/-! ### Barrier-table commands -/

/-- A write of BTCMD: ignored before READY (18 R357, 26 R435). Log 98 (DEDUCED, unsafe). -/
def State.btCommand (s : State) (d op : Nat) (name : String) (go : State → Host.Outcome State Fault Refusal) :
    Host.Outcome State Fault Refusal :=
  if nDies ≤ d then notEnabled name else if !s.ready then .next s else go (s.modDie d (fun x => { x with btCmd := BitVec.ofNat 64 op }))

/-- A command's ERR. Log 98 (DEDUCED, unsafe). -/
def State.btEnd (s : State) (d err : Nat) : State := s.modDie d (fun x => { x with btErr := err })

/-- The image of an entry (18 R356). -/
def BtEntry.image (e : BtEntry) : List W8 := natBytes e.gid.toNat 8 ++ natBytes e.expected 4 ++ natBytes e.arrived 4 ++ natBytes e.phase 4 ++ natBytes 0 12

/-- Whether a group has a waiting thread in an active set or a loft. -/
def State.residentWait (s : State) (gid : W64) : Bool :=
  s.waits.any (fun w => (match tget s.teams (tkOfW w.wk) with | some t => t.place = .active || t.place = .loft || t.place = .leaving | none => false) &&
    (s.waitGid w = some gid || (match w.what, s.launchOf (tkOfW w.wk), tget s.teams (tkOfW w.wk) with
      | .barw id _ _, some l, some t => decide (gidOf l.num l.teamLevel id true t.idx = gid)
      | _, _, _ => false)))

/-- The image's PA, when it is good. -/
def Die.btPa (x : Die) : Option Nat := let a := x.btArg1.toNat; if a % 32 = 0 && paOk a then some a else none

/-- BT_EVICT (R357). -/
def execBtEvict (d : Nat) (s : State) : Host.Outcome State Fault Refusal :=
  s.btCommand d 0 "BT_EVICT" (fun s =>
    let x := s.die d
    match x.btPa, x.bt.find? (fun e => e.gid = x.btArg0) with
    | none, _ => .next (s.btEnd d 1)
    | some _, none => .next (s.btEnd d 2)
    | some pa, some e =>
      if s.residentWait e.gid then .next (s.btEnd d 2)
      else
        let s := (s.physWrite pa e.image).modDie d (fun x => { x with bt := x.bt.filter (· ≠ e), btOut := x.btOut ++ [(e.gid, e.node)] })
        .next (s.btEnd d 0))

/-- BT_RESTORE (R357): the entry is the node that was evicted first under its group id. Log 98 (DEDUCED, unsafe). -/
def execBtRestore (d : Nat) (s : State) : Host.Outcome State Fault Refusal :=
  s.btCommand d 1 "BT_RESTORE" (fun s =>
    let x := s.die d
    match x.btPa with
    | none => .next (s.btEnd d 1)
    | some pa =>
      let b := (upto 32).map (fun i => s.homeByte (pa + i))
      let gid := BitVec.ofNat 64 (at' b 0 8)
      let node := match x.btOut.find? (fun y => y.1 = gid) with | some y => y.2 | none => 0
      let e : BtEntry := { gid := gid, node := node, expected := at' b 8 4, arrived := at' b 0xC 4, phase := at' b 0x10 4 }
      if x.bt.any (fun y => y.is gid node) then .next (s.btEnd d 1)
      else if 4096 ≤ x.bt.length then .next (s.btEnd d 3)
      else .next ((s.modDie d (fun x => { x with bt := x.bt ++ [e], btOut := x.btOut.filter (· ≠ (gid, node)) })).btEnd d 0))

/-- BTCMD_BAD_OP (R357, Table 18-6). -/
def execBtcmdBadOp (d op : Nat) (s : State) : Host.Outcome State Fault Refusal :=
  if op = 2 || op = 3 then s.btCommand d op "BTCMD_BAD_OP" (fun s => .next (s.btEnd d 1)) else notEnabled "BTCMD_BAD_OP"

end Sys2Proof.Machine
end

