-- ==== Sys2Proof/Machine/EvPark.lean ====
section
/-! DEFINITION. Fault commands on parked lanes, and the replays that they ask for (20 R367 to R369, 12 R227, 08 R156, 15
R279). -/

namespace Sys2Proof.Machine

/-! ### Replays -/

/-- The access of a lane made again from its replay record (12 R227). -/
def State.replayLane (s : State) (tid : Nat) (k : Kept) : State × MemEnd :=
  let o : MemOps := { a := k.a.toNat, x := k.x.toNat, b := k.b, c := k.data }
  let atom (p : Nat) (m : Option ModW) (f : Alu) : State × MemEnd := s.laneAtom tid p m f.nw f.vd.toNat o k.pc k.words
  let red (p : Nat) (m : Option ModW) : State × MemEnd := s.laneRed tid p m o k.pc k.words
  match wordsInstr k.words with
  | some (.ld m f) => s.laneLoad tid false m f.nw f.vd.toNat { o with d := dispOf f.d } k.pc k.words
  | some (.ldraw m f) => s.laneLoad tid true m f.nw f.vd.toNat { o with d := dispOf f.d } k.pc k.words
  | some (.st m f) =>
    let data (s : State) (w : Nat) : State × Except (Nat × W64) W64 :=
      if k.pd then (s, .ok k.data)
      else s.readData { tid := tid, base := s.thread tid, t := s.thread tid, latch := [], s := (s.wave (wkOf tid)).s } f.vd f.nw w
    s.laneStore tid m f.vd.toNat { o with d := dispOf f.d } k.pc k.words data
      (fun s => if k.pd then hi32 k.data else regValue (s.thread tid) (f.vd.toNat + 1))
  | some (.atomAdd m f) => atom 0x088 m f
  | some (.atomMin m f) => atom 0x089 m f
  | some (.atomMax m f) => atom 0x08A m f
  | some (.atomAnd m f) => atom 0x08B m f
  | some (.atomOr m f) => atom 0x08C m f
  | some (.atomXor m f) => atom 0x08D m f
  | some (.atomXchg m f) => atom 0x08E m f
  | some (.atomCas m f) => s.laneAtom tid 0x08F m f.nw f.vd.toNat { a := k.a.toNat, b := k.b, c := k.x } k.pc k.words
  | some (.atomFadd m f) => atom 0x090 m f
  | some (.atomFmax m f) => atom 0x091 m f
  | some (.amaxi m f) => atom 0x092 m f
  | some (.redAdd m _) => red 0x093 m
  | some (.redMax m _) => red 0x094 m
  | some (.redEsum m _) => red 0x095 m
  | _ => (s, .done (.val 0))

/-- A thread's replay over: it goes on at a PC. -/
def State.replayDone (s : State) (tids : List Nat) (next : Va) : State :=
  tids.foldl (fun s t => (s.modThread t (fun x => { x with replay := false, park := none, kept := none })).file t next) s

/-- A lane's replay: it goes on, waits for a held atomic, traps, or parks again with a new record. -/
def State.replayOne (s : State) (tid : Nat) (k : Kept) : State :=
  let s := s.modThread tid (fun t => { t with replay := false, park := none })
  match s.replayLane tid k with
  | (s, .done (.pend g)) =>
    match tget s.accs g with
    | some a =>
      if a.held then (s.modThread tid (fun t => { t with kept := none })).addWait
          { wk := wkOf tid, tids := [tid], pc := k.pc, next := afterPc k.pc k.words, what := .held g }
      else s.replayDone [tid] (afterPc k.pc k.words)
    | none => s.replayDone [tid] (afterPc k.pc k.words)
  | (s, .done _) => s.replayDone [tid] (afterPc k.pc k.words)
  | (s, .trap c v) => (s.modThread tid (fun t => { t with kept := none })).deliver [tid] c k.pc k.pc k.words v
  | (s, .fault f opb rd) =>
    let k := match wordsInstr k.words with | some (.st _ _) => { k with data := opb, pd := rd } | _ => k
    s.parkLane ⟨tid, f, k, opb⟩

/-- The instruction of a fragment, or of the lanes of a ring load, made again from its replay record. -/
def State.replayFrag (s : State) (fr : List Nat) (k : Kept) : State :=
  let next := afterPc k.pc k.words
  let s := s.modThreads fr (fun _ t => { t with replay := false, park := none, kept := none })
  let uni (x : State × UniEnd) : State :=
    match x with | (s, .done) => s.replayDone fr next | (s, .fault f) => s.parkFrag fr f k k.b
  let app (want : Option Nat) : State :=
    match s.appendOp fr want k.a k.b with
    | (s, .done) => s.replayDone fr next
    | (s, .trap) => s.deliver fr tEngineParam k.pc k.pc k.words 0
    | (s, .fault f) => s.parkFrag fr f k k.b
  let tile (op : Nat) (m : Option ModW) : State :=
    let (s, e) := s.tileOp fr op k.a k.b k.x (modeOf m (s.thread (fr.headD 0))) k.tile k.pc k.words
    s.tileEnd fr k.a k.b k.x k.tile k.pc k.words e
  match wordsInstr k.words with
  | some (.sld m f) => uni (s.fragLoad fr m f.sd.toNat k.a f.d.toInt k.pc k.words)
  | some (.sst m f) => uni (s.fragStore fr m k.b k.a f.d.toInt k.pc k.words)
  | some (.tread _ f) => uni (s.treadOp fr f.sa.toNat k.b k.pc k.words)
  | some (.tfill m _) => tile 0 m
  | some (.taff m _) => tile 1 m
  | some (.tclamp m _) => tile 2 m
  | some (.tperm m _) => tile 3 m
  | some (.tmat m _) => tile 4 m
  | some (.chapp _ _) => app none
  | some (.launch _ _) => app (some 4)
  | some (.nlaunch _ _) => app (some 5)
  | some (.coll _ _) => app (some 2)
  | some (.topk _ _) => app (some 3)
  | some (.gath _ _) => app (some 1)
  | some (.waitseq _ f) => s.waitseqOp fr f.sb.toNat k.a k.b f.imm.toNat k.pc k.words
  | some (.stkLdring m f) =>
    let va := (((k.a.toNat : Int) + dispOf f.d).emod (2 ^ 57 : Nat)).toNat
    let low := lowestLane fr
    match s.ringLoad (low :: fr.filter (· ≠ low)) (stkTy (tyCode m)) f.vd.toNat va k with
    | (s, true) => s.replayDone fr next
    | (s, false) => s
  | _ => s.replayDone fr next

/-- The threads that replay together with one: itself, or those of its event that were unparked with it. -/
def State.replaySet (s : State) (tid : Nat) : List Nat :=
  match (s.thread tid).park with
  | some p =>
    if p.set = .lane then [tid]
    else (s.teamLive (tkOf tid)).filter (fun t => (s.thread t).replay && (match (s.thread t).park with
      | some q => q.grp = p.grp && q.set = p.set | none => false))
  | none => [tid]

/-- The replay that the issuing sheaf's first replaying thread asks for, when it has one: those threads leave the sheaf. -/
def State.replayFront (s : State) : Option State :=
  match s.front with
  | none => none
  | some h => match h.active.find? (fun t => (s.thread t).replay) with
    | none => none
    | some t =>
      let ts := s.replaySet t
      let k := ((s.thread t).kept).getD { pc := h.pc }
      let set := match (s.thread t).park with | some p => p.set | none => .lane
      let mine := h.tids.filter ts.contains
      let h' := { h with tids := h.tids.filter (fun x => !ts.contains x) }
      let s := if h'.tids.isEmpty then s.dropFront else if h'.active.isEmpty then s.endSheaf h' (fun _ => h.pc) else s.setFront h'
      let s := (ts.filter (fun x => !mine.contains x)).foldl (fun s x => if (s.thread x).stat = .inSheaf then s.pullThread x else s) s
      let s := if set = .lane then s.replayOne t k else s.replayFrag ts k
      some (s.cleanBins h.core)

/-! ### Accesses that failed after their thread had gone on -/

/-- What awaits access `g` awaits access `g'` instead, of one thread. -/
def State.retarget (s : State) (tid g g' : Nat) (old : Tbl Nat) : State :=
  let row (r : Option (Tbl LatchVal)) : Option (Tbl LatchVal) :=
    r.map (fun t => t.map (fun e => (e.1, if e.2 = .pend g then .pend g' else e.2)))
  let s := s.modThread tid (fun t => { t with pend := old.map (fun e => (e.1, if e.2 = g then g' else e.2)) })
  { s with
    sheaves := s.sheaves.map (fun h => { h with latch := h.latch.map row })
    teams := tmapAll s.teams (fun _ t => { t with saved := t.saved.map (fun x => { x with latch := x.latch.map row }) })
    waits := s.waits.map (fun w => if w.what = .held g then { w with what := .held g' } else w) }

/-- A thread or a fragment that was parked late stands where it stood; a trap still owed to it is delivered (08 R143). -/
def State.stand (s : State) (tids : List Nat) : State :=
  tids.foldl (fun s t => match (s.thread t).park with
    | some p =>
      let owed := (s.thread t).owed
      let s := s.modThread t (fun x => { x with park := none, stat := p.was, owed := none })
      let s := if p.was = .ready || p.was = .inSheaf then s.file t p.rpc else s
      (match owed with | some x => s.deliverLanes [x] | none => s)
    | none => s) s

/-- A park's access for a new late park. Log 92 (DEDUCED, unsafe). -/
def lateAcc (s : State) (tid : Nat) (p : Park) (k : Kept) (uni : Bool) : Acc :=
  { gid := p.gid, owner := if uni then .uni (wkOf tid) else .thread tid, core := 0, die := 0, kind := .load, pc := p.pc, words := p.words,
    asid := s.asidOf tid, kept := k }

/-- A lane's access that failed late, made again: its result goes where the first one's was to go.
Log 92 (DEDUCED, unsafe). -/
def State.replayLate (s : State) (tid : Nat) (p : Park) (k : Kept) : State :=
  let old := (s.thread tid).pend
  match s.replayLane tid k with
  | (s, .done (.pend g')) => (s.retarget tid p.gid g' old).stand [tid]
  | (s, .done _) => s.stand [tid]
  | (s, .trap c v) => (s.stand [tid]).deliver [tid] c p.pc p.pc p.words v
  | (s, .fault f _ _) => (s.stand [tid]).parkLateAs f.kind (lateAcc s tid p k false) [tid] .lane f.access f.va k

/-- A fragment's. -/
def State.replayLateFrag (s : State) (fr : List Nat) (p : Park) (k : Kept) : State :=
  let wk := wkOf (fr.headD 0)
  let old := (s.wave wk).pend
  let back (s : State) (e : UniEnd) : State :=
    match e with
    | .done =>
      let g' := s.next - 1
      let g' := match (s.wave wk).uq.iq.filterMap (fun g => tget s.accs g) |>.filter (fun a => a.kind ≠ .fence) |>.getLast? with
        | some a => a.gid | none => g'
      (s.modWave wk (fun w => { w with pend := old.map (fun e => (e.1, if e.2 = p.gid then g' else e.2)) })).stand fr
    | .fault f => (s.stand fr).parkLateAs f.kind (lateAcc s (fr.headD 0) p k true) fr .fragment f.access f.va k
  match wordsInstr k.words with
  | some (.sld m f) => let (s, e) := s.fragLoad fr m f.sd.toNat k.a f.d.toInt k.pc k.words; back s e
  | some (.sst m f) => let (s, e) := s.fragStore fr m k.b k.a f.d.toInt k.pc k.words; back s e
  | some (.tread _ f) => let (s, e) := s.treadOp fr f.sa.toNat k.b k.pc k.words; back s e
  | some (.stkLdring m f) =>
    let va := (((k.a.toNat : Int) + dispOf f.d).emod (2 ^ 57 : Nat)).toNat
    let low := lowestLane fr
    ((s.stand fr).ringLoad (low :: fr.filter (· ≠ low)) (stkTy (tyCode m)) f.vd.toNat va k).1
  | _ => s.stand fr

/-- An access that failed late given up: the register keeps its value, and a latch entry that awaits it gets a free value (log
entry 3). Log 92 (DEDUCED, unsafe). Log 99 (DEDUCED, unsafe). -/
def State.dropLate (s : State) (tids : List Nat) (g : Nat) : State :=
  if g = 0 then s
  else
    let (v, s) := s.takeFree
    let s := (s.fillLatches g v).modThreads tids (fun _ t => { t with pend := t.pend.filter (fun e => e.2 ≠ g) })
    let s := (dedup (tids.map wkOf)).foldl (fun s w => s.modWave w (fun x => { x with pend := x.pend.filter (fun e => e.2 ≠ g) })) s
    let s := match tget s.accs g with | some a => s.finishAcc a 0 | none => s
    let s := (s.stationLoads.filter (fun x => x.g = g)).foldl (fun s x => s.setStation x.team x.w (stReady (s.station x.team x.w))) s
    { s with
      stationLoads := s.stationLoads.filter (fun x => x.g ≠ g)
      execs := tmapAll s.execs (fun _ c => { c with products := c.products.filter (fun p => p.g ≠ g || p.read) }) }

/-! ### Fault commands -/

/-- Fields of a token (20 Table 20-3). -/
structure Token where
  frame : Nat
  vf : Nat
  wave : Nat
  mask : Nat
  deriving DecidableEq, Repr

/-- A token's fields. -/
def tokenOf (w : W64) : Token :=
  { frame := bits w.toNat 15 0, vf := bits w.toNat 21 16, wave := bits w.toNat 26 22, mask := bits w.toNat 63 32 }

/-- The team that a token names, on whatever die (20 R369, R370). -/
def State.tokenTeam (s : State) (t : Token) : Option Nat :=
  ((s.teams.filter (fun e => e.2.vf = t.vf && e.2.frame = some t.frame && e.2.place ≠ .ended)).head?).map (·.1)

/-- The parked lanes that a command acts on: those named, and the others of their sets (20 R369). -/
def State.named (s : State) (tk : Nat) (t : Token) : List Nat :=
  let parked := (s.teamLive tk).filter (fun x => (s.thread x).stat = .parked)
  let hit := parked.filter (fun x => waveIdx (wkOf x) = t.wave && bitAt t.mask (laneOf x))
  let grp (x : Nat) : Option Nat := match (s.thread x).park with | some p => if p.set = .lane then none else some p.grp | none => none
  let gs := hit.filterMap grp
  parked.filter (fun x => hit.contains x || (match grp x with | some g => gs.contains g | none => false))

/-- The sets of some parked lanes, one lane each or one event each. -/
def State.parkSets (s : State) (ts : List Nat) : List (List Nat) :=
  let key (x : Nat) : Nat × Nat := match (s.thread x).park with | some p => if p.set = .lane then (0, x) else (1, p.grp) | none => (0, x)
  ((ts.map key).eraseDups).map (fun k => ts.filter (fun x => key x = k))

/-- UNPARK of a set (20 Table 20-4). A replay waits until its threads issue. Log 99 (DEDUCED, unsafe). -/
def State.unparkSet (s : State) (ts : List Nat) : State :=
  match (s.thread (ts.headD 0)).park with
  | none => s
  | some p => match p.late with
    | some k =>
      if p.set = .lane then s.replayLate (ts.headD 0) p k
      else if p.set = .fragment then s.replayLateFrag ts p k
      else s.stand ts
    | none =>
      if p.trap then
        ts.foldl (fun s t => (s.modThread t (fun x => { x with park := none, kept := none })).file t p.rpc) s
      else if p.access = 4 then ts.foldl (fun s t => (s.modThread t (fun x => { x with park := none })).file t p.pc) s
      else if p.set = .wave || p.set = .gang then s.modThreads ts (fun _ t => { t with park := none, stat := .rendezvous })
      else ts.foldl (fun s t => (s.modThread t (fun x => { x with replay := true })).file t p.pc) s

/-- SKIP of a set: the next instruction, or for an access that failed late, where the thread stood.
Log 99 (DEDUCED, unsafe). -/
def State.skipSet (s : State) (ts : List Nat) : State :=
  match (s.thread (ts.headD 0)).park with
  | none => s
  | some p => match p.late with
    | some _ =>
      let s := (s.dropLate ts p.gid).stand ts
      let ws := s.waits.filter (fun w => w.what = .held p.gid)
      ws.foldl (fun s w => s.endWait w) s
    | none => ts.foldl (fun s t => (s.modThread t (fun x => { x with park := none, kept := none })).file t (afterPc p.pc p.words)) s

/-- KILL of a set. Log 99 (DEDUCED, unsafe). -/
def State.killSet (s : State) (ts : List Nat) : State :=
  let s := match (s.thread (ts.headD 0)).park with | some p => if p.late.isSome then s.dropLate ts p.gid else s | none => s
  ts.foldl (fun s t => s.exitThread t) s

/-- TRAP of a set: each lane enters its handler at the fault's kind. Log 99 (DEDUCED, unsafe). -/
def State.trapSet (s : State) (ts : List Nat) : State :=
  match (s.thread (ts.headD 0)).park with
  | none => s
  | some p =>
    let s := if p.late.isSome then s.dropLate ts p.gid else s
    let rest (w : Wait) : Wait := { w with tids := w.tids.filter (fun t => !ts.contains t) }
    let s : State := { s with waits := (s.waits.map rest).filter (fun w => !w.tids.isEmpty) }
    ts.foldl (fun s t => s.enterHandler t p.kind p.pc p.pc p.words p.val) s

/-- ERR of FQSTAT. -/
def State.fqEnd (s : State) (d err : Nat) : State := s.modDie d (fun x => { x with fqStat := BitVec.ofNat 64 (2 * err) })

/-- A write of FQCMD: the lanes that its token names, or the error it ends with (20 R369, R383, 26 R435). -/
def State.fqCommand (s : State) (d op : Nat) (name : String) (go : State → List (List Nat) → State) : Host.Outcome State Fault Refusal :=
  if nDies ≤ d then notEnabled name
  else if !s.ready then .next s
  else
    let s := s.modDie d (fun x => { x with fqCmd := BitVec.ofNat 64 op })
    let t := tokenOf (s.die d).fqArg
    if bits (s.die d).fqArg.toNat 31 27 ≠ 0 then .next (s.fqEnd d 1)
    else match s.tokenTeam t with
      | none => .next (s.fqEnd d 2)
      | some tk =>
        let ts := s.named tk t
        if ts.isEmpty then .next (s.fqEnd d 2)
        else if op = 3 && !bitAt (s.trapRegs tk).tvec.toNat 0 then .next (s.fqEnd d 3)
        else .next ((go s (s.parkSets ts)).fqEnd d 0)

/-- UNPARK (R369). -/
def execUnpark (d : Nat) (s : State) : Host.Outcome State Fault Refusal :=
  s.fqCommand d 0 "UNPARK" (fun s l => l.foldl State.unparkSet s)

/-- SKIP (R369). -/
def execSkip (d : Nat) (s : State) : Host.Outcome State Fault Refusal :=
  s.fqCommand d 1 "SKIP" (fun s l => l.foldl State.skipSet s)

/-- KILL (R369). -/
def execKill (d : Nat) (s : State) : Host.Outcome State Fault Refusal :=
  s.fqCommand d 2 "KILL" (fun s l => l.foldl State.killSet s)

/-- FQCMD_TRAP (R369, R364). -/
def execFqcmdTrap (d : Nat) (s : State) : Host.Outcome State Fault Refusal :=
  s.fqCommand d 3 "FQCMD_TRAP" (fun s l => l.foldl State.trapSet s)

end Sys2Proof.Machine
end

