-- ==== Sys2Proof/Machine/EvDebug.lean ====
section
/-! DEFINITION. The debug commands, and a team's state by its place in a context frame (20 R374, R375, R378, R383, Table
20-5). A reserved byte of a frame reads 0 and a write of it is ignored (00 R3). -/

namespace Sys2Proof.Machine

/-! ### Writes -/

/-- Registers made live or freed by a written mask: one that becomes live holds `v`. -/
def Thread.setMask (t : Thread) (m : W64) (fr : Bool) (v : W32) : Thread :=
  { t with regs := (upto 64).foldl (fun r n =>
      let old := tgetD r n .unwritten
      let new : VReg :=
        if fr then (if bitAt m.toNat n then .freed else if old = .freed then .unwritten else old)
        else if bitAt m.toNat n then (if old.isLive then old else .live v) else if old.isLive then .unwritten else old
      if new = old then r else tset r n new) t.regs }

/-- A register's slot written: a register that holds nothing has none (01 R19). -/
def Thread.setSlot (t : Thread) (n : Nat) (v : W32) : Thread :=
  match tget t.regs n with | some (.live _) => { t with regs := tset t.regs n (.live v) } | _ => t

/-- A word of a thread's state written, but for its PC and state. Log 109 (DESIGN CHOICE, unsafe). -/
def setThreadWord (t : Thread) (o : Nat) (v : W64) (fv : W32) : Thread :=
  match o with
  | 2 => { t with fcr := fcrWrite t.fcr (lo32 v), hctr := hi32 v }
  | 3 => { t with hkey := v }
  | 4 => { t with p := v.setWidth 8 &&& 0x7F#8 }
  | 5 => t.setMask v false fv
  | 6 => t.setMask v true fv
  | 7 => { t with poison := v }
  | _ => if 8 ≤ o then { t with kept := some (setKept (t.kept.getD {}) (o - 8) v) } else t

/-- A thread taken out of its wait, rendezvous or park. Log 109 (DESIGN CHOICE, unsafe). -/
def State.freeThread (s : State) (tid : Nat) : State :=
  let rest (w : Wait) : Wait := { w with tids := w.tids.filter (· ≠ tid) }
  let s := s.modThread tid (fun t => { t with park := none, kept := none })
  { s with waits := (s.waits.map rest).filter (fun w => !w.tids.isEmpty) }

/-- A thread's state word written: it stands as written. One made to wait, or parked, has no event of its own that would end
that. Log 109 (DESIGN CHOICE, unsafe). -/
def State.setStat (s : State) (tid : Nat) (v : W64) : State :=
  let t := s.thread tid
  let c := wordItem v 4 0
  let s := s.modThread tid (fun t => { t with sup := v.getLsbD 4, replay := v.getLsbD 5 })
  let stand (f : Thread → Thread) : State :=
    let s := (s.pullThread tid).freeThread tid
    s.modThread tid f
  if c = statCode t || 5 < c then s
  else if c = 5 then s.exitThread tid
  else if c = 0 || c = 4 then
    if t.stat = .ready || t.stat = .inSheaf then s else (s.freeThread tid).file tid t.pc
  else if c = 1 then stand (fun x => { x with stat := .rendezvous, kept := some (t.kept.getD { pc := t.pc }) })
  else if c = 2 then stand (fun x => { x with stat := .waiting, kept := t.kept })
  else
    let k := t.kept.getD { pc := t.pc }
    let p : Park := { kind := 0, set := .lane, grp := tid, trap := false, val := 0, rpc := k.pc, pc := k.pc, words := k.words, access := 0 }
    stand (fun x => { x with stat := .parked, kept := some k, park := some p })

/-- A thread's PC written: a ready one is filed there. -/
def State.setPc (s : State) (tid : Nat) (pc : Va) : State :=
  let s := s.pullThread tid
  let t := s.thread tid
  if t.stat = .ready || t.stat = .inSheaf then s.file tid pc else s.modThread tid (fun t => { t with pc := pc })

/-- A word of a wave's state written. -/
def setWaveWord (w : Wave) (o : Nat) (v : W64) : Wave :=
  if o < 0x200 then { w with s := tset w.s (o / 8) v }
  else if o = 0x200 then { w with q := v.setWidth 8 }
  else if o = 0x208 then { w with gang := v &&& gangMask }
  else if o = 0x210 then { w with mprog := (w.mprog >>> 64 <<< 64) ||| ((v &&& 0xFFFFFFFF0F#64).setWidth 128) }
  else if o = 0x218 then { w with mprog := (w.mprog.setWidth 64).setWidth 128 ||| (((v.setWidth 57).setWidth 128) <<< 64) }
  else if o = 0x220 then { w with yieldBit := v.getLsbD 0, haltBit := v.getLsbD 1 }
  else if 0x240 ≤ o && o < 0x270 then { w with frag := some (setKept (w.frag.getD {}) ((o - 0x240) / 8) v) }
  else w

/-- A word of a saved sheaf written, its threads those of team `tk`. -/
def setSavedWord (tk : Nat) (x : SavedSheaf) (o : Nat) (v : W64) : SavedSheaf :=
  if o = 0 then { x with pc := v.setWidth 57 }
  else if o = 8 then { x with tids := (x.tids ++ List.replicate 32 (1024 * tk)).take (min 32 v.toNat) }
  else if 0x40 ≤ o then
    { x with tids := ((upto x.tids.length).zip x.tids).map (fun e =>
        let i := (o - 0x40) / 2
        if i ≤ e.1 && e.1 < i + 4 then 1024 * tk + wordItem v 16 (e.1 - i) % 1024 else e.2) }
  else x

/-- A latch entry of a saved sheaf written. -/
def setSavedLatch (x : SavedSheaf) (b l : Nat) (v : W64) : SavedSheaf :=
  match x.tids[l]? with
  | some t => { x with latch := lset x.latch b (some (tset ((x.latch.getD b none).getD []) t (.val v))) }
  | none => x

/-- Element `i` of a list changed. -/
def lmod {α : Type} (l : List α) (i : Nat) (f : α → α) : List α :=
  match l[i]? with | some x => lset l i (f x) | none => l

/-- A ring's image with 8 bytes written. -/
def setRingWord (r : Ring) (o : Nat) (v : W64) : Ring :=
  let n := max r.image.length (o + 8)
  let img := r.image ++ List.replicate (n - r.image.length) 0
  { r with image := img.take o ++ natBytes v.toNat 8 ++ img.drop (o + 8) }

/-- A team's identity or flags written; a launch number that names no launch held by the die is kept as written.
Log 108 (DEDUCED, unsafe). Log 109 (DESIGN CHOICE, unsafe). -/
def State.setTeamWord (s : State) (tk o : Nat) (v : W64) : State :=
  let n := v.toNat
  if o = 0 then
    let d := bits n 17 16
    let l := (s.launches.find? (fun e => e.2.num = bits n 15 0 && (s.die d).admitted.contains e.1)).map (·.1)
    s.modTeam tk (fun t => { t with
      launch := l.getD t.launch, num := if l.isSome then none else some (bits n 15 0), die := d, idx := bits n 63 24 })
  else if o = 8 then s.modTeam tk (fun t => { t with
    valid := v.getLsbD 0, det := v.getLsbD 1, idem := v.getLsbD 2, spilled := v.getLsbD 3, tilesOut := v.getLsbD 4,
    spb := bits n 14 8, acc := bits n 20 16, waves := bits n 29 24 })
  else s

/-- The bits of a station descriptor that are not reserved (14 Table 14-3). -/
def stationMask : W64 := 0x03FFFFFF007F3F07

/-- The word at a frame offset of a team written (20 R378); `fv` is a free value. Log 101 (DEDUCED, unsafe). -/
def State.frameSet (s : State) (tk o : Nat) (v fv : W64) : State :=
  match tget s.teams tk with
  | none => s
  | some t =>
    let rings (f : List Ring → List Ring) : State :=
      s.modTeam tk (fun t => { t with rings := f ((upto 4).map (fun i => t.rings.getD i {})) })
    if o < 0x40 then s.setTeamWord tk o v
    else if o < 0x80 then s.setStation tk ((o - 0x40) / 8) (v &&& stationMask)
    else if o = 0x80 then rings (fun l => ((upto l.length).zip l).map (fun e => { e.2 with bound := wordItem v 8 e.1 }))
    else if 0x100 ≤ o && o < 0x140 then
      let a := (o - 0x100) / 4
      (s.setRowPoison tk a (lo32 v)).setRowPoison tk (a + 1) (hi32 v)
    else if 0x800 ≤ o && o < 0x1000 then
      s.modTeam tk (fun t => { t with saved := lmod t.saved ((o - 0x800) / 128) (fun x => setSavedWord tk x ((o - 0x800) % 128) v) })
    else if 0x1000 ≤ o && o < 0x9000 then
      let k := o - 0x1000
      s.modTeam tk (fun t => { t with saved := lmod t.saved (k / 2048) (fun x => setSavedLatch x (k % 2048 / 256) (k % 256 / 8) v) })
    else if 0x10000 ≤ o && o < 0x18000 then
      let wk := 32 * tk + (o - 0x10000) / 1024
      let s := if o % 1024 = 0x220 && v.getLsbD 1 && !s.halted wk then (s.interruptWaves (s.coreOf (tkOfW wk)) (· = wk)).haltWave wk [] else s
      s.modWave wk (fun w => setWaveWord w (o % 1024) v)
    else if 0x20000 ≤ o && o < 0x40000 then
      let tid := 1024 * tk + (o - 0x20000) / 128
      let k := o % 128 / 8
      if (tget s.threads tid).isNone then s
      else if k = 0 then s.setPc tid (v.setWidth 57)
      else if k = 1 then s.setStat tid v
      else s.modThread tid (fun t => setThreadWord t k v (lo32 fv))
    else if 0x80000 ≤ o && o < 0xC0000 then
      rings (fun l => lmod l ((o - 0x80000) / 65536) (fun r => setRingWord r (o % 65536) v))
    else if 0xC0000 ≤ o && o < 0x100000 then
      s.modThread (1024 * tk + (o - 0xC0000) / 256) (fun t =>
        (t.setSlot (o % 256 / 4) (lo32 v)).setSlot (o % 256 / 4 + 1) (hi32 v))
    else if 0x100000 ≤ o && o < 0x100000 + 0x4000 * t.acc then
      let k := (o - 0x100000) / 4
      s.modAccs tk (fun m => tset (tset m k (lo32 v)) (k + 1) (hi32 v))
    else if 0x200000 ≤ o && o < 0x200000 + 0x4000 * t.spb then s.spWrite tk (cellsAt (o - 0x200000) (natBytes v.toNat 8))
    else s

/-! ### Commands -/

/-- ERR of DBGSTAT. -/
def State.dbgEnd (s : State) (d err : Nat) : State := s.modDie d (fun x => { x with dbgErr := err })

/-- Whether a team has a halted wave. -/
def State.teamHalted (s : State) (tk : Nat) : Bool := s.waves.any (fun e => tkOfW e.1 = tk && e.2.haltBit)

/-- A debug command of one operation (20 R378, R383): the team and the wave that its token names, or the error it ends
with. -/
def State.dbgCommand (s : State) (d op : Nat) (name : String) (go : State → Nat → Nat → Except Nat State) :
    Host.Outcome State Fault Refusal :=
  if nDies ≤ d then notEnabled name
  else if !s.ready then .next s
  else
    let s := s.modDie d (fun x => { x with dbgCmd := BitVec.ofNat 64 op })
    let t := tokenOf (s.die d).dbgArg0
    if !s.debugged t.vf d then .next (s.dbgEnd d 3)
    else if bits (s.die d).dbgArg0.toNat 31 27 ≠ 0 then .next (s.dbgEnd d 1)
    else match s.tokenTeam t with
      | none => .next (s.dbgEnd d 1)
      | some tk =>
        let wk := 32 * tk + t.wave
        if (tget s.waves wk).isNone then .next (s.dbgEnd d 1)
        else match go s tk wk with
          | .ok s => .next (s.dbgEnd d 0)
          | .error e => .next (s.dbgEnd d e)

/-- HALT (R378, R374, 14 R273). -/
def execHalt (d : Nat) (s : State) : Host.Outcome State Fault Refusal :=
  s.dbgCommand d 0 "HALT" (fun s tk wk =>
    if (s.liveOf wk).isEmpty then .error 1
    else .ok ((s.interruptWaves (s.coreOf tk) (· = wk)).haltWave wk []))

/-- A step of the device that is taken where it is enabled. -/
def State.tryStep (s : State) (f : State → Host.Outcome State Fault Refusal) : State := match f s with | .next s => s | _ => s

/-- The end of a halt: a swap whose trigger has come, whatever it is, starts first (20 R374, R375, 18 R345). -/
def State.resumeWave (s : State) (tk wk : Nat) : State :=
  let s := s.modWave wk (fun w => { w with haltBit := false, stepping := [] })
  let c := s.coreOf tk
  if s.teamActive tk then ((s.tryStep (execTimeSliceExpiry c)).tryStep (execBlockedTimeout c)).tryStep (execLoftSwap c) else s

/-- RESUME (R378, R374, R375). Log 108 (DEDUCED, unsafe). -/
def execResume (d : Nat) (s : State) : Host.Outcome State Fault Refusal :=
  s.dbgCommand d 1 "RESUME" (fun s tk wk => if s.halted wk then .ok (s.resumeWave tk wk) else .error 2)

/-- STEP (R378): each ready thread may issue once. Log 108 (DEDUCED, unsafe). -/
def execStep (d : Nat) (s : State) : Host.Outcome State Fault Refusal :=
  s.dbgCommand d 2 "STEP" (fun s _ wk =>
    if s.halted wk then
      .ok (s.modWave wk (fun w => { w with stepping := (s.liveOf wk).filter (fun t => (s.thread t).stat = .ready) }))
    else .error 2)

/-- The frame offset of DBGARG1. -/
def State.dbgOff (s : State) (d : Nat) : Nat := 8 * bits (s.die d).dbgArg1.toNat 21 3

/-- Whether READ and WRITE reach a team: it has a halted wave or is out of the active set.
Log 108 (DEDUCED, unsafe). -/
def State.dbgReach (s : State) (tk : Nat) : Bool := s.teamHalted tk || !s.teamActive tk

/-- DBG_READ (R378). Log 108 (DEDUCED, unsafe). -/
def execDbgRead (d : Nat) (s : State) : Host.Outcome State Fault Refusal :=
  s.dbgCommand d 3 "DBG_READ" (fun s tk _ =>
    if !s.dbgReach tk then .error 2
    else
      let (v, s) := s.takeFree
      .ok (s.modDie d (fun x => { x with dbgData := BitVec.ofNat 64 (s.frameGet tk (s.dbgOff d) v) })))

/-- DBG_WRITE (R378): the state of a team that is out goes to its frame in memory as well.
Log 108 (DEDUCED, unsafe). -/
def execDbgWrite (d : Nat) (s : State) : Host.Outcome State Fault Refusal :=
  s.dbgCommand d 4 "DBG_WRITE" (fun s tk _ =>
    if !s.dbgReach tk then .error 2
    else
      let (v, s) := s.takeFree
      let t := s.frameSet tk (s.dbgOff d) (s.die d).dbgData v
      .ok (if s.isOut tk && (s.badFrame [tk]).isNone then t.writeFrame tk (span (s.dbgOff d) 8) v else t))

/-- DBGCMD_BAD_OP (R378, Table 20-8): operations 5 to 7. -/
def execDbgcmdBadOp (d op : Nat) (s : State) : Host.Outcome State Fault Refusal :=
  if nDies ≤ d || op < 5 || 7 < op then notEnabled "DBGCMD_BAD_OP"
  else if !s.ready then .next s
  else .next ((s.modDie d (fun x => { x with dbgCmd := BitVec.ofNat 64 op })).dbgEnd d 1)

end Sys2Proof.Machine
end

