-- ==== Sys2Proof/Machine/EvReg.lean ====
section
/-! DEFINITION. Writes of management registers (00 R3, 17 R331, 18 R337, R357, 20 R370, R383, 23 R404, 25 R417, R422, R423, 26
R426, R432, R435, R441): each has its register's own behaviour, and REGISTER_WRITE is every other one. A register that the
driver writes before READY is ignored. -/

namespace Sys2Proof.Machine

/-! ### Functions and queues -/

/-- NEGO_WRITE (R423). Log 110 (DEDUCED, unsafe). -/
def execNegoWrite (v : Nat) (val : W64) (s : State) : Host.Outcome State Fault Refusal :=
  if nVfs ≤ v then notEnabled "NEGO_WRITE"
  else if !s.ready || !val.getLsbD 0 then .next s
  else
    let req (i : Nat) : W64 := tgetD (s.vf v).feat i 0
    if (req 0).getLsbD 0 && (upto 8).all (fun i => req i &&& ~~~ dfeat i = 0) then
      .next (s.modVf v (fun x => { x with feat := (upto 8).map (fun i => (i, req i &&& dfeat i)), negd := true, nerr := false }))
    else .next (s.modVf v (fun x => { x with nerr := true, negd := false }))

/-- Whether a queue may be enabled: negotiated, with an address space of its function, a size and alignments that are valid
(18 R337, 25 R423). Log 103 (DEDUCED, unsafe). -/
def State.queueOk (s : State) (v : Nat) (h : HostQueue) : Bool :=
  let n := h.size.toNat
  (s.vf v).negd && s.ownerOfAsid h.asid.toNat = some v && (upto 17).any (fun k => n = 2 ^ k) && h.base.toNat % 64 = 0 &&
  h.tail.toNat % 8 = 0

/-- A queue enabled: HEAD becomes the tail word, of which nothing is known here when it lies in the host window (18 R337,
R339, log entry 13). None while an engine or a host keeps its line. Log 103 (DEDUCED, unsafe). -/
def State.queueOn (s : State) (v q : Nat) : Option State :=
  let h := s.queue v q
  let set (s : State) (t : W64) : State :=
    s.modQueue v q (fun h => { h with head := t, seen := t, rel := (upto nDies).map (fun d => (s.die d).h) })
  let va := h.tail.toNat
  match s.vaTarget h.asid.toNat va with
  | .ok .host =>
    let (t, s) := s.takeFree
    some (set { s with out := s.out ++ [.host 0 "RdShared" (bits va 43 0) [] false] } t)
  | .ok (.pkg d) => match s.devRead d h.asid.toNat va 8 with
    | (.error _, s) => some (s.queueErr v q 2)
    | (.ok g, s') => match s.clear g.lines [] with
      | some none => some (set (s'.gotDone d g) (BitVec.ofNat 64 (at' g.bytes 0 8)))
      | _ => none
  | _ => some (s.queueErr v q 2)

/-- HQCTL_WRITE (R337, Table 18-4): while EN = 1 only EN is written. Log 103 (DEDUCED, unsafe). -/
def execHqctlWrite (v q : Nat) (val : W64) (s : State) : Host.Outcome State Fault Refusal :=
  if nVfs ≤ v || 8 ≤ q then notEnabled "HQCTL_WRITE"
  else if !s.ready then .next s
  else if (s.queue v q).en then .next (s.modQueue v q (fun h => { h with en := val.getLsbD 0 }))
  else
    let s := s.modQueue v q (fun h => { h with
      en := val.getLsbD 0, err := h.err && !val.getLsbD 1, asid := (val >>> 16) &&& 0xFFFF })
    if !val.getLsbD 0 then .next s
    else if !s.queueOk v (s.queue v q) then .next (s.queueErr v q 3)
    else match s.queueOn v q with
      | some s => .next s
      | none => notEnabled "HQCTL_WRITE"

/-- The first ASID and the number of them of a function. -/
def Vf.asids (x : Vf) : Nat × Nat := (bits x.vfAsid.toNat 15 0, bits x.vfAsid.toNat 31 16)

/-- Whether a function's address spaces overlap those of another enabled one (25 R422). -/
def State.asidClash (s : State) (v : Nat) : Bool :=
  let (a, n) := (s.vf v).asids
  s.vfs.any (fun e => e.1 ≠ v && e.2.en && decide (a < e.2.asids.1 + e.2.asids.2 ∧ e.2.asids.1 < a + n))

/-- VFCTL_WRITE (R422, Table 25-7). -/
def execVfctlWrite (v : Nat) (val : W64) (s : State) : Host.Outcome State Fault Refusal :=
  if nVfs ≤ v then notEnabled "VFCTL_WRITE"
  else if !s.ready then .next s
  else
    let s := s.modVf v (fun x => { x with nfwd := val.getLsbD 1, cenf := val.getLsbD 2 })
    if !val.getLsbD 0 then .next (s.modVf v (fun x => { x with en := false }))
    else if (s.vf v).en then .next s
    else if s.asidClash v then .next (s.modVf v (fun x => { x with cfgErr := true }))
    else .next (s.modVf v (fun x => { x with en := true, cfgErr := false }))

/-! ### Dies, the hub and the fabric -/

/-- FQTAIL_WRITE (R368, R370). Log 13 (DESIGN CHOICE, safe). -/
def execFqtailWrite (d : Nat) (val : W64) (s : State) : Host.Outcome State Fault Refusal :=
  if nDies ≤ d then notEnabled "FQTAIL_WRITE"
  else if !s.ready then .next s
  else .next ((s.modDie d (fun x => { x with fqTail := val }.overflow)).fqEvent d)

/-- MGSTAT_WRITE (R432): `d` is 4 for the hub. Log 80 (DEDUCED, unsafe). -/
def execMgstatWrite (d : Nat) (val : W64) (s : State) : Host.Outcome State Fault Refusal :=
  if 4 < d then notEnabled "MGSTAT_WRITE"
  else if !s.ready then .next s
  else
    let s := s.modErr d (fun e => { e with mgStat := e.mgStat &&& ~~~ val })
    .next (if d < nDies then s.fqEvent d else s)

/-- Packages of a domain (25 R417). -/
def nPackages : Nat := 1152

/-- FABRT_WRITE (R417): a channel takes its route from it when it next has nothing in flight. -/
def execFabrtWrite (p : Nat) (val : W64) (s : State) : Host.Outcome State Fault Refusal :=
  if nPackages ≤ p then notEnabled "FABRT_WRITE"
  else if !s.ready then .next s
  else .next (s.modHub (fun h => { h with fabRt := tset h.fabRt p (val &&& 0x3FFFF) }))

/-- NMWDT_WRITE (R404): a write below 4,096 stores 4,096. -/
def execNmwdtWrite (d st : Nat) (val : W64) (s : State) : Host.Outcome State Fault Refusal :=
  if nDies ≤ d || 4 ≤ st then notEnabled "NMWDT_WRITE"
  else if !s.ready then .next s
  else
    let x := (lo32 val).toNat
    .next (s.modDie d (fun y => { y with nm := tset y.nm st { tgetD y.nm st {} with nmWdt := BitVec.ofNat 64 (max 4096 x) } }))

/-- PWRLIM_WRITE (R441, Table 26-9): the nearest value from 1,200 to 3,000. -/
def execPwrlimWrite (val : W64) (s : State) : Host.Outcome State Fault Refusal :=
  if !s.ready then .next s
  else .next (s.modHub (fun h => { h with pwrLim := BitVec.ofNat 64 (min 3000 (max 1200 (bits val.toNat 11 0))) }))

/-! ### Every other register -/

/-- What a register does with a write: it has none, an event of its own does it, or the state after it. -/
inductive RegWrite where
  | ignored
  | own
  | after (s : State)
  deriving DecidableEq, Repr

/-- A register of a die. -/
def State.dieReg (s : State) (d : Nat) (f : Die → Die) : RegWrite := .after (s.modDie d f)

/-- Error and interrupt registers of die `d`, or of the hub as 4 (26 Table 26-3). -/
def State.errReg (s : State) (d o : Nat) (v : W64) : RegWrite :=
  let put (f : ErrRegs → ErrRegs) : RegWrite := .after (s.modErr d f)
  if o = 0xD00 then put (fun e => { e with elBase := v })
  else if o = 0xD08 then put (fun e => { e with elSize := v })
  else if o = 0xD18 then put (fun e => { e with elTail := v })
  else if o = 0xD20 then put (fun e => { e with elDrop := e.elDrop &&& ~~~ v })
  else if o = 0xD28 then put (fun e => { e with scrubInt := v &&& 0xFFFFFFFF })
  else if o = 0xD30 then .own
  else if o = 0xD38 then put (fun e => { e with mgEn := v &&& 0x1F })
  else .ignored

/-- A frame ring's register (17 Table 17-7). -/
def poolReg (p : Pool) (o : Nat) (v : W64) : Pool :=
  if o = 0 then { p with base := v }
  else if o = 8 then { p with size := v }
  else if o = 16 then { p with head := v }
  else { p with tail := v }

/-- A function's trap and frame register (20 Table 20-6). -/
def trapReg (t : VfTrap) (o : Nat) (v : W64) : VfTrap :=
  if o = 0 then { t with tvec := v &&& 0x01FFFFFFFFFFFFFD }
  else if o = 8 then { t with tctl := v &&& 0x0000FFFF0000FFFF }
  else if o = 16 then { t with trec := v }
  else { t with ctxBase := v }

/-- A near-memory register of a stack (23 Table 23-4). -/
def nmReg (r : NmRegs) (o : Nat) (v : W64) : NmRegs :=
  if o = 0 then { r with nmCtl := v &&& 1 }
  else if o = 16 then { r with nmHung := r.nmHung &&& ~~~ v }
  else r

/-- FQCTL written: EN and IE, and OVF cleared by a 1 (20 Table 20-8); EN that rises over a full ring with records waiting sets it
(R368). -/
def Die.fqCtlWrite (d : Die) (v : W64) : Die :=
  let e : Die := { d with fqCtl := (v &&& 3) ||| (d.fqCtl &&& ~~~ v &&& 4) }
  if v.getLsbD 0 && !d.fqCtl.getLsbD 0 then e.overflow else e

/-- A register of die `d` at offset `o` of its block (17 Table 17-7, 18 Table 18-6, 20 Table 20-6, 23 Table 23-4, 26 Table
26-3). Log 104 (DEDUCED, safe). -/
def State.dieRegWrite (s : State) (d o : Nat) (v : W64) : RegWrite :=
  let put := s.dieReg d
  if o = 0x008 then put (fun x => { x with migCtl := v &&& 0xFFFF0003 })
  else if o = 0x010 then .own
  else if o = 0x018 then put (fun x => { x with mtArg0 := v })
  else if o = 0x020 then put (fun x => { x with mtArg1 := v })
  else if o = 0x028 then put (fun x => { x with mtArg2 := v })
  else if o = 0x038 then put (fun x => { x with astBase := v })
  else if o = 0x040 then put (fun x => { x with migVf := v })
  else if 0x100 ≤ o && o < 0x300 then put (fun x => { x with gwm := tset x.gwm ((o - 0x100) / 8) (v &&& 0xF) })
  else if 0x400 ≤ o && o < 0x500 then
    let k := (o - 0x400) / 32
    put (fun x => { x with pools := tset x.pools k (poolReg (tgetD x.pools k {}) (o % 32) v) })
  else if o = 0x800 then put (fun x => { x with schCtl := v &&& 0x0000FFFFFFFFFFFF })
  else if o = 0x808 then .own
  else if o = 0x810 then put (fun x => { x with btArg0 := v })
  else if o = 0x818 then put (fun x => { x with btArg1 := v &&& 0x000FFFFFFFFFFFFF })
  else if o = 0x900 then put (fun x => { x with fqBase := v })
  else if o = 0x908 then put (fun x => { x with fqSize := v }.overflow)
  else if o = 0x918 then .own
  else if o = 0x920 then .after ((s.modDie d (fun x => x.fqCtlWrite v)).fqEvent d)
  else if o = 0x928 then .own
  else if o = 0x930 then put (fun x => { x with fqArg := v })
  else if o = 0x940 then .own
  else if o = 0x948 then put (fun x => { x with dbgArg0 := v })
  else if o = 0x950 then put (fun x => { x with dbgArg1 := v &&& 0x3FFFF8 })
  else if o = 0x958 then put (fun x => { x with dbgData := v })
  else if o = 0x968 then put (fun x => { x with dbgVf := v })
  else if 0xC00 ≤ o && o < 0xD00 then
    let k := (o - 0xC00) / 64
    if o % 64 = 8 then .own
    else if o % 64 = 0 || o % 64 = 16 then put (fun x => { x with nm := tset x.nm k (nmReg (tgetD x.nm k {}) (o % 64) v) })
    else .ignored
  else if 0xD00 ≤ o && o < 0xD40 then s.errReg d o v
  else if 0x1000 ≤ o && o < 0x1800 then
    let k := (o - 0x1000) / 32
    put (fun x => { x with vfs := tset x.vfs k (trapReg (tgetD x.vfs k {}) (o % 32) v) })
  else .ignored

/-- A register of function `v`'s block at offset `o` (25 Table 25-6). -/
def State.vfRegWrite (s : State) (v o : Nat) (x : W64) : RegWrite :=
  let put (f : Vf → Vf) : RegWrite := .after (s.modVf v f)
  if o = 0x00 || o = 0x08 || o = 0xC0 then .own
  else if o = 0x18 then put (fun r => { r with vfAsid := x &&& 0xFFFFFFFF })
  else if 0x20 ≤ o && o < 0x60 then
    let k := (o - 0x20) / 8
    put (fun r => { r with vfCore := tset r.vfCore k (if k % 2 = 1 then x &&& 0xFFFFFFFF else x) })
  else if o = 0x60 then put (fun r => { r with vfCol0 := x })
  else if o = 0x68 then put (fun r => { r with vfCol1 := x })
  else if o = 0x70 then put (fun r => { r with fabTag := x &&& 0x1FFFF })
  else if 0x80 ≤ o && o < 0xC0 then put (fun r => { r with feat := tset r.feat ((o - 0x80) / 8) x })
  else .ignored

/-- A register of the tenancy block (25 Table 25-6). -/
def State.tenancyWrite (s : State) (o : Nat) (v : W64) : RegWrite :=
  let put (f : Hub → Hub) : RegWrite := .after (s.modHub f)
  if o < 0x4000 then s.vfRegWrite (o / 0x100) (o % 0x100) v
  else if 0x8000 ≤ o && o < 0x9800 then put (fun h => { h with got := tset h.got ((o - 0x8000) / 8) (v &&& 0xBF) })
  else if 0x9840 ≤ o && o < 0x9880 then put (fun h => { h with hdmVf := tset h.hdmVf ((o - 0x9840) / 8) (v &&& 0x3F) })
  else if o = 0x9880 then .own
  else if o = 0x9888 then put (fun h => { h with biasArg0 := v })
  else if o = 0x9890 then put (fun h => { h with biasArg1 := v })
  else if o = 0x98C0 then put (fun h => { h with fabId := v &&& 0x7FF })
  else if o = 0x98C8 then put (fun h => { h with fabSize := v &&& 0xFFF })
  else if 0xA000 ≤ o && o < 0xA000 + 8 * nPackages then .own
  else .ignored

/-- A register of a host queue: none is written while EN = 1 (18 R337, Table 18-4). -/
def State.queueReg (s : State) (v q o : Nat) (x : W64) : RegWrite :=
  if o = 0x28 then .own
  else if (s.queue v q).en then .ignored
  else
    let put (f : HostQueue → HostQueue) : RegWrite := .after (s.modQueue v q f)
    if o = 0x00 then put (fun h => { h with base := x &&& 0x01FFFFFFFFFFFFFF })
    else if o = 0x08 then put (fun h => { h with size := x &&& 0x1FFFF })
    else if o = 0x10 then put (fun h => { h with tail := x &&& 0x01FFFFFFFFFFFFFF })
    else if o = 0x18 then put (fun h => { h with cw := x &&& 0x01FFFFFFFFFFFFFF })
    else .ignored

/-- A register of the hub block (26 R426). -/
def State.hubRegWrite (s : State) (o : Nat) (v : W64) : RegWrite :=
  if o = 0x200 || o = 0x220 || o = 0x238 then .own
  else if 0xD00 ≤ o && o < 0xD40 then s.errReg 4 o v
  else if 0x8000 ≤ o && o < 0x10000 then
    let k := (o - 0x8000) / 0x40
    s.queueReg (k / 8) (k % 8) (o % 0x40) v
  else .ignored

/-- A write at an offset of BAR0 (26 R426): offsets that hold no register ignore it, as read-only registers do. -/
def State.regWrite (s : State) (off : Nat) (v : W64) : RegWrite :=
  let o := off % 0x100000
  let b := off / 0x100000
  if off % 8 ≠ 0 then .ignored
  else if b = 0 then s.hubRegWrite o v
  else if b = 1 then s.tenancyWrite o v
  else if b < 2 + nDies then s.dieRegWrite (b - 2) o v
  else .ignored

/-! ### Reads -/

/-- What an error or interrupt register of die `d`, or of the hub as 4, reads (26 Table 26-3). -/
def State.errRead (s : State) (d o : Nat) : W64 :=
  let e := s.errOf d
  match (o - 0xD00) / 8 with
  | 0 => e.elBase
  | 1 => e.elSize
  | 2 => e.elHead
  | 3 => e.elTail
  | 4 => e.elDrop
  | 5 => e.scrubInt
  | 6 => e.mgStat
  | _ => e.mgEn

/-- What a frame ring's register reads (17 Table 17-7). -/
def poolRead (p : Pool) (o : Nat) : W64 := if o = 0 then p.base else if o = 8 then p.size else if o = 16 then p.head else p.tail

/-- What a function's trap or frame register reads (20 Table 20-6). -/
def trapRead (t : VfTrap) (o : Nat) : W64 := if o = 0 then t.tvec else if o = 8 then t.tctl else if o = 16 then t.trec else t.ctxBase

/-- What a near-memory register of stack `st` reads: NMBUSY names the sequencers that hold a team, and NMRSL counts the lines of
the silo in reduce state (23 Table 23-4, R394, R399). -/
def State.nmRead (s : State) (d st o : Nat) : W64 :=
  let r := tgetD (s.die d).nm st {}
  let stack := 4 * d + st
  let holds (q : Nat) : Bool := s.teams.any (fun e => e.2.core = some (nCores + 16 * stack + q) && (e.2.place = .active || e.2.place = .leaving))
  if o = 0 then r.nmCtl
  else if o = 8 then r.nmWdt
  else if o = 16 then r.nmHung
  else if o = 24 then r.nmRst
  else if o = 32 then BitVec.ofNat 64 ((upto 16).foldl (fun a q => if holds q then a + 2 ^ q else a) 0)
  else if o = 40 then BitVec.ofNat 64 (dedup ((s.mem.reduce.filter (fun e => bits e.pa 39 36 = stack)).map (fun e => lineOf e.pa))).length
  else 0

/-- HALTED of DBGSTAT: the wave that the token names is halted (20 Table 20-8). -/
def State.tokenHalted (s : State) (d : Nat) : Bool :=
  let t := tokenOf (s.die d).dbgArg0
  match s.tokenTeam t with | some tk => s.halted (32 * tk + t.wave) | none => false

/-- What a register of die `d` at offset `o` of its block reads (17 Table 17-7, 18 Table 18-6, 20 Table 20-6, 23 Table 23-4, 26
Table 26-3): L2HID reads 1 for the hash of 17 R314. -/
def State.dieRegRead (s : State) (d o : Nat) : W64 :=
  let x := s.die d
  if o = 0x000 then 1
  else if o = 0x008 then x.migCtl
  else if o = 0x010 then x.mtCmd
  else if o = 0x018 then x.mtArg0
  else if o = 0x020 then x.mtArg1
  else if o = 0x028 then x.mtArg2
  else if o = 0x030 then x.mtStat
  else if o = 0x038 then x.astBase
  else if o = 0x040 then x.migVf
  else if 0x100 ≤ o && o < 0x300 then x.gwmOf ((o - 0x100) / 8)
  else if 0x300 ≤ o && o < 0x380 then tgetD x.ccwp ((o - 0x300) / 8) 0
  else if 0x400 ≤ o && o < 0x500 then poolRead (tgetD x.pools ((o - 0x400) / 32) {}) (o % 32)
  else if o = 0x800 then x.schCtl
  else if o = 0x808 then x.btCmd
  else if o = 0x810 then x.btArg0
  else if o = 0x818 then x.btArg1
  else if o = 0x820 then BitVec.ofNat 64 (2 * x.btErr + 2 ^ 16 * x.bt.length)
  else if o = 0x900 then x.fqBase
  else if o = 0x908 then x.fqSize
  else if o = 0x910 then x.fqHead
  else if o = 0x918 then x.fqTail
  else if o = 0x920 then x.fqCtl
  else if o = 0x928 then x.fqCmd
  else if o = 0x930 then x.fqArg
  else if o = 0x938 then x.fqStat
  else if o = 0x940 then x.dbgCmd
  else if o = 0x948 then x.dbgArg0
  else if o = 0x950 then x.dbgArg1
  else if o = 0x958 then x.dbgData
  else if o = 0x960 then BitVec.ofNat 64 (2 * x.dbgErr + 8 * b01 (s.tokenHalted d))
  else if o = 0x968 then x.dbgVf
  else if 0xC00 ≤ o && o < 0xD00 then s.nmRead d ((o - 0xC00) / 64) (o % 64)
  else if 0xD00 ≤ o && o < 0xD40 then s.errRead d o
  else if 0x1000 ≤ o && o < 0x1800 then trapRead (tgetD x.vfs ((o - 0x1000) / 32) {}) (o % 32)
  else 0

/-- What a register of function `v`'s block reads (25 Tables 25-6, 25-7). -/
def State.vfRegRead (s : State) (v o : Nat) : W64 :=
  let x := s.vf v
  if o = 0x00 then BitVec.ofNat 64 (b01 x.en + 2 * b01 x.nfwd + 4 * b01 x.cenf)
  else if o = 0x10 then BitVec.ofNat 64 (b01 x.rstBusy + 2 * b01 x.negd + 4 * b01 x.nerr + 8 * b01 x.cfgErr)
  else if o = 0x18 then x.vfAsid
  else if 0x20 ≤ o && o < 0x60 then tgetD x.vfCore ((o - 0x20) / 8) 0
  else if o = 0x60 then x.vfCol0
  else if o = 0x68 then x.vfCol1
  else if o = 0x70 then x.fabTag
  else if 0x80 ≤ o && o < 0xC0 then tgetD x.feat ((o - 0x80) / 8) 0
  else 0

/-- What a register of the tenancy block reads (25 Table 25-6). -/
def State.tenancyRead (s : State) (o : Nat) : W64 :=
  let h := s.hub
  if o < 0x4000 then s.vfRegRead (o / 0x100) (o % 0x100)
  else if 0x8000 ≤ o && o < 0x9800 then tgetD h.got ((o - 0x8000) / 8) 0
  else if 0x9800 ≤ o && o < 0x9840 then dfeat ((o - 0x9800) / 8)
  else if 0x9840 ≤ o && o < 0x9880 then tgetD h.hdmVf ((o - 0x9840) / 8) 0
  else if o = 0x9880 then h.biasCmd
  else if o = 0x9888 then h.biasArg0
  else if o = 0x9890 then h.biasArg1
  else if o = 0x9898 then BitVec.ofNat 64 (b01 (match h.flip with | some f => !f.auto | none => false) + 2 * b01 h.biasErr)
  else if o = 0x98A0 then h.biasAuto
  else if o = 0x98C0 then h.fabId
  else if o = 0x98C8 then h.fabSize
  else if o = 0x98D0 then h.fabErr
  else if 0xA000 ≤ o && o < 0xA000 + 8 * nPackages then tgetD h.fabRt ((o - 0xA000) / 8) 0
  else 0

/-- What a register of a host queue reads (18 Table 18-4). -/
def HostQueue.read (h : HostQueue) (o : Nat) : W64 :=
  if o = 0x00 then h.base
  else if o = 0x08 then h.size
  else if o = 0x10 then h.tail
  else if o = 0x18 then h.cw
  else if o = 0x20 then h.head
  else if o = 0x28 then BitVec.ofNat 64 (b01 h.en + 2 * b01 h.err + 4 * h.ecode) ||| (h.asid &&& 0xFFFF) <<< 16
  else 0

/-- What a register of the hub block reads (26 R426, Table 26-9); the device serial is a free value of the part (log entry 10). -/
def State.hubRegRead (s : State) (o : Nat) : W64 :=
  let h := s.hub
  if o = 0x200 then h.pwrLim
  else if o = 0x208 then h.pwrNow
  else if o = 0x210 then h.thrCnt
  else if o = 0x218 then BitVec.ofNat 64 h.devStat
  else if o = 0x228 then BitVec.ofNat 64 (b01 h.wipeStat)
  else if o = 0x230 then BitVec.ofNat 64 h.lcState
  else if o = 0x238 then h.mbCmd
  else if o = 0x240 then h.mbStat
  else if o = 0x248 then Config.deviceSerial.setWidth 64
  else if o = 0x250 then (Config.deviceSerial >>> 64).setWidth 64
  else if 0xD00 ≤ o && o < 0xD40 then s.errRead 4 o
  else if 0x8000 ≤ o && o < 0x10000 then
    let k := (o - 0x8000) / 0x40
    (s.queue (k / 8) (k % 8)).read (o % 0x40)
  else 0

/-- What a read of BAR0 at an offset gives: 64 bits, 0 where no register stands, and 0 for the write-only ones (00 R3, 26 R426).
Log 104 (DEDUCED, safe). -/
def State.regRead (s : State) (off : Nat) : W64 :=
  let o := off % 0x100000
  let b := off / 0x100000
  if off % 8 ≠ 0 then 0
  else if b = 0 then s.hubRegRead o
  else if b = 1 then s.tenancyRead o
  else if b < 2 + nDies then s.dieRegRead (b - 2) o
  else 0

/-- REGISTER_WRITE (R3, R426, R435): a register that an event of its own writes is not written by this one. -/
def execRegisterWrite (off : Nat) (val : W64) (s : State) : Host.Outcome State Fault Refusal :=
  if 0x1000000 ≤ off then notEnabled "REGISTER_WRITE"
  else match s.regWrite off val with
    | .own => notEnabled "REGISTER_WRITE"
    | .ignored => .next s
    | .after s' => .next (if s.ready then s' else s)

end Sys2Proof.Machine
end

