-- ==== Sys2Proof/Machine/Dispatch.lean ====
section
/-! DEFINITION. The dispatch: one arm per constructor. -/

namespace Sys2Proof.Machine

/-- What an instruction, or a step of the device, does. -/
def exec (i : Instr) (s : State) : Host.Outcome State Fault Refusal :=
  match i with
  | .add m f => Sys2Proof.Machine.execAdd m f s
  | .sub m f => Sys2Proof.Machine.execSub m f s
  | .mul m f => Sys2Proof.Machine.execMul m f s
  | .mulh m f => Sys2Proof.Machine.execMulh m f s
  | .mad m f => Sys2Proof.Machine.execMad m f s
  | .div m f => Sys2Proof.Machine.execDiv m f s
  | .rem m f => Sys2Proof.Machine.execRem m f s
  | .abs m f => Sys2Proof.Machine.execAbs m f s
  | .min m f => Sys2Proof.Machine.execMin m f s
  | .max m f => Sys2Proof.Machine.execMax m f s
  | .cmp m f => Sys2Proof.Machine.execCmp m f s
  | .sel m f => Sys2Proof.Machine.execSel m f s
  | .mov m f => Sys2Proof.Machine.execMov m f s
  | .cvtI m f => Sys2Proof.Machine.execCvtI m f s
  | .and m f => Sys2Proof.Machine.execAnd m f s
  | .or m f => Sys2Proof.Machine.execOr m f s
  | .xor m f => Sys2Proof.Machine.execXor m f s
  | .andn m f => Sys2Proof.Machine.execAndn m f s
  | .shl m f => Sys2Proof.Machine.execShl m f s
  | .shr m f => Sys2Proof.Machine.execShr m f s
  | .sha m f => Sys2Proof.Machine.execSha m f s
  | .rot m f => Sys2Proof.Machine.execRot m f s
  | .clz m f => Sys2Proof.Machine.execClz m f s
  | .popc m f => Sys2Proof.Machine.execPopc m f s
  | .brev m f => Sys2Proof.Machine.execBrev m f s
  | .bfx m f => Sys2Proof.Machine.execBfx m f s
  | .bfi m f => Sys2Proof.Machine.execBfi m f s
  | .fadd m f => Sys2Proof.Machine.execFadd m f s
  | .fsub m f => Sys2Proof.Machine.execFsub m f s
  | .fmul m f => Sys2Proof.Machine.execFmul m f s
  | .fma m f => Sys2Proof.Machine.execFma m f s
  | .fdiv m f => Sys2Proof.Machine.execFdiv m f s
  | .fmin m f => Sys2Proof.Machine.execFmin m f s
  | .fmax m f => Sys2Proof.Machine.execFmax m f s
  | .fminn m f => Sys2Proof.Machine.execFminn m f s
  | .fmaxn m f => Sys2Proof.Machine.execFmaxn m f s
  | .fabs m f => Sys2Proof.Machine.execFabs m f s
  | .fneg m f => Sys2Proof.Machine.execFneg m f s
  | .fcmp m f => Sys2Proof.Machine.execFcmp m f s
  | .frcp m f => Sys2Proof.Machine.execFrcp m f s
  | .frsq m f => Sys2Proof.Machine.execFrsq m f s
  | .fsqrt m f => Sys2Proof.Machine.execFsqrt m f s
  | .fexp2 m f => Sys2Proof.Machine.execFexp2 m f s
  | .flog2 m f => Sys2Proof.Machine.execFlog2 m f s
  | .fsin m f => Sys2Proof.Machine.execFsin m f s
  | .fcos m f => Sys2Proof.Machine.execFcos m f s
  | .frnd m f => Sys2Proof.Machine.execFrnd m f s
  | .fclass m f => Sys2Proof.Machine.execFclass m f s
  | .cvt m f => Sys2Proof.Machine.execCvt m f s
  | .cvtMx m f => Sys2Proof.Machine.execCvtMx m f s
  | .cvtLg6 m f => Sys2Proof.Machine.execCvtLg6 m f s
  | .mxsc m f => Sys2Proof.Machine.execMxsc m f s
  | .pk m f => Sys2Proof.Machine.execPk m f s
  | .upk m f => Sys2Proof.Machine.execUpk m f s
  | .ld m f => Sys2Proof.Machine.execLd m f s
  | .st m f => Sys2Proof.Machine.execSt m f s
  | .ldsp m f => Sys2Proof.Machine.execLdsp m f s
  | .stsp m f => Sys2Proof.Machine.execStsp m f s
  | .ldraw m f => Sys2Proof.Machine.execLdraw m f s
  | .pref m f => Sys2Proof.Machine.execPref m f s
  | .fence m f => Sys2Proof.Machine.execFence m f s
  | .atomAdd m f => Sys2Proof.Machine.execAtomAdd m f s
  | .atomMin m f => Sys2Proof.Machine.execAtomMin m f s
  | .atomMax m f => Sys2Proof.Machine.execAtomMax m f s
  | .atomAnd m f => Sys2Proof.Machine.execAtomAnd m f s
  | .atomOr m f => Sys2Proof.Machine.execAtomOr m f s
  | .atomXor m f => Sys2Proof.Machine.execAtomXor m f s
  | .atomXchg m f => Sys2Proof.Machine.execAtomXchg m f s
  | .atomCas m f => Sys2Proof.Machine.execAtomCas m f s
  | .atomFadd m f => Sys2Proof.Machine.execAtomFadd m f s
  | .atomFmax m f => Sys2Proof.Machine.execAtomFmax m f s
  | .amaxi m f => Sys2Proof.Machine.execAmaxi m f s
  | .redAdd m f => Sys2Proof.Machine.execRedAdd m f s
  | .redMax m f => Sys2Proof.Machine.execRedMax m f s
  | .redEsum m f => Sys2Proof.Machine.execRedEsum m f s
  | .bp m f => Sys2Proof.Machine.execBp m f s
  | .jmp m f => Sys2Proof.Machine.execJmp m f s
  | .jmpReg m f => Sys2Proof.Machine.execJmpReg m f s
  | .call m f => Sys2Proof.Machine.execCall m f s
  | .callReg m f => Sys2Proof.Machine.execCallReg m f s
  | .ret m f => Sys2Proof.Machine.execRet m f s
  | .reform m f => Sys2Proof.Machine.execReform m f s
  | .exit m f => Sys2Proof.Machine.execExit m f s
  | .nop m f => Sys2Proof.Machine.execNop m f s
  | .shfl m f => Sys2Proof.Machine.execShfl m f s
  | .shfli m f => Sys2Proof.Machine.execShfli m f s
  | .vote m f => Sys2Proof.Machine.execVote m f s
  | .redu m f => Sys2Proof.Machine.execRedu m f s
  | .redmaxi m f => Sys2Proof.Machine.execRedmaxi m f s
  | .scan m f => Sys2Proof.Machine.execScan m f s
  | .cmpr m f => Sys2Proof.Machine.execCmpr m f s
  | .expd m f => Sys2Proof.Machine.execExpd m f s
  | .slup m f => Sys2Proof.Machine.execSlup m f s
  | .sldn m f => Sys2Proof.Machine.execSldn m f s
  | .bcast m f => Sys2Proof.Machine.execBcast m f s
  | .wfind m f => Sys2Proof.Machine.execWfind m f s
  | .harrow m f => Sys2Proof.Machine.execHarrow m f s
  | .stkAdd m f => Sys2Proof.Machine.execStkAdd m f s
  | .stkSub m f => Sys2Proof.Machine.execStkSub m f s
  | .stkMul m f => Sys2Proof.Machine.execStkMul m f s
  | .stkDiv m f => Sys2Proof.Machine.execStkDiv m f s
  | .stkNeg m f => Sys2Proof.Machine.execStkNeg m f s
  | .stkRcp m f => Sys2Proof.Machine.execStkRcp m f s
  | .stkSq m f => Sys2Proof.Machine.execStkSq m f s
  | .stkUni m f => Sys2Proof.Machine.execStkUni m f s
  | .stkIsect m f => Sys2Proof.Machine.execStkIsect m f s
  | .stkHull m f => Sys2Proof.Machine.execStkHull m f s
  | .stkFrom m f => Sys2Proof.Machine.execStkFrom m f s
  | .stkTo m f => Sys2Proof.Machine.execStkTo m f s
  | .stkLdring m f => Sys2Proof.Machine.execStkLdring m f s
  | .sadd m f => Sys2Proof.Machine.execSadd m f s
  | .ssub m f => Sys2Proof.Machine.execSsub m f s
  | .smul m f => Sys2Proof.Machine.execSmul m f s
  | .sand m f => Sys2Proof.Machine.execSand m f s
  | .sor m f => Sys2Proof.Machine.execSor m f s
  | .sxor m f => Sys2Proof.Machine.execSxor m f s
  | .sshl m f => Sys2Proof.Machine.execSshl m f s
  | .sshr m f => Sys2Proof.Machine.execSshr m f s
  | .ssha m f => Sys2Proof.Machine.execSsha m f s
  | .smin m f => Sys2Proof.Machine.execSmin m f s
  | .smax m f => Sys2Proof.Machine.execSmax m f s
  | .smov m f => Sys2Proof.Machine.execSmov m f s
  | .scmp m f => Sys2Proof.Machine.execScmp m f s
  | .ssel m f => Sys2Proof.Machine.execSsel m f s
  | .sld m f => Sys2Proof.Machine.execSld m f s
  | .sst m f => Sys2Proof.Machine.execSst m f s
  | .sli m f => Sys2Proof.Machine.execSli m f s
  | .sliH1 m f => Sys2Proof.Machine.execSliH1 m f s
  | .sliH2 m f => Sys2Proof.Machine.execSliH2 m f s
  | .sliH3 m f => Sys2Proof.Machine.execSliH3 m f s
  | .saddImm m f => Sys2Proof.Machine.execSaddImm m f s
  | .ubr m f => Sys2Proof.Machine.execUbr m f s
  | .ubrFar m f => Sys2Proof.Machine.execUbrFar m f s
  | .ucall m f => Sys2Proof.Machine.execUcall m f s
  | .uret m f => Sys2Proof.Machine.execUret m f s
  | .uloop m f => Sys2Proof.Machine.execUloop m f s
  | .gang m f => Sys2Proof.Machine.execGang m f s
  | .station m f => Sys2Proof.Machine.execStation m f s
  | .unstation m f => Sys2Proof.Machine.execUnstation m f s
  | .mma m f => Sys2Proof.Machine.execMma m f s
  | .mmat m f => Sys2Proof.Machine.execMmat m f s
  | .mdual m f => Sys2Proof.Machine.execMdual m f s
  | .azero m f => Sys2Proof.Machine.execAzero m f s
  | .ald m f => Sys2Proof.Machine.execAld m f s
  | .ast m f => Sys2Proof.Machine.execAst m f s
  | .ascl m f => Sys2Proof.Machine.execAscl m f s
  | .aread m f => Sys2Proof.Machine.execAread m f s
  | .mwait m f => Sys2Proof.Machine.execMwait m f s
  | .tfill m f => Sys2Proof.Machine.execTfill m f s
  | .taff m f => Sys2Proof.Machine.execTaff m f s
  | .tclamp m f => Sys2Proof.Machine.execTclamp m f s
  | .tperm m f => Sys2Proof.Machine.execTperm m f s
  | .tmat m f => Sys2Proof.Machine.execTmat m f s
  | .tread m f => Sys2Proof.Machine.execTread m f s
  | .stream m f => Sys2Proof.Machine.execStream m f s
  | .bar m f => Sys2Proof.Machine.execBar m f s
  | .barw m f => Sys2Proof.Machine.execBarw m f s
  | .yield m f => Sys2Proof.Machine.execYield m f s
  | .wlpush m f => Sys2Proof.Machine.execWlpush m f s
  | .wlpop m f => Sys2Proof.Machine.execWlpop m f s
  | .wlquiet m f => Sys2Proof.Machine.execWlquiet m f s
  | .waitwp m f => Sys2Proof.Machine.execWaitwp m f s
  | .waitseq m f => Sys2Proof.Machine.execWaitseq m f s
  | .aflush m f => Sys2Proof.Machine.execAflush m f s
  | .chapp m f => Sys2Proof.Machine.execChapp m f s
  | .launch m f => Sys2Proof.Machine.execLaunch m f s
  | .nlaunch m f => Sys2Proof.Machine.execNlaunch m f s
  | .coll m f => Sys2Proof.Machine.execColl m f s
  | .topk m f => Sys2Proof.Machine.execTopk m f s
  | .gath m f => Sys2Proof.Machine.execGath m f s
  | .trap m f => Sys2Proof.Machine.execTrap m f s
  | .tret m f => Sys2Proof.Machine.execTret m f s
  | .csrr m f => Sys2Proof.Machine.execCsrr m f s
  | .csrw m f => Sys2Proof.Machine.execCsrw m f s
  | .brk m f => Sys2Proof.Machine.execBrk m f s
  | .getclk m f => Sys2Proof.Machine.execGetclk m f s
  | .instructionFetch k bad => Sys2Proof.Machine.execInstructionFetch k bad s
  | .storeSend g more => Sys2Proof.Machine.execStoreSend g more s
  | .writeSequence d n => Sys2Proof.Machine.execWriteSequence d n s
  | .writeApply d h => Sys2Proof.Machine.execWriteApply d h s
  | .loadPerform g back => Sys2Proof.Machine.execLoadPerform g back s
  | .forwardDelivery c j core => Sys2Proof.Machine.execForwardDelivery c j core s
  | .atomicHomeStep g back => Sys2Proof.Machine.execAtomicHomeStep g back s
  | .qntBatch gs => Sys2Proof.Machine.execQntBatch gs s
  | .fenceComplete g => Sys2Proof.Machine.execFenceComplete g s
  | .packageDrain g => Sys2Proof.Machine.execPackageDrain g s
  | .packageChannelDelivery inbound core pkg => Sys2Proof.Machine.execPackageChannelDelivery inbound core pkg s
  | .backingCopy line => Sys2Proof.Machine.execBackingCopy line s
  | .deadLoadRestore n => Sys2Proof.Machine.execDeadLoadRestore n s
  | .detFlushDrain l lev inst => Sys2Proof.Machine.execDetFlushDrain l lev inst s
  | .kernelEndDrain l => Sys2Proof.Machine.execKernelEndDrain l s
  | .dieClockTick d => Sys2Proof.Machine.execDieClockTick d s
  | .rendezvousExecute wk => Sys2Proof.Machine.execRendezvousExecute wk s
  | .xlaneSplit wk => Sys2Proof.Machine.execXlaneSplit wk s
  | .gangLatchMeet c n => Sys2Proof.Machine.execGangLatchMeet c n s
  | .stationLoadComplete tk w => Sys2Proof.Machine.execStationLoadComplete tk w s
  | .productComplete c n => Sys2Proof.Machine.execProductComplete c n s
  | .mwaitComplete n => Sys2Proof.Machine.execMwaitComplete n s
  | .barrierRelease n => Sys2Proof.Machine.execBarrierRelease n s
  | .barSplit l lev inst => Sys2Proof.Machine.execBarSplit l lev inst s
  | .waitseqComplete n back => Sys2Proof.Machine.execWaitseqComplete n back s
  | .waitseqTimeout n => Sys2Proof.Machine.execWaitseqTimeout n s
  | .waitwpComplete n => Sys2Proof.Machine.execWaitwpComplete n s
  | .wlquietWake n => Sys2Proof.Machine.execWlquietWake n s
  | .quiescence l => Sys2Proof.Machine.execQuiescence l s
  | .tileRangeComplete n => Sys2Proof.Machine.execTileRangeComplete n s
  | .ringContextBind n => Sys2Proof.Machine.execRingContextBind n s
  | .engineEntryStart e => Sys2Proof.Machine.execEngineEntryStart e s
  | .engineLineRelease e => Sys2Proof.Machine.execEngineLineRelease e s
  | .engineEntryComplete e => Sys2Proof.Machine.execEngineEntryComplete e s
  | .engineFault e => Sys2Proof.Machine.execEngineFault e s
  | .collectiveMatch grp => Sys2Proof.Machine.execCollectiveMatch grp s
  | .streamStart n => Sys2Proof.Machine.execStreamStart n s
  | .streamComplete n => Sys2Proof.Machine.execStreamComplete n s
  | .streamFault n => Sys2Proof.Machine.execStreamFault n s
  | .hostQueueSlotTake v q => Sys2Proof.Machine.execHostQueueSlotTake v q s
  | .tailLineInvalidate v q tail => Sys2Proof.Machine.execTailLineInvalidate v q tail s
  | .launchEligible l => Sys2Proof.Machine.execLaunchEligible l s
  | .launchAdmission l d => Sys2Proof.Machine.execLaunchAdmission l d s
  | .teamPlacement tk core frame => Sys2Proof.Machine.execTeamPlacement tk core frame s
  | .nmBlockPlacement tk seqr frame => Sys2Proof.Machine.execNmBlockPlacement tk seqr frame s
  | .priorityAging tk => Sys2Proof.Machine.execPriorityAging tk s
  | .timeSliceExpiry c => Sys2Proof.Machine.execTimeSliceExpiry c s
  | .blockedTimeout c => Sys2Proof.Machine.execBlockedTimeout c s
  | .loftSwap c => Sys2Proof.Machine.execLoftSwap c s
  | .gleanerSave c discard => Sys2Proof.Machine.execGleanerSave c discard s
  | .gleanerFill c tk frame => Sys2Proof.Machine.execGleanerFill c tk frame s
  | .bankSpillFill c => Sys2Proof.Machine.execBankSpillFill c s
  | .sheafDraw c => Sys2Proof.Machine.execSheafDraw c s
  | .detSwitchPoint c l => Sys2Proof.Machine.execDetSwitchPoint c l s
  | .launchComplete l => Sys2Proof.Machine.execLaunchComplete l s
  | .faultRecordWrite d => Sys2Proof.Machine.execFaultRecordWrite d s
  | .errorRecordWrite d => Sys2Proof.Machine.execErrorRecordWrite d s
  | .correctedError d src addr detail => Sys2Proof.Machine.execCorrectedError d src addr detail s
  | .uncorrectedError d src addr detail => Sys2Proof.Machine.execUncorrectedError d src addr detail s
  | .fatalError d src addr detail => Sys2Proof.Machine.execFatalError d src addr detail s
  | .patrolScrub line bad => Sys2Proof.Machine.execPatrolScrub line bad s
  | .sequencerWatchdog e => Sys2Proof.Machine.execSequencerWatchdog e s
  | .mtcmdComplete d => Sys2Proof.Machine.execMtcmdComplete d s
  | .migrationEpoch d => Sys2Proof.Machine.execMigrationEpoch d s
  | .siloEviction k => Sys2Proof.Machine.execSiloEviction k s
  | .leaseRenewal d unit line lease => Sys2Proof.Machine.execLeaseRenewal d unit line lease s
  | .generationSweep d unit => Sys2Proof.Machine.execGenerationSweep d unit s
  | .retentionSleep d unit => Sys2Proof.Machine.execRetentionSleep d unit s
  | .retentionWake d unit => Sys2Proof.Machine.execRetentionWake d unit s
  | .sectorMigration d sector cluster => Sys2Proof.Machine.execSectorMigration d sector cluster s
  | .orientationFlip d sector => Sys2Proof.Machine.execOrientationFlip d sector s
  | .pageWalk asid va fetch write => Sys2Proof.Machine.execPageWalk asid va fetch write s
  | .pageMigration d asid va stack => Sys2Proof.Machine.execPageMigration d asid va stack s
  | .powerThrottle island lower => Sys2Proof.Machine.execPowerThrottle island lower s
  | .hostReadShared n dpa => Sys2Proof.Machine.execHostReadShared n dpa s
  | .hostReadOwn n dpa => Sys2Proof.Machine.execHostReadOwn n dpa s
  | .hostWrite n dpa bytes => Sys2Proof.Machine.execHostWrite n dpa bytes s
  | .bisnpResponse dpa data => Sys2Proof.Machine.execBisnpResponse dpa data s
  | .hostGlobalObservation d data => Sys2Proof.Machine.execHostGlobalObservation d data s
  | .hostDecodeError d => Sys2Proof.Machine.execHostDecodeError d s
  | .fabricRead f => Sys2Proof.Machine.execFabricRead f s
  | .fabricWrite f => Sys2Proof.Machine.execFabricWrite f s
  | .fabricAtomic f => Sys2Proof.Machine.execFabricAtomic f s
  | .fabricRed f => Sys2Proof.Machine.execFabricRed f s
  | .fabricDataResponse f => Sys2Proof.Machine.execFabricDataResponse f s
  | .fabricAcknowledgement f => Sys2Proof.Machine.execFabricAcknowledgement f s
  | .fabricRefusal f => Sys2Proof.Machine.execFabricRefusal f s
  | .fabricBarrierArrival f => Sys2Proof.Machine.execFabricBarrierArrival f s
  | .fabricBarrierRelease f => Sys2Proof.Machine.execFabricBarrierRelease f s
  | .fabricCollectiveData f => Sys2Proof.Machine.execFabricCollectiveData f s
  | .fabricCollectiveAbort f => Sys2Proof.Machine.execFabricCollectiveAbort f s
  | .fabricReservedFlit f => Sys2Proof.Machine.execFabricReservedFlit f s
  | .fabricPortDown p => Sys2Proof.Machine.execFabricPortDown p s
  | .fabricRouteSwitch core pkg => Sys2Proof.Machine.execFabricRouteSwitch core pkg s
  | .vfFlr v => Sys2Proof.Machine.execVfFlr v s
  | .spdmGetMeasurements index nonce => Sys2Proof.Machine.execSpdmGetMeasurements index nonce s
  | .spdmKeyExchange share => Sys2Proof.Machine.execSpdmKeyExchange share s
  | .cxlTableAccess n => Sys2Proof.Machine.execCxlTableAccess n s
  | .invAll d => Sys2Proof.Machine.execInvAll d s
  | .invAsid d => Sys2Proof.Machine.execInvAsid d s
  | .invRange d => Sys2Proof.Machine.execInvRange d s
  | .setAttr d => Sys2Proof.Machine.execSetAttr d s
  | .setFmt d => Sys2Proof.Machine.execSetFmt d s
  | .setRegion d => Sys2Proof.Machine.execSetRegion d s
  | .mtcmdBadOp d op => Sys2Proof.Machine.execMtcmdBadOp d op s
  | .btEvict d => Sys2Proof.Machine.execBtEvict d s
  | .btRestore d => Sys2Proof.Machine.execBtRestore d s
  | .btcmdBadOp d op => Sys2Proof.Machine.execBtcmdBadOp d op s
  | .unpark d => Sys2Proof.Machine.execUnpark d s
  | .skip d => Sys2Proof.Machine.execSkip d s
  | .kill d => Sys2Proof.Machine.execKill d s
  | .fqcmdTrap d => Sys2Proof.Machine.execFqcmdTrap d s
  | .halt d => Sys2Proof.Machine.execHalt d s
  | .resume d => Sys2Proof.Machine.execResume d s
  | .step d => Sys2Proof.Machine.execStep d s
  | .dbgRead d => Sys2Proof.Machine.execDbgRead d s
  | .dbgWrite d => Sys2Proof.Machine.execDbgWrite d s
  | .dbgcmdBadOp d op => Sys2Proof.Machine.execDbgcmdBadOp d op s
  | .loadFw val => Sys2Proof.Machine.execLoadFw val s
  | .lcTransition val => Sys2Proof.Machine.execLcTransition val s
  | .mbcmdBadOp val => Sys2Proof.Machine.execMbcmdBadOp val s
  | .vfrstWrite v val => Sys2Proof.Machine.execVfrstWrite v val s
  | .negoWrite v val => Sys2Proof.Machine.execNegoWrite v val s
  | .devrstWrite val => Sys2Proof.Machine.execDevrstWrite val s
  | .hqctlWrite v q val => Sys2Proof.Machine.execHqctlWrite v q val s
  | .vfctlWrite v val => Sys2Proof.Machine.execVfctlWrite v val s
  | .fqtailWrite d val => Sys2Proof.Machine.execFqtailWrite d val s
  | .mgstatWrite d val => Sys2Proof.Machine.execMgstatWrite d val s
  | .fabrtWrite p val => Sys2Proof.Machine.execFabrtWrite p val s
  | .nmwdtWrite d k val => Sys2Proof.Machine.execNmwdtWrite d k val s
  | .pwrlimWrite val => Sys2Proof.Machine.execPwrlimWrite val s
  | .registerWrite off val => Sys2Proof.Machine.execRegisterWrite off val s
  | .thermalTrip => Sys2Proof.Machine.execThermalTrip s
  | .hostLinkDown => Sys2Proof.Machine.execHostLinkDown s
  | .powerGood => Sys2Proof.Machine.execPowerGood s
  | .powerLoss => Sys2Proof.Machine.execPowerLoss s
  | .cxlReset => Sys2Proof.Machine.execCxlReset s
  | .pf0Flr => Sys2Proof.Machine.execPf0Flr s
  | .spdmGetVersion => Sys2Proof.Machine.execSpdmGetVersion s
  | .spdmGetCapabilities => Sys2Proof.Machine.execSpdmGetCapabilities s
  | .biasToHost => Sys2Proof.Machine.execBiasToHost s
  | .biasToDevice => Sys2Proof.Machine.execBiasToDevice s
  | .biasFlipComplete => Sys2Proof.Machine.execBiasFlipComplete s
  | .hostLinkUp => Sys2Proof.Machine.execHostLinkUp s

end Sys2Proof.Machine
end

