-- ==== Sys2Proof/Machine/Hazard.lean ====
section
/-! DEFINITION. What keeps a sheaf from issuing its instruction: registers and latch entries that await a load, and the waits
that an instruction makes where it stands (01 R17, R20, 07 Table 7-2, R135, 10 R202, 12 R231, 14 R265, 15 R287 to R294, 17
R327, 20 R371, R373, R378). -/

namespace Sys2Proof.Machine

/-! ### Registers that an instruction names -/

/-- Lane registers, latches and uniform registers. -/
structure Names where
  v : List Nat := []
  b : List Nat := []
  s : List Nat := []
  deriving DecidableEq, Repr

/-- Both. -/
def Names.and (x y : Names) : Names := { v := x.v ++ y.v, b := x.b ++ y.b, s := x.s ++ y.s }

/-- What an operand field names: `w` lane registers from it on, 0 where the position holds none (05 R96, R99). -/
def opNames (a : BitVec 7) (w : Nat) : Names :=
  let n := a.toNat
  if w = 0 then {}
  else if n < 64 then { v := (upto w).map (· + n) }
  else if n < 72 then { b := [n - 64] }
  else if n < 104 then { s := [n - 72] }
  else {}

/-- How many registers a position holds, from what its field conditions admit there (05 R97, Table 5-11): 0 where it holds
no register. -/
def regWidth (ok : Nat → Bool) : Nat := if !ok 60 then 0 else if ok 61 then 1 else if ok 62 then 2 else 4

/-- The uniform registers that a word names. -/
def sNames (l : List (BitVec 6)) : Names := { s := l.map (·.toNat) }

/-- The registers that X names (05 R92, R102). -/
def xNames (e : Enc) : Names :=
  match e.m with
  | some m =>
    if m.l1 then opNames m.x (regWidth (fun n => fieldsOk { e with m := some { m with x := BitVec.ofNat 7 n, xlu := false } }))
    else {}
  | none => {}

/-- The registers that an instruction reads or writes where it issues (05 Tables 5-4, 5-8 to 5-10). A store without TY may
take a pair, as its page decides (12 R228). Log 114 (DEDUCED, unsafe). -/
def namesOf (e : Enc) : Names :=
  (xNames e).and (match e.f with
  | .alu f =>
    let a := opNames f.a (if e.p = 0x063 && mxPos (mxscSrc e.m) f.a f.b = 64 then 2
      else regWidth (fun n => fieldsOk { e with f := .alu { f with a := BitVec.ofNat 7 n, alu := false } }))
    let b := opNames f.b (regWidth (fun n => fieldsOk { e with f := .alu { f with b := BitVec.ofNat 7 n, blu := false } }))
    let d := if e.p = 0x04B || e.p = 0x00A then ({} : Names)
      else opNames (f.vd.setWidth 7) (regWidth (fun n => fieldsOk { e with f := .alu { f with vd := BitVec.ofNat 6 n } }))
    (a.and b).and d
  | .aluI f =>
    (opNames f.a (regWidth (fun n => fieldsOk { e with f := .aluI { f with a := BitVec.ofNat 7 n, alu := false } }))).and
      (opNames (f.vd.setWidth 7) (regWidth (fun n => fieldsOk { e with f := .aluI { f with vd := BitVec.ofNat 6 n } })))
  | .mem f =>
    let w := regWidth (fun n => fieldsOk { e with f := .mem { f with vd := BitVec.ofNat 6 n } })
    (opNames f.a (regWidth (fun n => fieldsOk { e with f := .mem { f with a := BitVec.ofNat 7 n, alu := false } }))).and
      (opNames (f.vd.setWidth 7) (if e.p = 0x081 && tyCode e.m = 31 then 2 else w))
  | .cReg f => (opNames f.a 2).and { v := if e.p = 0x0A4 then [62, 63] else [] }
  | .cFar _ => if e.p = 0x0A3 then { v := [62, 63] } else if e.p = 0x142 then { s := [63] } else {}
  | .cCond _ | .c0 _ => {}
  | .sReg f => sNames [f.sd, f.sa, f.sb]
  | .sMem f => sNames [f.sd, f.sa]
  | .sImm f => sNames [f.sd]
  | .uLoop f => sNames [f.s]
  | .mx f =>
    let rs := match e.m with | some m => m.fl = 1 | none => false
    (sNames [f.sa, f.sb]).and { v := if rs || e.p = 0x16A then upto 64 else [] }
  | .th f => (sNames [f.sa, f.sb, f.sc]).and { s := if e.p = 0x185 then (upto 4).map (· + f.sa.toNat) else [] }
  | .sy f => sNames [f.sa, f.sb]
  | .sys f => sNames [f.sa])

/-- Whether a row of a sheaf's chain awaits a value. -/
def Sheaf.latchPends (h : Sheaf) (n : Nat) : Bool :=
  match h.latch.getD n none with
  | some row => row.any (fun e => h.active.contains e.1 && (match e.2 with | .pend _ => true | .val _ => false))
  | none => false

/-- Whether an instruction names a register or a latch entry that awaits a load. Log 49 (DEDUCED, unsafe).
Log 114 (DEDUCED, unsafe). -/
def State.pending (s : State) (h : Sheaf) (n : Names) : Bool :=
  h.active.any (fun t => n.v.any (fun r => (tget (s.thread t).pend r).isSome) ||
    n.s.any (fun r => (tget (s.wave (wkOf t)).pend r).isSome)) || n.b.any h.latchPends

/-! ### Waits of some instructions -/

/-- The queue of accesses of a stream, not ended, before what its owner issues now. -/
def State.queued (s : State) (o : Owner) : List Acc := ((s.stream o).iq).filterMap (fun g => tget s.accs g)

/-- Whether an access that performs where it issues must wait for earlier ones (07 Table 7-2). -/
def State.mustFollow (s : State) (o : Owner) (a : Acc) : Bool := (s.queued o).any (fun e => (s.stream o).blocks e a)

/-- A scratchpad access for program order: it shares no line with any other. -/
def spAcc (o : Owner) (kind : AccKind) (ord : Ord) (scope : Nat) : Acc :=
  { gid := 0, owner := o, core := 0, die := 0, kind := kind, ord := ord, scope := scope }

/-- Whether `ldsp` or `stsp` waits: for its team's banks, for program order, a scope wider than `.core` acting as `.core`, or for
a station that loads (12 R231, 14 R265, 20 R373). Log 40 (DEDUCED, unsafe). -/
def State.spWaits (s : State) (h : Sheaf) (load : Bool) (ord : OrdSpec) (f : Sys2Proof.Mem) : Bool :=
  let kind := if load then AccKind.load else .store
  !s.banksHere h.team ||
  h.active.any (fun t =>
    s.mustFollow (.thread t) (spAcc (.thread t) kind ord.1 (min ord.2.2.1 2)) ||
    (ord.1 = .sc && s.mustFollow (.thread t) { fenceOf (.thread t) 0 0 0 .sc (min ord.2.2.1 2) with op := 1 }) ||
    (load && (match s.stationOf h.team ((readSp f (s.lane h t false)).1.offset / 0x4000) with
      | some d => stBsy d
      | none => false)))

/-- Whether earlier accesses of a sheaf's fragments keep a release of scope `.sys` that is no access back.
Log 40 (DEDUCED, unsafe). Log 58 (DEDUCED, unsafe). -/
def State.relWaits (s : State) (h : Sheaf) : Bool :=
  h.fragments.any (fun fr => (fragOwners fr).any (fun o => s.mustFollow o { fenceOf o 0 0 0 .rel 7 with op := 1 }))

/-- Whether a held atomic keeps a release or a fence that is no access back in a stream (07 R135). -/
def State.heldFor (s : State) (o : Owner) (f : Acc) : Bool :=
  (s.queued o).any (fun e => e.held && !e.drained && (s.stream o).blocks e f)

/-- Threads of the sheaf in front that stall behind a held atomic at an instruction that releases without an access in their
queues (07 R135). Log 58 (DEDUCED, unsafe). -/
def State.relStalled (s : State) (h : Sheaf) (i : Instr) : List Nat :=
  let sp (ord : OrdSpec) : List Nat :=
    h.active.filter (fun t => ord.1 ≠ .rlx && ord.1 ≠ .acq && s.heldFor (.thread t) { fenceOf (.thread t) 0 0 0 .rel 2 with op := 1 })
  if !s.isDet h.team then []
  else match i with
  | .ldsp m _ => sp (loadOrd m)
  | .stsp m _ => sp (storeOrd m)
  | .wlpush _ _ | .chapp _ _ | .launch _ _ | .nlaunch _ _ | .coll _ _ | .topk _ _ | .gath _ _ =>
    (h.fragments.filter (fun fr => (fragOwners fr).any (fun o => s.heldFor o { fenceOf o 0 0 0 .rel 7 with op := 1 }))).flatten
  | _ => []

/-- Whether `aflush` waits for atomics and `red`s before it (15 R292). Log 58 (DEDUCED, unsafe). -/
def State.flushWaits (s : State) (h : Sheaf) : Bool :=
  !s.isDet h.team &&
  h.fragments.any (fun fr => (fragOwners fr).any (fun o => (s.queued o).any (fun e => (e.kind = .atomic || e.kind = .red) && !(s.stream o).foreign.contains e.gid)))

/-- Whether `tret` waits for earlier accesses to its record (20 R366). Log 44 (DEDUCED, unsafe). -/
def State.tretWaits (s : State) (h : Sheaf) : Bool :=
  h.active.any (fun t => match (s.thread t).trapVa with
    | none => false
    | some va =>
      let ls := match s.pageOf (s.dieOfTeam h.team) (s.asidOf t) va.toNat with
        | .ok p => linesOf (p.pa + (va.toNat - p.va)) 64
        | .error _ => []
      let home := match s.pageOf (s.dieOfTeam h.team) (s.asidOf t) va.toNat with | .ok p => p.die | .error _ => 0
      s.mustFollow (.thread t) { spAcc (.thread t) .load .rlx 7 with target := .pkg home, lines := ls,
                                                                     elem := { bit := 8 * va.toNat, width := 512 } })

/-- Whether an opcode accesses memory (12, 13, 14, 15). -/
def accesses (p : Nat) : Bool :=
  p = 0x080 || p = 0x081 || p = 0x084 || (0x088 ≤ p && p ≤ 0x095) || p = 0x0EC || p = 0x10E || p = 0x10F || p = 0x161 ||
  (0x163 ≤ p && p ≤ 0x165) || p = 0x167 || p = 0x168 || (0x180 ≤ p && p < 0x1A0) || p = 0x1A7 || (0x1C0 ≤ p && p < 0x1D0) || p = 0x1E1

/-- Whether the issuing sheaf's instruction waits. Log 58 (DEDUCED, unsafe). Log 114 (DEDUCED, unsafe). -/
def State.mustWait (s : State) (i : Instr) : Bool :=
  match s.front, i.enc with
  | some h, some e =>
    s.pending h (namesOf e) || (accesses e.p && s.attrBusy) ||
    (match i with
    | .ldsp m f => s.spWaits h true (loadOrd m) f
    | .stsp m f => s.spWaits h false (storeOrd m) f
    | .wlpush _ _ | .chapp _ _ | .launch _ _ | .nlaunch _ _ | .coll _ _ | .topk _ _ | .gath _ _ => s.relWaits h
    | .aflush _ _ => s.flushWaits h
    | .tret _ _ => s.tretWaits h
    | _ => 0x160 ≤ e.p && e.p < 0x180 && !s.banksHere h.team)
  | _, _ => false

/-- Whether a sheaf may not issue whatever its instruction: its team is not in the active set or is being swapped in, the
package has stopped, its threads wait for a ring image, or its wave is halted. Log 114 (DEDUCED, unsafe). -/
def State.sheafStalls (s : State) (h : Sheaf) : Bool :=
  s.stoppedAll || !s.teamActive h.team || (s.core h.core).swapping ≠ 0 ||
  h.active.any (fun t => s.ringLoads.any (fun r => r.tids.contains t) ||
    (let w := s.wave (wkOf t); w.haltBit && !w.stepping.contains t))

end Sys2Proof.Machine
end

