-- ==== Sys2Proof/Machine/Issue.lean ====
section
/-! DEFINITION. The issue of a sheaf: its replays, its fetch and decode, its waits, and the step that a debugger allows (01
R8, 05 R105, R106, 20 R362, R378). -/

namespace Sys2Proof.Machine

/-- The waves of a sheaf that a debugger has halted and that may take one step. -/
def State.steppers (s : State) (h : Sheaf) : List Nat :=
  (dedup (h.tids.map wkOf)).filter (fun w => s.halted w)

/-- The halt of some waves after the step of a sheaf (20 R378). -/
def State.endStep (s : State) (h : Sheaf) (ws : List Nat) : State :=
  if ws.isEmpty then s
  else
    let s := ws.foldl (fun s w => s.modWave w (fun x => { x with stepping := x.stepping.filter (fun t => !h.tids.contains t) })) s
    (s.sheaves.filter (fun x => x.tids.any (fun t => ws.contains (wkOf t)))).foldl State.breakSheaf s

/-- Threads that stall behind a held atomic leave the sheaf in front, which goes on without them (07 R135). -/
def State.stallOut (s : State) (h : Sheaf) (st : List Nat) : State :=
  st.foldl (fun s t => s.addWait { wk := wkOf t, tids := [t], pc := h.pc, next := h.pc, what := .held 0 })
    (s.setFront { h with tids := h.tids.filter (fun t => !st.contains t) })

/-- A sheaf's instruction executes, unless it waits; `w` and `w2` are its words (05 R105, R106). -/
def State.issueWords (s : State) (h : Sheaf) (w w2 : W32) : Host.Outcome State Fault Refusal :=
  match s.decodeAt h w w2 with
  | .error code => .next (s.trapFront h h.active code h.pc (recWords w w2) 0)
  | .ok i =>
    let st := s.relStalled h i
    if !st.isEmpty then .next (s.stallOut h st) else if s.mustWait i then .next s else exec i s

/-- The sheaf stalls, or every active thread of it stalls behind a held atomic. Log 59 (DEDUCED, unsafe). -/
def State.stuck (s : State) (h : Sheaf) : Bool :=
  s.sheafStalls h || (!h.active.isEmpty && h.active.all s.detStalled)

/-- The issue of the sheaf in front: nothing happens while it stalls; threads that stall behind a held atomic, and threads
that replay an access, leave it first. -/
def State.issueFront (s : State) (h : Sheaf) : Host.Outcome State Fault Refusal :=
  let st := h.active.filter s.detStalled
  if s.stuck h then .next s
  else if !st.isEmpty then .next (s.stallOut h st)
  else
    let s := s.modCore h.core (fun c => { c with watch := 0 })
    match s.replayFront with
    | some s => .next s
    | none => match s.fetchAt h false 0 with
      | (.error (kind, va), s) => .next (s.fetchFault h kind va)
      | (.ok (w, w2), s) => s.issueWords h w w2

/-- Whether the sheaf in front has nothing to issue: it stalls, or its instruction waits. -/
def State.idle (s : State) (h : Sheaf) : Bool :=
  s.stuck h || (!h.active.any s.detStalled && s.replayFront.isNone &&
    (match s.fetchAt h false 0 with
      | (.ok (w, w2), s) => (match s.decodeAt h w w2 with | .ok i => (s.relStalled h i).isEmpty && s.mustWait i | .error _ => false)
      | _ => false))

/-- Whether a cycle leaves a sheaf its turn: two issue in one, each once, and an earlier-formed one of the core that can issue goes first
(18 R348). -/
def State.hasTurn (s : State) (h : Sheaf) : Bool :=
  let done := (s.core h.core).issued
  done.length < 2 && !done.contains h.formed &&
  (upto s.sheaves.length).all (fun j => match s.sheaves[j]? with
    | some x => x.core ≠ h.core || h.formed ≤ x.formed || done.contains x.formed || (s.bring j).idle x
    | none => true)

/-- A sheaf that issues counts among those of its cycle. -/
def State.noteIssue (s : State) (h : Sheaf) : State :=
  if s.idle h then s else s.modCore h.core (fun c => { c with issued := c.issued ++ [h.formed] })

/-- The `k`-th sheaf issues. -/
def State.issueTurn (s : State) (k : Nat) : Host.Outcome State Fault Refusal :=
  match s.sheaves[k]? with
  | none => .fault .noSheaf
  | some h =>
    if s.stuck h || !s.hasTurn h then .next s
    else
      let s := (s.bring k).noteIssue h
      match s.issueFront h with
      | .next s' => .next (s'.endStep h (s.steppers h))
      | o => o

/-- Whether no apply queue holds more than 2,048 writes of one home (17 R320). -/
def State.queuesFit (s : State) : Bool :=
  (upto nDies).all (fun d => (upto nDies).all (fun h => ((s.die d).aq.filter (fun w => w.home = h)).length ≤ 2048))

/-- A turn's outcome, unless it numbers more writes than an apply queue takes: a home then numbers none, and the turn waits (17
R320). -/
def State.inQueues (s : State) (t : Turn) (o : Host.Outcome State Fault Refusal) : Host.Outcome State Fault Refusal :=
  match o with
  | .next s' => if s'.queuesFit then o else (match t with | .issue _ => .next s | .event _ => notEnabled "WRITE_SEQUENCE")
  | _ => o

/-- A turn taken. Log 1 (DESIGN CHOICE, unsafe). Log 102 (DEDUCED, unsafe). Log 116 (DESIGN CHOICE, safe). -/
def State.takeTurn (s : State) (t : Turn) : Host.Outcome State Fault Refusal :=
  s.inQueues t (match t with
    | .issue k => s.issueTurn k
    | .event i => exec i s)

/-! ### A sheaf placed at an instruction -/

/-- The VA and the PA of the placed code: the start of die 0's memory of this package. -/
def State.codeVa (s : State) : Nat := bits s.hub.fabId.toNat 10 0 * 2 ^ 46

/-- A launch of one team of one wave, with every bank and tile. Log 1 (DESIGN CHOICE, unsafe). -/
def placedLaunch (va : Va) : Launch :=
  { src := .slot 0 0 0 0, nm := false, asid := 0, vf := 0, record := 0, pc := va, stage := .admitted,
    ctl := BitVec.ofNat 64 (2 + 64 * 2 ^ 16 + 16 * 2 ^ 23), lev := [0x21], ext := [0, 1, 1], teams := 1 }

/-- The page of the placed code. -/
def placedPage (va : Nat) : Page := { asid := 0, va := va, pa := 0, bits := 12, x := true }

/-- The words of an instruction in memory, readable and executable through die 0's MTLB, and a team on core 0 whose one
live thread stands at them in a sheaf: the next step issues it (log entry 1). Log 1 (DESIGN CHOICE, unsafe). -/
def State.placeWords (s : State) (w : Nat) : State :=
  let va := s.codeVa
  let cells := cellsAt 0 (natBytes w 8)
  let k := s.next
  let l := placedLaunch (BitVec.ofNat 57 va)
  let clock := (s.die 0).clock
  let tid := 1024 * k
  let s := s.modMem (fun m => { m with home := memSetAll m.home cells })
  let s := s.modDie 0 (fun d => { d with
    log := d.log ++ [{ t := clock, home := 0, num := 0, content := [.cells cells] }],
    mtlb := { asid := 0, page := placedPage va } :: d.mtlb })
  let s := s.modVf 0 (fun v => { v with en := true, vfAsid := 0x10000, feat := tset v.feat 0 0x3FF, negd := true })
  let s := s.modCore 0 (fun c => { c with swapping := 0, bankTeam := some k, issued := [] })
  { s with
    next := k + 1
    icache := s.icache.filter (fun e => e.1 ≠ codeKey (fetchUnit 0) 0 (va / lineBytes))
    launches := tset s.launches k { l with team0 := k }
    teams := tset s.teams k { launch := k, idx := 0, asid := 0, vf := 0, die := 0, core := some 0, place := .active,
                              frame := some 0, waves := 1, spb := 64, acc := 16, started := true }
    waves := tset s.waves (32 * k) (newWave l clock)
    threads := tset s.threads tid { newThread l 0 0 0 clock with stat := .inSheaf }
    sheaves := { core := 0, team := k, pc := BitVec.ofNat 57 va, tids := [tid] } :: s.sheaves
    agenda := [.issue 0] }

end Sys2Proof.Machine
end

