-- ==== Sys2Proof/Machine/Policy.lean ====
section
/-! DEFINITION. The turn that the machine takes of its own accord when its agenda is empty (log entry 1): the first of its
duties that the rules enable and that changes the state, in an order that turns with the clock, and then a cycle of every
die. Steps of outside parties, and choices that the device need not make, are taken from the agenda only. -/

namespace Sys2Proof.Machine

/-- Accesses: sent, performed, numbered and applied. -/
def State.accDuties (s : State) : List Instr :=
  let gs := keys s.accs
  gs.flatMap (fun g => [.storeSend g [], .loadPerform g 0, .atomicHomeStep g 0, .qntBatch [g], .fenceComplete g, .packageDrain g]) ++
  (upto nDies).flatMap (fun d =>
    (upto (s.die d).inbox.length).map (fun i => Instr.writeSequence d i) ++ (upto nDies).map (fun h => Instr.writeApply d h)) ++
  (upto s.mem.restores.length).map (fun i => Instr.deadLoadRestore i)

/-- Ends of waits, by their place. -/
def State.waitDuties (s : State) : List Instr :=
  (upto s.waits.length).flatMap (fun i => [.barrierRelease i, .mwaitComplete i, .tileRangeComplete i, .waitwpComplete i,
    .wlquietWake i, .waitseqComplete i 0, .waitseqTimeout i]) ++
  (upto s.ringLoads.length).map (fun i => Instr.ringContextBind ⟨i, 0⟩) ++
  s.stationLoads.map (fun x => Instr.stationLoadComplete x.team x.w) ++
  (keys s.waves).flatMap (fun wk => [.rendezvousExecute wk, .xlaneSplit wk])

/-- A frame for a team: its own, or the lowest that it may hold. -/
def State.someFrame (s : State) (tk : Nat) : Nat :=
  match tget s.teams tk with
  | some t => (t.frame.getD (((upto (s.frames t.vf t.die)).find? (fun f => s.frameOk tk f)).getD 0))
  | none => 0

/-- Placement of the teams that wait, on the cores and the sequencers of their dies. -/
def State.placeDuties (s : State) : List Instr :=
  (s.teams.filter (fun e => e.2.place = .waiting)).flatMap (fun e =>
    let f := s.someFrame e.1
    Instr.priorityAging e.1 ::
    (if s.isNm e.1 then (upto (4 * nDies * seqPerStack)).map (fun q => Instr.nmBlockPlacement e.1 (nCores + q) f)
     else (upto coresPerDie).flatMap (fun c =>
       [.teamPlacement e.1 (coresPerDie * e.2.die + c) f, .gleanerFill (coresPerDie * e.2.die + c) e.1 f])))

/-- Duties of the executors that have been used. -/
def State.coreDuties (s : State) : List Instr :=
  (keys s.execs).flatMap (fun c =>
    (upto (s.core c).gangs.length).map (fun i => Instr.gangLatchMeet c i) ++
    (upto (s.core c).products.length).map (fun i => Instr.productComplete c i) ++
    (keys s.launches).map (fun l => Instr.detSwitchPoint c l) ++
    [.bankSpillFill c, .sheafDraw c, .timeSliceExpiry c, .blockedTimeout c, .loftSwap c, .gleanerSave c [], .sequencerWatchdog c])

/-- Instances of the levels of a launch that have a team. -/
def State.instances (s : State) (l : Nat) : List (Nat × Nat) :=
  match tget s.launches l with
  | some x => (x.levels.flatMap (fun lev => (s.teamsOf l).map (fun tk => (lev, s.instOf lev (32 * tk))))).eraseDups ++ [(8, 0)]
  | none => []

/-- Duties of the launches and of the host queues. -/
def State.launchDuties (s : State) : List Instr :=
  (keys s.launches).flatMap (fun l =>
    [.launchEligible l, .quiescence l, .kernelEndDrain l, .launchComplete l] ++ (upto nDies).map (fun d => Instr.launchAdmission l d) ++
    (s.instances l).flatMap (fun x => [.detFlushDrain l x.1 x.2, .barSplit l x.1 x.2])) ++
  s.vfs.flatMap (fun v => v.2.queues.flatMap (fun q =>
    Instr.hostQueueSlotTake v.1 q.1 ::
    (match s.vaTarget q.2.asid.toNat q.2.tail.toNat with | .ok (.pkg _) => [Instr.tailLineInvalidate v.1 q.1 0] | _ => [])))

/-- Duties of the engines and the streams. -/
def State.engineDuties (s : State) : List Instr :=
  (keys s.engines).flatMap (fun e => [.engineEntryStart ⟨e, 0⟩, .engineLineRelease e, .engineEntryComplete e, .engineFault e] ++
    (match (s.engine e).job with | some j => [Instr.collectiveMatch j.grp.toNat] | none => [])) ++
  (upto s.streams.length).flatMap (fun i => [.streamStart i, .engineLineRelease (128 + i), .streamComplete i, .streamFault i])

/-- Duties of the dies, the hub and the fabric. -/
def State.dieDuties (s : State) : List Instr :=
  (upto nDies).flatMap (fun d => [.faultRecordWrite d, .errorRecordWrite d, .mtcmdComplete d, .migrationEpoch d]) ++
  [.errorRecordWrite 4, .biasFlipComplete] ++
  (keys s.chans ++ keys s.inbound).flatMap (fun k => [.packageChannelDelivery false (k / 2048) (k % 2048), .packageChannelDelivery true (k / 2048) (k % 2048)]) ++
  (upto 16).map (fun st => Instr.siloEviction st)

/-- Everything that the machine may do by itself. Log 1 (DESIGN CHOICE, unsafe). Log 116 (DESIGN CHOICE, safe). -/
def State.duties (s : State) : List Turn :=
  (upto s.sheaves.length).map Turn.issue ++
  (s.accDuties ++ s.waitDuties ++ s.coreDuties ++ s.engineDuties ++ s.launchDuties ++ s.dieDuties ++ s.placeDuties).map Turn.event

/-- A list turned by `n` places. -/
def turned {α : Type} (l : List α) (n : Nat) : List α := let k := n % l.length; l.drop k ++ l.take k

/-- Whether a turn changes the state. Log 1 (DESIGN CHOICE, unsafe). -/
def State.moves (s : State) (t : Turn) : Bool := match s.takeTurn t with | .next s' => s' ≠ s | _ => false

/-- A cycle of every die. Log 1 (DESIGN CHOICE, unsafe). -/
def cycleTurns : List Turn := (upto nDies).map (fun d => .event (.dieClockTick d))

/-- The turns that the machine takes next. Log 1 (DESIGN CHOICE, unsafe). -/
def State.plan (s : State) : List Turn :=
  (((turned s.duties (s.die 0).cycles.toNat).find? s.moves).toList) ++ cycleTurns

end Sys2Proof.Machine
end

