-- ==== Sys2Proof/Machine/Step.lean ====
section
/-! DEFINITION. One step of the machine, and the state with an instruction placed where the next step fetches. -/

namespace Sys2Proof.Machine

/-- The turns ahead: the agenda, or what the machine does of its own accord when that is empty. -/
def State.ahead (s : State) : List Turn := if s.agenda.isEmpty then s.plan else s.agenda

/-- One step: the next turn is taken. -/
def step (s : State) : Host.Outcome State Fault Refusal :=
  match s.ahead with
  | t :: r => ({ s with agenda := r } : State).takeTurn t
  | [] => .fault .noSheaf

/-- The instruction of a table word, of `nbits` bits and the rest 0, where `step` fetches its next instruction. -/
def State.withFetchWord (s : State) (nbits w : Nat) : State := s.placeWords (w % 2 ^ nbits)

end Sys2Proof.Machine
end

