-- ==== Sys2Proof/Safety.lean ====
section
/-! DEFINITION. The terms that claims are stated in: a step that runs, the sheaf that issues, and what a lane
instruction, a uniform instruction and a rendezvous leave. -/

namespace Sys2Proof.Claims
open Sys2Proof.Machine

/-- The step runs. -/
def Runs (s : State) : Prop := ∃ t, step s = .next t

/-- The sheaf `h` issues, with an active lane, and its threads are in the state. -/
abbrev Issues (s : State) (h : Sheaf) : Prop :=
  s.front = some h ∧ h.active ≠ [] ∧ h.active.Nodup ∧ ∀ k ∈ h.active, (tget s.threads k).isSome = true

/-- The sheaf `h` as it goes on inside its run at the instruction after `words`, with chain `latch`. -/
def after (h : Sheaf) (words : W64) (latch : List (Option (Tbl LatchVal))) : Sheaf :=
  { h with pc := afterPc h.pc words, inRun := true, refetch := 0, latch := latch }

/-- Nothing of the state changes but threads and the issuing sheaf. -/
def OnlyThreads (s t : State) : Prop :=
  t = { s with threads := t.threads, sheaves := t.sheaves } ∧ t.sheaves.drop 1 = s.sheaves.drop 1

/-- Nothing of the state changes but threads, waves and the issuing sheaf. -/
def OnlyWaves (s t : State) : Prop :=
  t = { s with threads := t.threads, waves := t.waves, sheaves := t.sheaves } ∧ t.sheaves.drop 1 = s.sheaves.drop 1

/-- Memory, dies, executors but their bins, accesses, launches, engines, functions and the hub are as they were. -/
def KeepsMachine (s t : State) : Prop :=
  t.mem = s.mem ∧ t.dies = s.dies ∧ t.accs = s.accs ∧ t.launches = s.launches ∧ t.engines = s.engines ∧ t.vfs = s.vfs ∧
  t.hub = s.hub ∧ t.chans = s.chans ∧ t.out = s.out ∧ t.bars = s.bars ∧ t.streams = s.streams

/-- Lane instruction `i` (08 R143): where a lane does not trap, the sheaf goes on; every active thread is what `eff` makes of
its lane, a trapped one keeping what it had and noted in the sheaf; the chain takes one row of results where the
instruction has them (01 R20); and nothing else changes. -/
def LaneEffectAt (i : Instr) (words : W64) (ill shift : Bool) (eff : State → Sheaf → Lane → Lane) : Prop :=
  ∀ (s : State) (h : Sheaf), Issues s h → (∃ k ∈ h.active, (eff s h (s.lane h k ill)).trap = none) →
    ∃ t, exec i s = .next t ∧
      t.front = some { after h words
          (if shift then
            shiftLatch h.latch (h.active.map (fun k =>
              let l := eff s h (s.lane h k ill)
              (k, .val (if l.trap = none then l.out else 0))))
           else h.latch) with
          trapped := h.trapped ++ trapsOf (h.active.map (fun k => eff s h (s.lane h k ill))) h.pc words } ∧
      (∀ k ∈ h.active, t.thread k = (eff s h (s.lane h k ill)).final) ∧
      (∀ k, k ∉ h.active → t.thread k = s.thread k) ∧ OnlyThreads s t

/-- A lane instruction whose lanes need nothing but themselves. -/
def LaneEffect (i : Instr) (words : W64) (ill shift : Bool) (eff : Lane → Lane) : Prop :=
  LaneEffectAt i words ill shift (fun _ _ => eff)

/-- Uniform instruction `i` (01 R11): the sheaf goes on inside its run, the wave of each fragment is what `eff` makes of it
from the fragment's lowest thread, threads take `W.ILLMOD` where `ill` says so, and nothing else changes. -/
def UniEffect (i : Instr) (words : W64) (ill : Bool) (eff : State → Nat → Wave → Wave) : Prop :=
  ∀ (s : State) (h : Sheaf), Issues s h → (∀ k ∈ h.active, (tget s.waves (wkOf k)).isSome = true) →
    ∃ t, exec i s = .next t ∧ t.front = some (after h words h.latch) ∧
      (∀ fr ∈ h.fragments, t.wave (wkOf (fr.headD 0)) = eff s (fr.headD 0) (s.wave (wkOf (fr.headD 0)))) ∧
      (∀ wk, (∀ k ∈ h.active, wkOf k ≠ wk) → t.wave wk = s.wave wk) ∧
      (∀ k ∈ h.active, t.thread k = if ill then (s.thread k).flag fILLMOD else s.thread k) ∧
      (∀ k, k ∉ h.active → t.thread k = s.thread k) ∧ OnlyWaves s t

/-- A lane of two operands of one type: `res` of their values is written. -/
def two (f : Alu) (ty : Nat) (res : W64 → W64 → W64) (l : Lane) : Lane :=
  let (x, l) := l.rd f.a f.alu ty (fmtWidth ty)
  let (y, l) := l.rd f.b f.blu ty (fmtWidth ty)
  l.wr f.vd f.nw (fmtWidth ty) (res x y)

/-- A lane of one operand. -/
def one (f : Alu) (ty : Nat) (res : W64 → W64) (l : Lane) : Lane :=
  let (x, l) := l.rd f.a f.alu ty (fmtWidth ty)
  l.wr f.vd f.nw (fmtWidth ty) (res x)

/-- A lane of an operand and a 32-bit amount. -/
def amount (f : Alu) (ty : Nat) (res : W64 → W64 → W64) (l : Lane) : Lane :=
  let (x, l) := l.rd f.a f.alu ty (fmtWidth ty)
  let (y, l) := l.rd f.b f.blu 12 32
  l.wr f.vd f.nw (fmtWidth ty) (res x y)

/-- The integer of a value of a lane integer type. -/
def ival (ty : Nat) (x : W64) : Int :=
  if fmtWidth ty = 64 then (if isSigned ty then x.toInt else x.toNat)
  else (if isSigned ty then (lo32 x).toInt else (lo32 x).toNat)

/-- An operation on the low 32 bits, or on all 64. -/
def sized (ty : Nat) (f : W32 → W32) (g : W64 → W64) (x : W64) : W64 :=
  if fmtWidth ty = 64 then g x else (f (lo32 x)).setWidth 64

/-- The quotient or the remainder of a lane, with the corners of 08 Table 8-2. -/
def divided (f : Alu) (ty : Nat) (rem : Bool) (l : Lane) : Lane :=
  let (x, l) := l.rd f.a f.alu ty (fmtWidth ty)
  let (y, l) := l.rd f.b f.blu ty (fmtWidth ty)
  let out (l : Lane) (v : W64) : Lane := l.wr f.vd f.nw (fmtWidth ty) v
  let trap (l : Lane) (b : Nat) (flag : W32) (v : W64) : Lane :=
    if l.t.idz then l.raise 0x25 (BitVec.ofNat 64 b) else out (l.flag flag) v
  if ival ty y = 0 then trap l 14 fIDIV (if rem then x else -1)
  else if isSigned ty && ival ty x = -2 ^ (fmtWidth ty - 1) && ival ty y = -1 then trap l 15 fIOV (if rem then 0 else x)
  else out l (BitVec.ofInt 64 (if rem then (ival ty x).tmod (ival ty y) else (ival ty x).tdiv (ival ty y)))

/-- A lane of two float operands of one format, rounded by `c.fcr` or the modifier word. -/
def twoFloats (m : Option ModW) (f : Alu) (res : Nat → Nat → Nat → Nat → Nat → Res) (l : Lane) : Lane :=
  let c := fltTy (tyCode m)
  let (x, l) := l.rdFmt f.a f.alu c
  let (y, l) := l.rdFmt f.b f.blu c
  l.wrRes f.vd f.nw c (res c (modeOf m l.t) (l.t.rand (modeOf m l.t) 0) x y)

/-- A lane of one float operand. -/
def oneFloat (m : Option ModW) (f : Alu) (res : Nat → Nat → Nat → Nat → Res) (l : Lane) : Lane :=
  let c := fltTy (tyCode m)
  let (x, l) := l.rdFmt f.a f.alu c
  l.wrRes f.vd f.nw c (res c (modeOf m l.t) (l.t.rand (modeOf m l.t) 0) x)

/-- A predicate written from a comparison, with its flags. -/
def compared (vd : BitVec 6) (v : Bool) (fl : W32) (l : Lane) : Lane :=
  ({ l with t := { l.t with p := setPred l.t.p (vd.toNat % 8) v } } : Lane).flag fl

/-- A lane of two stooks: the set that `op` makes of their cells is written; with `ring` an unbound type traps (10 R195). -/
def stooks (m : Option ModW) (f : Alu) (ring unary : Bool) (op : Nat → List W8 → Nat → Nat → Nat)
    (s : State) (h : Sheaf) (l : Lane) : Lane :=
  let ty := stkTy (tyCode m)
  let img := s.ringOf h.team ty
  let (x, l) := l.rdSk f.a f.alu ty
  let (y, l) := if unary then (0, l) else l.rdSk f.b f.blu ty
  let l := if ring && img.isNone then l.raise 0x29 0 else l
  l.wr f.vd f.nw 32 (BitVec.ofNat 64 (skEnc ty (op ty (img.getD []) x y)))

/-- The union of the table entries named by the members of a set (10 R196, R197). -/
def tabled (ty : Nat) (img : List W8) (table : Nat) (entries : List Nat) : Nat :=
  (entries.map (imgSet img ty table)).foldl Nat.lor 0

/-- A result of a uniform type, extended to 64 bits by its signedness (08 R153). -/
def uext (ty : Nat) (x : W64) : W64 :=
  if fmtWidth ty = 64 then x else if isSigned ty then (lo32 x).signExtend 64 else (lo32 x).setWidth 64

/-- One uniform register written from two, by the operation of a type. -/
def uniform (f : SReg) (ty : Nat) (res : W64 → W64 → W64) (_ : State) (_ : Nat) (w : Wave) : Wave :=
  { w with s := tset w.s f.sd.toNat (uext ty (res (tgetD w.s f.sa.toNat 0) (tgetD w.s f.sb.toNat 0))) }

/-- One uniform register written from its own value. -/
def updated (sd : BitVec 6) (res : W64 → W64) (_ : State) (_ : Nat) (w : Wave) : Wave :=
  { w with s := tset w.s sd.toNat (res (tgetD w.s sd.toNat 0)) }

/-- A branch of the issuing sheaf (01 R8, R22, 08 R157 to R164): `thr` is what a thread becomes before it goes to `next`,
`wav` what its wave becomes. One next PC for all: the sheaf goes on there. Several: it ends, and every thread is ready at
its own. Memory and the rest of the machine keep their state. -/
def BranchEffect (i : Instr) (row : State → Sheaf → List (Option (Tbl LatchVal))) (thr : State → Sheaf → Nat → Thread)
    (wav : State → Nat → Wave) (next : State → Sheaf → Nat → Va) (quiet : State → Sheaf → Prop) : Prop :=
  ∀ (s : State) (h : Sheaf), Issues s h → h.trapped = [] → (∀ k ∈ h.active, (tget s.waves (wkOf k)).isSome = true) → quiet s h →
    ∃ t, exec i s = .next t ∧ KeepsMachine s t ∧
      (∀ k ∈ h.active, t.wave (wkOf k) = wav s (wkOf k)) ∧ (∀ w, (∀ k ∈ h.active, wkOf k ≠ w) → t.wave w = s.wave w) ∧
      (∀ k, k ∉ h.active → t.thread k = s.thread k) ∧
      (∀ v, (∀ k ∈ h.active, next s h k = v) →
        t.front = some { h with pc := v, inRun := false, refetch := 0, latch := row s h } ∧ t.sheaves.drop 1 = s.sheaves.drop 1 ∧
        ∀ k ∈ h.active, t.thread k = thr s h k) ∧
      ((∃ j ∈ h.active, ∃ k ∈ h.active, next s h j ≠ next s h k) →
        t.sheaves = s.sheaves.drop 1 ∧
        ∀ k ∈ h.active, t.thread k = { thr s h k with pc := next s h k, stat := .ready, filedAt := (t.thread k).filedAt })

/-- The branch instructions that leave threads, waves and the chain alone. -/
def PlainBranch (i : Instr) (next : State → Sheaf → Nat → Va) : Prop :=
  BranchEffect i (fun _ h => h.latch) (fun s _ k => s.thread k) (fun s w => s.wave w) next (fun _ _ => True)

/-- A sheaf of one thread, of a wave and a team in the state, issues with no trap in its run. A sheaf of several makes each
thread's access, or runs each fragment, in the same way, one after another (12 R222, 01 R11). -/
abbrev Solo (s : State) (h : Sheaf) (k : Nat) : Prop :=
  s.front = some h ∧ h.tids = [k] ∧ h.trapped = [] ∧ h.team = tkOf k ∧ (tget s.threads k).isSome = true ∧
  (tget s.waves (wkOf k)).isSome = true ∧ (tget s.teams (tkOf k)).isSome = true

/-- After an instruction of thread `k` alone, the sheaf goes on at the next instruction with chain `latch`, inside its run or, where
the instruction ends the run, outside (01 R22), and other threads and memory are as they were. -/
def Continues (s t : State) (h : Sheaf) (k : Nat) (words : W64) (latch : List (Option (Tbl LatchVal))) (inRun : Bool := false) : Prop :=
  t.front = some { after h words latch with inRun := inRun } ∧ t.sheaves.drop 1 = s.sheaves.drop 1 ∧ (∀ j, j ≠ k → t.thread j = s.thread j) ∧ t.mem = s.mem

/-- And so are launches, engines, the hub, the functions and what is sent to the host. -/
def GoesOn (s t : State) (h : Sheaf) (k : Nat) (words : W64) (latch : List (Option (Tbl LatchVal))) (inRun : Bool := false) : Prop :=
  Continues s t h k words latch inRun ∧ t.launches = s.launches ∧ t.engines = s.engines ∧ t.hub = s.hub ∧ t.vfs = s.vfs ∧ t.out = s.out

/-- The sheaf of thread `k` ends and the thread stands ready at the next instruction with the registers that it had (01 R9). -/
def Files (s t : State) (h : Sheaf) (k : Nat) (words : W64) : Prop :=
  t.sheaves = s.sheaves.drop 1 ∧ (∀ j, j ≠ k → t.thread j = s.thread j) ∧ t.mem = s.mem ∧
  t.thread k = { s.thread k with pc := afterPc h.pc words, stat := .ready, filedAt := (t.thread k).filedAt }

/-- The sheaf of thread `k` ends and the thread waits at its instruction for `what`, to go on after it (18 R345). -/
def Waits (s t : State) (h : Sheaf) (k : Nat) (words : W64) (what : WaitFor) (w : Wait) : Prop :=
  t.waits = s.waits ++ [w] ∧ w.what = what ∧ w.wk = wkOf k ∧ w.tids = [k] ∧ w.pc = h.pc ∧ w.next = afterPc h.pc words ∧
  w.spill = false ∧ t.sheaves = s.sheaves.drop 1 ∧ (t.thread k).stat = .waiting ∧ (t.thread k).pc = h.pc ∧
  (t.thread k).regs = (s.thread k).regs ∧ (∀ j, j ≠ k → t.thread j = s.thread j)

/-- An access stands in the table and last in its owner's queue, between two full fences where it is `.sc` (07 R117, R122,
Table 7-2); earlier ones stand as they did. -/
def Queued (s t : State) (g : Nat) (a : Acc) (o : Owner) (kind : AccKind) (ord : Ord) (scope : Nat) : Prop :=
  tget t.accs g = some a ∧ a.gid = g ∧ a.owner = o ∧ a.kind = kind ∧ a.ord = ord ∧ a.scope = scope ∧ a.stage = .issued ∧
  (∀ j, j < s.next → tget t.accs j = tget s.accs j) ∧ s.next ≤ g ∧
  (t.stream o).iq = (s.stream o).iq ++ (if ord = .sc then [g - 1, g, g + 1] else [g])

/-- What an access reads or writes: a target, a page, an element of it, a register format. -/
def Names (a : Acc) (tgt : Target) (p : Page) (e : Elem) (ty : Nat) : Prop :=
  a.target = tgt ∧ a.page = p ∧ a.elem = e ∧ a.ty = ty

/-- Thread `k` alone, at user level, parks at its instruction (12 R227, 20 R365, R367): the sheaf ends, the thread takes no
other change of status, and one more record waits on the die of its team, with the fields of 20 Table 20-3. -/
def Parks (s t : State) (h : Sheaf) (k : Nat) (words : W64) (kind access va : Nat) (opa opb : W64) (opx : W32) : Prop :=
  t.sheaves = s.sheaves.drop 1 ∧ (t.thread k).stat = .parked ∧ (t.thread k).pc = h.pc ∧
  (∃ p, (t.thread k).park = some p ∧ p.kind = kind ∧ p.access = access ∧ p.words = words ∧ p.trap = decide (access = 10)) ∧
  (∃ r, (t.die (s.dieOfTeam (tkOf k))).faults = (s.die (s.dieOfTeam (tkOf k))).faults ++ [r] ∧
    r.kind = kind ∧ r.access = access ∧ r.eng = false ∧ r.va = BitVec.ofNat 64 va ∧ r.pc = h.pc.setWidth 64 ∧ r.words = words ∧
    r.opa = opa ∧ r.opb = opb ∧ r.opx = opx ∧ r.lanes = BitVec.ofNat 32 (2 ^ laneOf k) ∧ r.wave = waveIdx (wkOf k) ∧
    r.vf = s.vfOf (tkOf k)) ∧
  (∀ j, j ≠ k → t.thread j = s.thread j) ∧ t.mem = s.mem ∧ t.accs = s.accs

/-- The atomics with their primary opcodes (12 Table 12-3). -/
def atomics (m : Option ModW) (f : Alu) : List (Nat × Instr) :=
  [(0x088, .atomAdd m f), (0x089, .atomMin m f), (0x08A, .atomMax m f), (0x08B, .atomAnd m f), (0x08C, .atomOr m f),
   (0x08D, .atomXor m f), (0x08E, .atomXchg m f), (0x08F, .atomCas m f), (0x090, .atomFadd m f), (0x091, .atomFmax m f),
   (0x092, .amaxi m f)]

/-- The reduction stores with their primary opcodes. -/
def reductions (m : Option ModW) (f : Alu) : List (Nat × Instr) :=
  [(0x093, .redAdd m f), (0x094, .redMax m f), (0x095, .redEsum m f)]

/-- A rendezvous executes now: the front sheaf has no thread and stands for the meeting of wave `wk`, every live thread of
which waits at one instruction (13 R242). -/
def Meeting (s : State) (wk : Nat) : Prop :=
  (∃ h, s.front = some h ∧ h.tids = [] ∧ h.team = wk) ∧ s.meets wk = true ∧ (s.liveOf wk).Pairwise (· < ·)

/-- The live threads of a wave leave their rendezvous, each what `eff` makes of it, ready at the next instruction; no other
thread, no uniform register, launch, engine, function or status of the package changes. -/
def Met (s t : State) (wk : Nat) (eff : Nat → Thread → Thread) : Prop :=
  t.sheaves = s.sheaves.drop 1 ∧
  (∀ k ∈ s.liveOf wk, t.thread k = { eff k (s.thread k) with
    stat := .ready, pc := afterPc (s.meetWords wk).1 (s.meetWords wk).2, kept := none, q := (t.thread k).q,
    filedAt := (t.thread k).filedAt }) ∧
  (∀ k, k ∉ s.liveOf wk → t.thread k = s.thread k) ∧ (∀ w, (t.wave w).s = (s.wave w).s ∧ (t.wave w).q = (s.wave w).q) ∧
  t.launches = s.launches ∧ t.engines = s.engines ∧ t.vfs = s.vfs ∧ t.out = s.out

/-- The operand that lane `k` of a meeting wave gives: its own value kept at its arrival, or the wave's register or the
constant that the field names (13 R241). -/
def crossed (s : State) (wk k : Nat) (b : Bool) (f : BitVec 7) (c w : Nat) : W64 :=
  let own := ((s.thread k).kept.getD {})
  s.xop wk (if b then own.b else own.a) f c w

/-- The 32-bit A value of lane `n` of a meeting wave, 0 where that lane has exited. -/
def laneValue (s : State) (wk n : Nat) (f : BitVec 7) : W32 :=
  if 32 * wk + n ∈ s.liveOf wk then lo32 (crossed s wk (32 * wk + n) false f 12 32) else 0

/-- A permutation: every live lane takes A of the lane that `src` names, or 0 (13 R246). -/
def Permutes (i : Instr) (vd : BitVec 6) (nw : Bool) (a : BitVec 7) (src : State → Nat → Nat → Option Nat) : Prop :=
  ∀ (s : State) (wk : Nat), Meeting s wk →
    ∃ t, exec i s = .next t ∧ t.mem = s.mem ∧ t.dies = s.dies ∧ t.accs = s.accs ∧
      Met s t wk (fun k x => if nw then x else
        x.setReg vd.toNat (match src s wk k with | some n => laneValue s wk n a | none => 0))

/-- One register, or a pair, of every live lane written with its own result and flags (13 R247 to R251). -/
def Gathers (i : Instr) (vd : BitVec 6) (nw : Bool) (w : Nat) (res : State → Nat → Nat → Nat × W32) : Prop :=
  ∀ (s : State) (wk : Nat), Meeting s wk →
    ∃ t, exec i s = .next t ∧ t.mem = s.mem ∧ t.dies = s.dies ∧ t.accs = s.accs ∧
      Met s t wk (fun k x =>
        let y := x.flag (res s wk k).2
        let v := BitVec.ofNat 64 (res s wk k).1
        if nw then y else if w = 64 then y.setPair vd.toNat v else y.setReg vd.toNat (lo32 v))

/-- Access `a` stands in the table under its number `g`. -/
abbrev Stands (s : State) (g : Nat) (a : Acc) : Prop := tget s.accs g = some a ∧ a.gid = g

/-- Nothing keeps a write of access `a` from being numbered at die `d`: no full apply queue, no owner, no pin, no flip and no half-line
that the host holds (07 R137, 14 R268, 17 R320, 25 R414, R415); and no line is in reduce state, which the write would merge first. -/
abbrev Unhindered (s : State) (d : Nat) (a : Acc) : Prop :=
  s.queuesOpen d = true ∧ s.writeStall a.lines a.gid = false ∧ s.snoopsOf a.lines true = [] ∧ s.mem.reduce = [] ∧ Memory.wf s.mem = true

/-- The home values change by cells and nothing else, the byte `pte` of a page-table entry apart (01 R38). -/
def Stores (s t : State) (c : List Host.Cell) (pte : Nat) : Prop :=
  ∀ x, x ≠ pte → memGet t.mem.home x = (cellGet c x).getD (memGet s.mem.home x)

/-- A write of cells is numbered `n` at its home `d` and stands in every die's apply queue, with the counts `vc` beside its own (07 R118). -/
def Numbered (t : State) (d n : Nat) (vc : List Nat) (c : List Host.Cell) (g : Option Nat) : Prop :=
  ∀ e, e < nDies → ∃ w ∈ (t.die e).aq, w.home = d ∧ w.num = n ∧ w.vc = lset vc d n ∧ w.content = [.cells c] ∧ w.gid = g

/-- A wait ends: its threads that still wait are ready at the instruction after it with the registers that they had, and no other thread
changes. -/
def Resumes (s t : State) (w : Wait) : Prop :=
  (∀ k ∈ w.tids, (s.thread k).stat = .waiting → t.thread k = { s.thread k with
    stat := .ready, pc := w.next, q := (t.thread k).q, filedAt := (t.thread k).filedAt }) ∧
  (∀ k, k ∉ w.tids → t.thread k = s.thread k)

/-- Nothing keeps the device's own agents from any line: no flip, no owner, no pin, no full apply queue, and no half-line that the host holds (07 R137,
14 R268, 17 R320, 25 R414, R415). -/
def Quiet (s : State) : Prop := ∀ rd wr, s.clear rd wr = some none

/-- A page in package memory on die `d` that a VA translates to, to be written without a tile's header (17 R324). -/
abbrev Plainly (s : State) (asid va d : Nat) (p : Page) : Prop :=
  s.vaTarget asid va = .ok (.pkg d) ∧ (s.translate asid va true false).1 = .ok p ∧ p.map = false

/-- The home value of `n` bytes at a VA of a page is a number's, a byte of the page-table entry apart. -/
def Holds (t : State) (p : Page) (va n v : Nat) : Prop :=
  ∀ i, i < n → p.pa + (va - p.va) + i ≠ p.pte → memGet t.mem.home (p.pa + (va - p.va) + i) = BitVec.ofNat 8 (v / 2 ^ (8 * i))

/-- A message leaves by the port of its core's channel to a package. -/
def Sent (s t : State) (type core pkg tag va ops : Nat) (data : List W8) : Prop := ∀ p, s.usePort core pkg = some p →
  ∃ f, t.out = s.out ++ [.flit p f] ∧ f.data = padData data ∧
    let h := fhdr f
    h.type = type ∧ h.dst = pkg % 2 ^ 11 ∧ h.src = s.hub.fabId.toNat % 2 ^ 11 ∧ h.tag = tag % 2 ^ 16 ∧ h.core = core % 2 ^ 9 ∧ h.va = va % 2 ^ 57 ∧ h.ops = ops % 2 ^ 64

end Sys2Proof.Claims
end

