-- ==== Sys2Proof/Certificates/Slice0/Obligations.lean ====
section
/-! DEFINITION. The statements for the provers. -/

open Sys2Proof Sys2Proof.Machine Sys2Proof.Claims

/-! ### Lane instructions -/

/-- R144, R151: each writes the exact result of its two operands, narrowed to the type's width; threads of other
lanes, flags other than `W.ILLMOD`, memory and every other part of the state keep their values. R144, R145, R151:
absolute value, copy, leading zeros, one bits and bit reversal. R151: B is an amount modulo the width in every type;
`sha` copies the sign, `rot` rotates left. R144, R149, R150, R152: `mad` adds vd, `sel` keeps vd where its predicate
operand reads 0, `cvt.i` narrows and extends, `bfx` and `bfi` move a field of B<15:8> bits at B<7:0>, cut at the
width. -/
def Obligations.IntegerOperations : Prop :=
  (∀ (m : Option ModW) (f : Alu),
    let ty := intTy (tyCode m)
    let ill := illTy m isLaneInt
    LaneEffect (.add m f) (wordsOf 0x000 m (.alu f)) ill true (two f ty (fun x y => x + y)) ∧
    LaneEffect (.sub m f) (wordsOf 0x001 m (.alu f)) ill true (two f ty (fun x y => x - y)) ∧
    LaneEffect (.mul m f) (wordsOf 0x002 m (.alu f)) ill true (two f ty (fun x y => x * y)) ∧
    LaneEffect (.mulh m f) (wordsOf 0x003 m (.alu f)) ill true
      (two f ty (fun x y => BitVec.ofInt 64 ((ival ty x * ival ty y) / 2 ^ fmtWidth ty))) ∧
    LaneEffect (.min m f) (wordsOf 0x008 m (.alu f)) ill true (two f ty (fun x y => if ival ty x ≤ ival ty y then x else y)) ∧
    LaneEffect (.max m f) (wordsOf 0x009 m (.alu f)) ill true (two f ty (fun x y => if ival ty x ≤ ival ty y then y else x)) ∧
    LaneEffect (.and m f) (wordsOf 0x020 m (.alu f)) ill true (two f ty (fun x y => x &&& y)) ∧
    LaneEffect (.or m f) (wordsOf 0x021 m (.alu f)) ill true (two f ty (fun x y => x ||| y)) ∧
    LaneEffect (.xor m f) (wordsOf 0x022 m (.alu f)) ill true (two f ty (fun x y => x ^^^ y)) ∧
    LaneEffect (.andn m f) (wordsOf 0x023 m (.alu f)) ill true (two f ty (fun x y => x &&& ~~~ y))) ∧
  (∀ (m : Option ModW) (f : Alu),
    let ty := intTy (tyCode m)
    let w := fmtWidth ty
    let ill := illTy m isLaneInt
    LaneEffect (.abs m f) (wordsOf 0x007 m (.alu f)) ill true (one f ty (fun x => if ival ty x < 0 then - x else x)) ∧
    LaneEffect (.mov m f) (wordsOf 0x00C m (.alu f)) ill true (one f ty (fun x => x)) ∧
    LaneEffect (.clz m f) (wordsOf 0x028 m (.alu f)) ill true
      (one f ty (fun x => BitVec.ofNat 64 ((upto w).takeWhile (fun i => !x.getLsbD (w - 1 - i))).length)) ∧
    LaneEffect (.popc m f) (wordsOf 0x029 m (.alu f)) ill true
      (one f ty (fun x => BitVec.ofNat 64 ((upto w).filter (fun i => x.getLsbD i)).length)) ∧
    LaneEffect (.brev m f) (wordsOf 0x02A m (.alu f)) ill true
      (one f ty (sized ty BitVec.reverse BitVec.reverse))) ∧
  (∀ (m : Option ModW) (f : Alu),
    let ty := intTy (tyCode m)
    let w := fmtWidth ty
    let ill := illTy m isLaneInt
    LaneEffect (.shl m f) (wordsOf 0x024 m (.alu f)) ill true (amount f ty (fun x y => x <<< (y.toNat % w))) ∧
    LaneEffect (.shr m f) (wordsOf 0x025 m (.alu f)) ill true (amount f ty (fun x y => x >>> (y.toNat % w))) ∧
    LaneEffect (.sha m f) (wordsOf 0x026 m (.alu f)) ill true
      (amount f ty (fun x y => sized ty (fun v => v.sshiftRight (y.toNat % w)) (fun v => v.sshiftRight (y.toNat % w)) x)) ∧
    LaneEffect (.rot m f) (wordsOf 0x027 m (.alu f)) ill true
      (amount f ty (fun x y => sized ty (fun v => v.rotateLeft (y.toNat % w)) (fun v => v.rotateLeft (y.toNat % w)) x))) ∧
  (∀ (m : Option ModW) (f : Alu),
    let ty := intTy (tyCode m)
    let w := fmtWidth ty
    let ill := illTy m isLaneInt
    let dst := int8Ty 12 (orDef 12 (tyCode m))
    let src := int8Ty 12 (orDef 12 (stCode m))
    let wd := if fmtWidth dst = 64 then 64 else 32
    LaneEffect (.mad m f) (wordsOf 0x004 m (.alu f)) ill true (fun l =>
      let (x, l) := l.rd f.a f.alu ty w
      let (y, l) := l.rd f.b f.blu ty w
      let (z, l) := l.rdVd f.vd false w
      l.wr f.vd f.nw w (x * y + z)) ∧
    LaneEffect (.sel m f) (wordsOf 0x00B m (.alu f)) ill true (fun l =>
      let (x, l) := l.rd f.a f.alu ty w
      let (z, l) := l.rdVd f.vd false w
      l.wr f.vd f.nw w (if predOperand l.t.p f.b.toNat then x else z)) ∧
    LaneEffect (.cvtI m f) (wordsOf 0x00D m (.alu f)) (illTy m isInt || (stCode m ≠ 31 && !isInt (stCode m))) true (fun l =>
      let (x, l) := l.rd f.a f.alu src (if fmtWidth src = 64 then 64 else 32)
      let v : BitVec (fmtWidth src) := x.setWidth (fmtWidth src)
      let y : BitVec (fmtWidth dst) := if isSigned src then v.signExtend (fmtWidth dst) else v.setWidth (fmtWidth dst)
      l.wr f.vd f.nw wd (if isSigned dst then y.signExtend 64 else y.setWidth 64)) ∧
    LaneEffect (.bfx m f) (wordsOf 0x02B m (.alu f)) ill true (amount f ty (fun x y =>
      let o := (y.extractLsb' 0 8).toNat
      let n := Nat.min (y.extractLsb' 8 8).toNat (w - o)
      if w ≤ o || n = 0 then 0
      else if isSigned ty then (x <<< (64 - o - n)).sshiftRight (64 - n) else (x <<< (64 - o - n)) >>> (64 - n))) ∧
    LaneEffect (.bfi m f) (wordsOf 0x02C m (.alu f)) ill true (fun l =>
      let (x, l) := l.rd f.a f.alu ty w
      let (y, l) := l.rd f.b f.blu 12 32
      let (z, l) := l.rdVd f.vd false w
      let o := (y.extractLsb' 0 8).toNat
      let n := Nat.min (y.extractLsb' 8 8).toNat (w - o)
      let k : W64 := (((1 : W64) <<< n) - 1) <<< o
      l.wr f.vd f.nw w (if w ≤ o then z else (z &&& ~~~ k) ||| ((x <<< o) &&& k))))

/-- R146, R147: the quotient is cut toward zero; a zero divisor gives all ones or A with `X.IDIV`, and the overflow A
or 0 with `X.IOV`, where IDZ is 0; where it is 1 the lane traps with `INT_DIV` and the flag's bit. R148, R171: the
predicate that vd names takes the condition; p7 keeps reading 1; the chain does not shift. A NaN makes a float
comparison unordered, and raises `X.NV` in an ordered condition or where it signals. -/
def Obligations.DivisionAndComparison : Prop :=
  (∀ (m : Option ModW) (f : Alu),
    let ty := intTy (tyCode m)
    LaneEffect (.div m f) (wordsOf 0x005 m (.alu f)) (illTy m isLaneInt) true (divided f ty false) ∧
    LaneEffect (.rem m f) (wordsOf 0x006 m (.alu f)) (illTy m isLaneInt) true (divided f ty true)) ∧
  (∀ (m : Option ModW) (f : Alu),
    let ty := intTy (tyCode m)
    let c := fltTy (tyCode m)
    LaneEffect (.cmp m f) (wordsOf 0x00A m (.alu f)) (illTy m isLaneInt) false (fun l =>
      let (x, l) := l.rd f.a f.alu ty (fmtWidth ty)
      let (y, l) := l.rd f.b f.blu ty (fmtWidth ty)
      let i := ival ty x
      let j := ival ty y
      compared f.vd (match condOf f.vd with | 0 => i = j | 1 => i ≠ j | 2 => i < j | 3 => i ≤ j | 4 => j < i | _ => j ≤ i) 0 l) ∧
    LaneEffect (.fcmp m f) (wordsOf 0x04B m (.alu f)) (illTy m isLaneFlt) false (fun l =>
      let (x, l) := l.rdFmt f.a f.alu c
      let (y, l) := l.rdFmt f.b f.blu c
      let a := decodeVal c x
      let b := decodeVal c y
      let k := condOf f.vd
      if a.isNan || b.isNan then
        compared f.vd (k = 1 || k = 6) (if (2 ≤ k ∧ k ≤ 5) ∨ a.isSig ∨ b.isSig then fNV else 0) l
      else
        compared f.vd (match k with
          | 0 => cmpVal a b = .eq | 1 => cmpVal a b ≠ .eq | 2 => cmpVal a b = .lt | 3 => cmpVal a b ≠ .gt
          | 4 => cmpVal a b = .gt | 5 => cmpVal a b ≠ .lt | 6 => false | _ => true) 0 l))

/-- R168, R169: sum, difference, product, fused product and quotient of one format, rounded once by the instruction's
mode. 09 Table 9-2: NaN operands, infinities of unlike signs, zero times infinity, 0/0, a finite value divided by
zero, and exact products and quotients of finite values. R170, R172, 03 R70, R71: least and greatest in the total
order, the variants that ignore one NaN, sign changes on the encoding alone, and the class of a value. R173: the
functions of 09 Table 9-5 of the operand's exact value, rounded once; `frnd` to an integral value, in whose result
only `X.NX` may be set. Where the manual leaves a point open, log entries 9 and 11 name the model's choice. -/
def Obligations.FloatOperations : Prop :=
  (∀ (m : Option ModW) (f : Alu),
    let c := fltTy (tyCode m)
    let ill := illTy m isLaneFlt
    LaneEffect (.fadd m f) (wordsOf 0x040 m (.alu f)) ill true (twoFloats m f (fun c mode r x y =>
      sumRound c mode r false [decodeVal c x, decodeVal c y])) ∧
    LaneEffect (.fsub m f) (wordsOf 0x041 m (.alu f)) ill true (twoFloats m f (fun c mode r x y =>
      sumRound c mode r false [decodeVal c x, (decodeVal c y).negate])) ∧
    LaneEffect (.fmul m f) (wordsOf 0x042 m (.alu f)) ill true (twoFloats m f mulF) ∧
    LaneEffect (.fdiv m f) (wordsOf 0x044 m (.alu f)) ill true (twoFloats m f divF) ∧
    LaneEffect (.fma m f) (wordsOf 0x043 m (.alu f)) ill true (fun l =>
      let (x, l) := l.rdFmt f.a f.alu c
      let (y, l) := l.rdFmt f.b f.blu c
      let (z, l) := l.rdFmt (f.vd.setWidth 7) false c
      l.wrRes f.vd f.nw c (fmaF c (modeOf m l.t) (l.t.rand (modeOf m l.t) 0) x y z))) ∧
  (∀ (c mode r x y z : Nat), c ≤ 3 →
    let a := decodeVal c x
    let b := decodeVal c y
    let d := decodeVal c z
    let nan (nv : Bool) : Res := (defaultNan c, if nv then fNV else 0)
    ((a.isNan ∨ b.isNan) → addF c mode r x y = nan (a.isSig || b.isSig) ∧ subF c mode r x y = nan (a.isSig || b.isSig) ∧
      divF c mode r x y = nan (a.isSig || b.isSig) ∧ mulF c mode r x y = nan (a.isSig || b.isSig)) ∧
    (∀ u v, a = .inf u → b = .inf v →
      addF c mode r x y = (if u = v then (infBits c u, 0) else nan true) ∧
      subF c mode r x y = (if u = v then nan true else (infBits c u, 0)) ∧
      mulF c mode r x y = (infBits c (u != v), 0) ∧ divF c mode r x y = nan true) ∧
    (∀ u t n g, a = .inf u → b = .fin t n g →
      addF c mode r x y = (infBits c u, 0) ∧ subF c mode r x y = (infBits c u, 0) ∧ divF c mode r x y = (infBits c (u != t), 0) ∧
      mulF c mode r x y = (if n = 0 then nan true else (infBits c (u != t), 0)) ∧
      (n = 0 → fmaF c mode r x y z = nan true)) ∧
    (∀ u p e t n g, a = .fin u p e → b = .fin t n g →
      mulF c mode r x y = roundFloat c mode r true (u != t) (.dy (p * n) (e + g)) ∧
      (n = 0 → divF c mode r x y = if p = 0 then nan true else (infBits c (u != t), fDZ)) ∧
      (n ≠ 0 → p ≠ 0 → divF c mode r x y = roundFloat c mode r true (u != t) (.rat p n (e - g))) ∧
      (d.isNan → fmaF c mode r x y z = nan d.isSig) ∧
      (∀ w, d = .inf w → fmaF c mode r x y z = (infBits c w, 0)))) ∧
  (∀ (m : Option ModW) (f : Alu),
    let ill := illTy m isLaneFlt
    let num (c x y : Nat) (best : Bool) : Res :=
      let a := decodeVal c x
      let b := decodeVal c y
      let fl := if a.isSig || b.isSig then fNV else 0
      if a.isNan && b.isNan then (defaultNan c, fl) else if a.isNan then (y, fl) else if b.isNan then (x, fl)
      else (if best then x else y, 0)
    LaneEffect (.fmin m f) (wordsOf 0x045 m (.alu f)) ill true (twoFloats m f (fun c _ _ x y =>
      let a := decodeVal c x
      let b := decodeVal c y
      if a.isNan || b.isNan then (defaultNan c, if a.isSig || b.isSig then fNV else 0)
      else (if tord a b = .gt then y else x, 0))) ∧
    LaneEffect (.fmax m f) (wordsOf 0x046 m (.alu f)) ill true (twoFloats m f (fun c _ _ x y =>
      (if tord (decodeVal c x) (decodeVal c y) = .lt then y else x, 0))) ∧
    LaneEffect (.fminn m f) (wordsOf 0x047 m (.alu f)) ill true (twoFloats m f (fun c _ _ x y =>
      num c x y (tord (decodeVal c x) (decodeVal c y) ≠ .gt))) ∧
    LaneEffect (.fmaxn m f) (wordsOf 0x048 m (.alu f)) ill true (twoFloats m f (fun c _ _ x y =>
      num c x y (tord (decodeVal c x) (decodeVal c y) ≠ .lt))) ∧
    LaneEffect (.fabs m f) (wordsOf 0x049 m (.alu f)) ill true (oneFloat m f (fun c _ _ x => (x % 2 ^ (fmtWidth c - 1), 0))) ∧
    LaneEffect (.fneg m f) (wordsOf 0x04A m (.alu f)) ill true (oneFloat m f (fun c _ _ x =>
      (if bitAt x (fmtWidth c - 1) then x - 2 ^ (fmtWidth c - 1) else x + 2 ^ (fmtWidth c - 1), 0))) ∧
    LaneEffect (.fclass m f) (wordsOf 0x054 m (.alu f)) ill true (fun l =>
      let c := fltTy (tyCode m)
      let (x, l) := l.rdFmt f.a f.alu c
      let tiny (k : Nat) : Bool := k < 2 ^ (finfo c).mb
      l.wr f.vd f.nw 32 (match decodeVal c x with
        | .nan s => if s then 0x100 else 0x200
        | .inf s => if s then 0x001 else 0x080
        | .fin s k _ => if k = 0 then (if s then 0x008 else 0x010) else if tiny k then (if s then 0x004 else 0x020)
          else if s then 0x002 else 0x040))) ∧
  (∀ (m : Option ModW) (f : Alu),
    let ill := illTy m isLaneFlt
    let fn (k : Nat) : Lane → Lane := oneFloat m f (fun c mode r x => (funcV k (decodeVal c x)).to c mode r)
    LaneEffect (.frcp m f) (wordsOf 0x04C m (.alu f)) ill true (fn 0) ∧
    LaneEffect (.frsq m f) (wordsOf 0x04D m (.alu f)) ill true (fn 1) ∧
    LaneEffect (.fsqrt m f) (wordsOf 0x04E m (.alu f)) ill true (fn 2) ∧
    LaneEffect (.fexp2 m f) (wordsOf 0x04F m (.alu f)) ill true (fn 3) ∧
    LaneEffect (.flog2 m f) (wordsOf 0x050 m (.alu f)) ill true (fn 4) ∧
    LaneEffect (.fsin m f) (wordsOf 0x051 m (.alu f)) ill true (fn 5) ∧
    LaneEffect (.fcos m f) (wordsOf 0x052 m (.alu f)) ill true (fn 6) ∧
    LaneEffect (.frnd m f) (wordsOf 0x053 m (.alu f)) ill true (oneFloat m f (fun c mode r x =>
      match decodeVal c x with
      | .nan s => (defaultNan c, if s then fNV else 0)
      | .inf _ => (x, 0)
      | .fin s k e =>
        let n := if k = 0 then (0, false) else roundAt mode r s (.dy k e) 0
        (if k = 0 then x else if n.1 = 0 then zeroBits c s else (roundFloat c 1 0 true s (.dy n.1 0)).1,
          if n.2 then fNX else 0))))

/-- R176 to R180: each converts by the row of 04 Table 4-7 for its pair of formats and rounds by the instruction's
mode; a pair that the instruction does not allow copies bits and sets `W.ILLMOD`; `pk` enters two codes at the top of
vd, `upk` takes one code out, exactly. R72: a value that a float format holds rounds to itself, in every mode and with
no flag. Where the manual leaves a point open, log entry 39 names the model's choice. -/
def Obligations.Conversions : Prop :=
  (∀ (m : Option ModW) (f : Alu),
    let mode (l : Lane) : Nat := modeOf m l.t
    let code (t src e : Nat) (l : Lane) (x : Nat) : Res :=
      if t = src ∧ isFloat t ∧ ¬ (decodeVal src x).isNan then (x, 0) else convVal t (mode l) (l.t.rand (mode l) e) (decodeVal src x)
    let conv (t src : Nat) (ok : Bool) (l : Lane) : Lane :=
      let (x, l) := l.rdFmt f.a f.alu src
      if ok then
        let r := code t src 0 l x
        (l.wr f.vd f.nw (posWidth t) (BitVec.ofNat 64 (regExt t r.1))).flag r.2
      else l.wr f.vd f.nw (posWidth t) (BitVec.ofNat 64 (x % 2 ^ fmtWidth t))
    let (t, src) := cvtPair 1 1 m
    let (t6, src6) := cvtPair 18 1 m
    let (tp, srcp) := cvtPair 3 1 m
    let (tu, srcu) := cvtPair 1 3 m
    LaneEffect (.cvt m f) (wordsOf 0x060 m (.alu f)) (!cvtOk t src) true (conv t src (cvtOk t src)) ∧
    LaneEffect (.cvtLg6 m f) (wordsOf 0x062 m (.alu f)) (!lg6Ok t6 src6) true (conv t6 src6 (lg6Ok t6 src6)) ∧
    LaneEffect (.pk m f) (wordsOf 0x064 m (.alu f)) (!pkOk tp srcp) true (fun l =>
      let (x, l) := l.rdFmt f.a f.alu srcp
      let (y, l) := l.rdFmt f.b f.blu srcp
      let (z, l) := l.rdVd f.vd false 32
      let w := fmtWidth tp
      let p := code tp srcp 0 l x
      let q := code tp srcp 1 l y
      if pkOk tp srcp then
        (l.wr f.vd f.nw 32 ((z >>> (2 * w)) ||| (BitVec.ofNat 64 q.1 <<< (32 - w)) ||| (BitVec.ofNat 64 p.1 <<< (32 - 2 * w)))).flag (p.2 ||| q.2)
      else l.wr f.vd f.nw 32 (BitVec.ofNat 64 x)) ∧
    LaneEffect (.upk m f) (wordsOf 0x065 m (.alu f)) (!upkOk tu srcu) true (fun l =>
      let (x, l) := l.rd f.a f.alu srcu (posWidth srcu)
      let (y, l) := l.rd f.b f.blu 12 32
      let w := fmtWidth srcu
      if upkOk tu srcu then
        let r := toFloat tu 0 0 (decodeVal srcu ((x >>> (w * (y.toNat % (32 / w)))).toNat % 2 ^ w))
        (l.wr f.vd f.nw (posWidth tu) (BitVec.ofNat 64 r.1)).flag r.2
      else l.wr f.vd f.nw (posWidth tu) (BitVec.ofNat 64 (x.toNat % 2 ^ fmtWidth srcu % 2 ^ fmtWidth tu)))) ∧
  (∀ (c mode r code : Nat) (ieee neg : Bool) (m : Nat) (e : Int), c ≤ 8 →
    decodeVal c code = .fin neg m e → roundFloat c mode r ieee neg (.dy m e) = (code % 2 ^ fmtWidth c, 0))

/-- R195 to R200: table entries of the members are united, sets are combined, hulls are taken, and bounds become a
stook or come out of one; where the instruction needs a ring of its type and none is bound, the lane traps with
`RING_UNBOUND`. R189, R198: the hull of a set contains the set, and a hull is its own hull. R161, R252: `nop` only
goes on; `harrow` writes 128 bits of the function at the lane's key and counter. Where the manual leaves a point open,
log entry 113 names the model's choice. -/
def Obligations.Intervals : Prop :=
  (∀ (m : Option ModW) (f : Alu),
    let ill := illTy m (fun c => 19 ≤ c && c ≤ 21)
    let n := skCells (stkTy (tyCode m))
    let bin (op : Nat) : State → Sheaf → Lane → Lane := stooks m f true false (fun ty img x y =>
      tabled ty img (0x400 + op * (n * n * skEntry ty))
        ((skList n x).flatMap (fun i => (skList n y).map (fun j => i * n + j))))
    let un (table : Nat) : State → Sheaf → Lane → Lane := stooks m f true true (fun ty img x _ => tabled ty img table (skList n x))
    LaneEffectAt (.stkAdd m f) (wordsOf 0x0E0 m (.alu f)) ill true (bin 0) ∧
    LaneEffectAt (.stkSub m f) (wordsOf 0x0E1 m (.alu f)) ill true (bin 1) ∧
    LaneEffectAt (.stkMul m f) (wordsOf 0x0E2 m (.alu f)) ill true (bin 2) ∧
    LaneEffectAt (.stkDiv m f) (wordsOf 0x0E3 m (.alu f)) ill true (bin 3) ∧
    LaneEffectAt (.stkNeg m f) (wordsOf 0x0E4 m (.alu f)) ill true (un 0x100) ∧
    LaneEffectAt (.stkRcp m f) (wordsOf 0x0E5 m (.alu f)) ill true (un 0x180) ∧
    LaneEffectAt (.stkSq m f) (wordsOf 0x0E6 m (.alu f)) ill true (un 0x200) ∧
    LaneEffectAt (.stkUni m f) (wordsOf 0x0E7 m (.alu f)) ill true (stooks m f false false (fun _ _ x y => Nat.lor x y)) ∧
    LaneEffectAt (.stkIsect m f) (wordsOf 0x0E8 m (.alu f)) ill true (stooks m f false false (fun _ _ x y => Nat.land x y)) ∧
    LaneEffectAt (.stkHull m f) (wordsOf 0x0E9 m (.alu f)) ill true (stooks m f false true (fun _ _ x _ => hullSet n x)) ∧
    LaneEffectAt (.stkFrom m f) (wordsOf 0x0EA m (.alu f)) ill true (fun s h l =>
      let ty := stkTy (tyCode m)
      let img := s.ringOf h.team ty
      let (x, l) := l.rd f.a f.alu 1 32
      let (y, l) := l.rd f.b f.blu 1 32
      let l := if img.isNone then l.raise 0x29 0 else l
      l.wr f.vd f.nw 32 (BitVec.ofNat 64
        (skEnc ty (skFrom (imgPoints (img.getD []) ty) (decodeVal 1 x.toNat) (decodeVal 1 y.toNat))))) ∧
    LaneEffectAt (.stkTo m f) (wordsOf 0x0EB m (.alu f)) ill true (fun s h l =>
      let ty := stkTy (tyCode m)
      let img := s.ringOf h.team ty
      let (x, l) := l.rdSk f.a f.alu ty
      let l := if img.isNone then l.raise 0x29 0 else l
      l.wr f.vd f.nw 64 (skTo (imgPoints (img.getD []) ty) x))) ∧
  (∀ (n set : Nat), (n = 16 ∨ n = 32 ∨ n = 64) → set < 2 ^ n →
    Nat.land set (hullSet n set) = set ∧ hullSet n (hullSet n set) = hullSet n set) ∧
  (∀ (m : Option ModW) (f : Alu),
    LaneEffect (.nop m {}) (wordsOf 0x0A8 m (.c0 {})) false false (fun l => l) ∧
    LaneEffect (.harrow m f) (wordsOf 0x0CC m (.alu f)) false true (fun l =>
      let (x, l) := l.rd f.a f.alu 12 32
      let (y, l) := l.rd f.b f.blu 12 32
      let o := harrow l.t.hkey (harrowCtr (lo32 x) (logicalTid l.t) l.t.hctr 1 (y.setWidth 16))
      let l : Lane := { l with out := o.extractLsb' 0 64 }
      if f.nw then l
      else { l with t := (l.t.setPair f.vd.toNat (o.extractLsb' 0 64)).setPair (f.vd.toNat + 2) (o.extractLsb' 64 64) }))

/-! ### Uniform and control instructions -/

/-- R153, R114: each writes one uniform register of every fragment's wave, a 32-bit result extended by its type's
signedness; `sli` and its variants write an immediate, whole or as one half word, and `sadd` adds one. R154: `scmp`
writes the uniform predicate that sd names, `ssel` takes sa where the predicate operand reads 1 and keeps sd
elsewhere; q7 reads 1, and operands 8 to 15 are the complements. -/
def Obligations.UniformOperations : Prop :=
  (∀ (m : Option ModW) (f : SReg) (g : SImm),
    let ty := uniTy (tyCode m)
    let w := fmtWidth ty
    let ill := illTy m isLaneInt
    let half (k : Nat) : State → Nat → Wave → Wave := updated g.sd (fun v =>
      (v &&& ~~~ ((0xFFFF : W64) <<< (16 * k))) ||| (g.imm.setWidth 64 <<< (16 * k)))
    UniEffect (.sadd m f) (wordsOf 0x100 m (.sReg f)) ill (uniform f ty (fun x y => x + y)) ∧
    UniEffect (.ssub m f) (wordsOf 0x101 m (.sReg f)) ill (uniform f ty (fun x y => x - y)) ∧
    UniEffect (.smul m f) (wordsOf 0x102 m (.sReg f)) ill (uniform f ty (fun x y => x * y)) ∧
    UniEffect (.sand m f) (wordsOf 0x103 m (.sReg f)) ill (uniform f ty (fun x y => x &&& y)) ∧
    UniEffect (.sor m f) (wordsOf 0x104 m (.sReg f)) ill (uniform f ty (fun x y => x ||| y)) ∧
    UniEffect (.sxor m f) (wordsOf 0x105 m (.sReg f)) ill (uniform f ty (fun x y => x ^^^ y)) ∧
    UniEffect (.sshl m f) (wordsOf 0x106 m (.sReg f)) ill (uniform f ty (fun x y => x <<< (y.toNat % w))) ∧
    UniEffect (.sshr m f) (wordsOf 0x107 m (.sReg f)) ill
      (uniform f ty (fun x y => sized ty (fun v => v >>> (y.toNat % w)) (fun v => v >>> (y.toNat % w)) x)) ∧
    UniEffect (.ssha m f) (wordsOf 0x108 m (.sReg f)) ill
      (uniform f ty (fun x y => sized ty (fun v => v.sshiftRight (y.toNat % w)) (fun v => v.sshiftRight (y.toNat % w)) x)) ∧
    UniEffect (.smin m f) (wordsOf 0x109 m (.sReg f)) ill (uniform f ty (fun x y => if ival ty x ≤ ival ty y then x else y)) ∧
    UniEffect (.smax m f) (wordsOf 0x10A m (.sReg f)) ill (uniform f ty (fun x y => if ival ty x ≤ ival ty y then y else x)) ∧
    UniEffect (.smov m f) (wordsOf 0x10B m (.sReg f)) ill (uniform f ty (fun x _ => x)) ∧
    UniEffect (.sli m g) (wordsOf 0x120 m (.sImm g)) false (updated g.sd (fun _ => g.imm.signExtend 64)) ∧
    UniEffect (.sliH1 m g) (wordsOf 0x121 m (.sImm g)) false (half 1) ∧
    UniEffect (.sliH2 m g) (wordsOf 0x122 m (.sImm g)) false (half 2) ∧
    UniEffect (.sliH3 m g) (wordsOf 0x123 m (.sImm g)) false (half 3) ∧
    UniEffect (.saddImm m g) (wordsOf 0x124 m (.sImm g)) false (updated g.sd (fun v => v + g.imm.signExtend 64))) ∧
  (∀ (m : Option ModW) (f : SReg),
    let ty := uniTy (tyCode m)
    UniEffect (.scmp m f) (wordsOf 0x10C m (.sReg f)) (illTy m isLaneInt) (fun _ _ w =>
      let i := ival ty (tgetD w.s f.sa.toNat 0)
      let j := ival ty (tgetD w.s f.sb.toNat 0)
      let v : Bool := match condOf f.sd with | 0 => i = j | 1 => i ≠ j | 2 => i < j | 3 => i ≤ j | 4 => j < i | _ => j ≤ i
      { w with q := setPred w.q (f.sd.toNat % 8) v }) ∧
    UniEffect (.ssel m f) (wordsOf 0x10D m (.sReg f)) (illTy m isLaneInt) (fun _ _ w =>
      let n := f.sb.toNat
      let v : Bool := if n < 8 then n = 7 || w.q.getLsbD n else !(n = 15 || w.q.getLsbD (n - 8))
      { w with s := tset w.s f.sd.toNat (tgetD w.s (if v then f.sa.toNat else f.sd.toNat) 0) }))

/-- R300, R301, 01 Table 1-6: `csrr` reads each control register, zero-extended, from the fragment's lowest thread,
its wave or its core; `getclk` reads the die's cycle count or the package time. R300, R24 to R28: `csrw` of `c.fcr`
clears the flags that are written 1, stores RM 0 for 6 and 7 with `W.ILLMOD`, and keeps reserved bits 0; of `c.hkey`
and `c.hctr` it writes every thread of the fragment, of `c.gang` the wave, without the reserved bits. R27, R300: at
supervisor level `csrw` of `c.age` writes the core's register, at least 8 and 12 bits wide. Where the manual leaves a
point open, log entries 8 and 42 name the model's choice. -/
def Obligations.ControlRegisters : Prop :=
  (∀ (m : Option ModW) (f : Sys),
    (csrOk f.imm.toNat → UniEffect (.csrr m f) (wordsOf 0x1E2 m (.sys f)) false (fun s k w =>
      let t := s.thread k
      let n := f.imm.toNat
      let v : W64 :=
        if n = 1 then t.fcr.setWidth 64 else if n = 2 then t.hkey else if n = 3 then t.hctr.setWidth 64
        else if n = 0x010 then w.gang else if n = 0x100 then (s.core (s.coreOf (tkOf k))).age.setWidth 64
        else if n < 0x028 then (t.lv.getD (n - 0x020) 0).setWidth 64 else (t.ln.getD (n - 0x028) 1).setWidth 64
      { w with s := tset w.s f.sa.toNat v })) ∧
    UniEffect (.getclk m f) (wordsOf 0x1E5 m (.sys f)) false (fun s k w =>
      { w with s := tset w.s f.sa.toNat (if f.imm = 0 then (s.die (s.dieOfTeam (tkOf k))).cycles else s.hub.time) })) ∧
  (∀ (m : Option ModW) (f : Sys),
    let written (thr : W64 → Thread → Thread) : Prop := ∀ (s : State) (h : Sheaf), Issues s h →
      ∃ t, exec (.csrw m f) s = .next t ∧ t.front = some (after h (wordsOf 0x1E3 m (.sys f)) h.latch) ∧
        (∀ k ∈ h.active, t.thread k = thr (tgetD (s.wave (wkOf k)).s f.sa.toNat 0) (s.thread k)) ∧
        (∀ k, k ∉ h.active → t.thread k = s.thread k) ∧ OnlyThreads s t
    (f.imm = 1 → ∀ (s : State) (h : Sheaf), Issues s h →
      ∃ t, exec (.csrw m f) s = .next t ∧ t.front = some (after h (wordsOf 0x1E3 m (.sys f)) h.latch) ∧
        (∀ k ∈ h.active,
          let v := tgetD (s.wave (wkOf k)).s f.sa.toNat 0
          let rm := v.toNat % 8
          t.thread k = { s.thread k with fcr := (t.thread k).fcr } ∧
          ∀ j, j < 32 → (t.thread k).fcr.getLsbD j =
            if j < 3 then (rm < 6 && v.getLsbD j) else if j = 3 then false else if j < 7 then v.getLsbD j
            else if j < 8 then false
            else if j < 19 then ((s.thread k).fcr.getLsbD j && !v.getLsbD j) || (j = 18 && 6 ≤ rm) else false) ∧
        (∀ k, k ∉ h.active → t.thread k = s.thread k) ∧ OnlyThreads s t) ∧
    (f.imm = 2 → written (fun v t => { t with hkey := v })) ∧
    (f.imm = 3 → written (fun v t => { t with hctr := lo32 v })) ∧
    (f.imm = 0x010 → UniEffect (.csrw m f) (wordsOf 0x1E3 m (.sys f)) false (fun _ _ w =>
      { w with gang := tgetD w.s f.sa.toNat 0 &&& 0x3FFFFFFF7 }))) ∧
  (∀ (m : Option ModW) (f : Sys) (s : State) (h : Sheaf) (k : Nat),
    f.imm = 0x100 → Issues s h → h.active = [k] → (s.thread k).sup = true →
      let v := (tgetD (s.wave (wkOf k)).s f.sa.toNat 0).toNat % 4096
      let c := s.coreOf (tkOf k)
      ∃ t, exec (.csrw m f) s = .next t ∧ t.front = some (after h (wordsOf 0x1E3 m (.sys f)) h.latch) ∧
        t.core c = { s.core c with age := BitVec.ofNat 32 (max 8 v) } ∧ (∀ d, d ≠ c → t.core d = s.core d) ∧
        t.threads = s.threads ∧ t.waves = s.waves ∧ KeepsMachine s t)

/-- R158 to R160: `bp` takes each thread to the target where its predicate differs from N, `jmp` and `call` take all
there; `call` leaves the return address in v62:v63 and in the chain. R159, R160: a jump through a register goes to
bits <56:2> of each thread's own value, read before the link register is written. R163, R164: uniform branches send
every fragment by its wave's own registers: `ubr` by a uniform predicate, `uret` by a register, `uloop` by the count
that it lowers, `ucall` leaving the return address in s63. R161, R162: `reform` ends the sheaf, its threads ready at
the next instruction; `exit` ends its threads, whose registers are freed; a wave with no thread left gives up its
uniform registers, and a team with none ends. -/
def Obligations.Branches : Prop :=
  (∀ (m : Option ModW) (f : CCond) (g : CFar),
    let far (h : Sheaf) (off : Int) : Va := BitVec.ofInt 57 (h.pc.toNat + 4 * off)
    let ret (h : Sheaf) : W64 := (afterPc h.pc (wordsOf 0x0A3 m (.cFar g))).setWidth 64
    PlainBranch (.bp m f) (fun s h k =>
      if (f.p = 7 || (s.thread k).p.getLsbD f.p.toNat) != f.n then far h f.off.toInt
      else afterPc h.pc (wordsOf 0x0A0 m (.cCond f))) ∧
    PlainBranch (.jmp m g) (fun _ h _ => far h g.off.toInt) ∧
    BranchEffect (.call m g) (fun _ h => shiftLatch h.latch (h.active.map (fun k => (k, .val (ret h)))))
      (fun s h k => (s.thread k).setPair 62 (ret h)) (fun s w => s.wave w) (fun _ h _ => far h g.off.toInt) (fun _ _ => True)) ∧
  (∀ (m : Option ModW) (f : CReg),
    let lane (s : State) (h : Sheaf) (k : Nat) : W64 × Lane := (s.lane h k false).rd f.a f.alu 13 64
    let next (s : State) (h : Sheaf) (k : Nat) : Va := BitVec.ofNat 57 ((lane s h k).1.toNat / 4 * 4)
    let quiet (s : State) (h : Sheaf) : Prop := ∀ k ∈ h.active, (lane s h k).2.trap = none
    let ret (h : Sheaf) : W64 := (afterPc h.pc (wordsOf 0x0A4 m (.cReg f))).setWidth 64
    BranchEffect (.jmpReg m f) (fun _ h => h.latch) (fun s h k => (lane s h k).2.t) (fun s w => s.wave w) next quiet ∧
    BranchEffect (.ret m f) (fun _ h => h.latch) (fun s h k => (lane s h k).2.t) (fun s w => s.wave w) next quiet ∧
    BranchEffect (.callReg m f) (fun _ h => shiftLatch h.latch (h.active.map (fun k => (k, .val (ret h)))))
      (fun s h k => ((lane s h k).2.t).setPair 62 (ret h)) (fun s w => s.wave w) next quiet) ∧
  (∀ (m : Option ModW) (f : CCond) (g : CFar) (r : SReg) (u : ULoop),
    let far (h : Sheaf) (off : Int) : Va := BitVec.ofInt 57 (h.pc.toNat + 4 * off)
    PlainBranch (.ubr m f) (fun s h k =>
      if (f.p = 7 || (s.wave (wkOf k)).q.getLsbD f.p.toNat) != f.n then far h f.off.toInt
      else afterPc h.pc (wordsOf 0x140 m (.cCond f))) ∧
    PlainBranch (.ubrFar m g) (fun _ h _ => far h g.off.toInt) ∧
    PlainBranch (.uret m r) (fun s _ k => BitVec.ofNat 57 ((tgetD (s.wave (wkOf k)).s r.sa.toNat 0).toNat / 4 * 4)) ∧
    BranchEffect (.uloop m u) (fun _ h => h.latch) (fun s _ k => s.thread k)
      (fun s w => { s.wave w with s := tset (s.wave w).s u.s.toNat (tgetD (s.wave w).s u.s.toNat 0 - 1) })
      (fun s h k => if tgetD (s.wave (wkOf k)).s u.s.toNat 0 = 1 then afterPc h.pc (wordsOf 0x144 m (.uLoop u)) else far h u.off.toInt)
      (fun _ _ => True) ∧
    (∀ (s : State) (h : Sheaf), Issues s h → h.trapped = [] → (∀ k ∈ h.active, (tget s.waves (wkOf k)).isSome = true) →
      ∃ t, exec (.ucall m g) s = .next t ∧ t.front = some { h with pc := far h g.off.toInt, inRun := false, refetch := 0 } ∧
        (∀ k ∈ h.active, t.wave (wkOf k) = { s.wave (wkOf k) with
          s := tset (s.wave (wkOf k)).s 63 ((afterPc h.pc (wordsOf 0x142 m (.cFar g))).setWidth 64) }) ∧
        (∀ w, (∀ k ∈ h.active, wkOf k ≠ w) → t.wave w = s.wave w) ∧ t.threads = s.threads ∧ OnlyWaves s t)) ∧
  (∀ (m : Option ModW) (s : State) (h : Sheaf), Issues s h → h.trapped = [] →
    (∃ t, exec (.reform m {}) s = .next t ∧ t.sheaves = s.sheaves.drop 1 ∧ KeepsMachine s t ∧ t.waves = s.waves ∧
      (∀ k ∈ h.active, t.thread k = { s.thread k with
        pc := afterPc h.pc (wordsOf 0x0A6 m (.c0 {})), stat := .ready, filedAt := (t.thread k).filedAt }) ∧
      (∀ k, k ∉ h.active → t.thread k = s.thread k)) ∧
    ((∀ k ∈ h.active, (s.core (s.coreOf (tkOf k))).gangs = []) →
      ∃ t, exec (.exit m {}) s = .next t ∧ t.sheaves = s.sheaves.drop 1 ∧ t.mem = s.mem ∧ t.accs = s.accs ∧
        t.launches = s.launches ∧ t.hub = s.hub ∧
        (∀ k ∈ h.active, (t.thread k).stat = .exited ∧ (t.thread k).poison = 0 ∧ (t.thread k).sup = false ∧
          ∀ n, n < 64 → tget (t.thread k).regs n = some .freed) ∧
        (∀ k, k ∉ h.active → t.thread k = s.thread k) ∧
        (∀ k ∈ h.active, (∀ j ∈ s.liveOf (wkOf k), j ∈ h.active) → (tget s.waves (wkOf k)).isSome = true →
          (t.wave (wkOf k)).s = [] ∧ (t.wave (wkOf k)).q = 0 ∧ (t.wave (wkOf k)).mprog = 0) ∧
        (∀ k ∈ h.active, (∀ j ∈ s.teamLive (tkOf k), j ∈ h.active) → (tget s.teams (tkOf k)).isSome = true →
          ∃ x, tget t.teams (tkOf k) = some x ∧ x.place = .ended ∧ x.stations = [] ∧ x.rings = [])))

/-! ### Memory instructions -/

/-- R222 to R225, R228, R230: `ld` and `ldraw` whose address names an element of this package or of host memory issue
a load of it, which the destination and the chain's new row await; a modifier that the page does not take sets
`W.ILLMOD`, and no byte of memory changes. R222 to R228: `st` to this package or to host memory reads its data
register in the width of the access's type, which is the page's natural one where the word names none that the page
allows, fixes the element's code at issue, and issues a store of it; no byte of memory changes yet. R130, R222, R224:
a load or a store to another package issues with its address, its type as written and its operands: the page there
decides the rest. A load's destination is awaited as a pair where it may be one, and a store sends its register, and
the one after it where that may be needed. Where the manual leaves a point open, log entry 46 names the model's
choice. R229, R230, R222, R227: an access whose address does not translate, or names no element, parks its lane with
its record: ACCESS 0 for a load, 1 for a store, 2 for an atomic, 3 for `red`; a store's record holds its data where
its type is written, so that its register has been read. Where the manual leaves a point open, log entries 30, 36, 37
and 46 name the model's choice. -/
def Obligations.LoadsAndStores : Prop :=
  (∀ (raw : Bool) (m : Option ModW) (f : Sys2Proof.Mem) (s : State) (h : Sheaf) (k : Nat)
      (tgt : Target) (p : Page) (e : Elem), Solo s h k →
    let i : Instr := if raw then .ldraw m f else .ld m f
    let words := wordsOf (if raw then 0x084 else 0x080) m (.mem f)
    let ord := loadOrd m
    let r := readMem m f (s.lane h k ord.2.2.2)
    let ty := (accessTy p raw false (tyCode m)).1
    let wide : Bool := fmtWidth ty = 64
    r.2.trap = none →
    (s.reachOf (s.asidOf k) r.1.ea r.1.base raw false).1 = .ok (tgt, p) →
    ((s.reachOf (s.asidOf k) r.1.ea r.1.base raw false).2.place p r.1.ea r.1.base r.1.extra (fmtWidth ty) raw false 0).1 = .ok e →
    tgt.far = false → ¬ ((tyCode m = 31 ∨ (accessTy p raw false (tyCode m)).2) ∧ wide ∧ f.nw = false ∧ f.vd.toNat % 2 = 1) →
      ∃ t, exec i s = .next t ∧ ∃ g a, Queued s t g a (.thread k) .load ord.1 ord.2.2.1 ∧ Names a tgt p e ty ∧ a.raw = raw ∧
        a.dst = (if f.nw then none else some f.vd.toNat) ∧ a.wide = wide ∧ a.latch = true ∧
        GoesOn s t h k words (shiftLatch h.latch [(k, .pend g)]) ∧ t.waves = s.waves ∧
        (t.thread k).regs = r.2.t.regs ∧ (t.thread k).p = (s.thread k).p ∧
        (t.thread k).fcr = (if (accessTy p raw false (tyCode m)).2 then r.2.t.fcr ||| fILLMOD else r.2.t.fcr) ∧
        (f.nw = false → tget (t.thread k).pend f.vd.toNat = some g ∧
          (wide → tget (t.thread k).pend (f.vd.toNat + 1) = some g)) ∧
        (f.nw = true → (t.thread k).pend = (s.thread k).pend)) ∧
  (∀ (m : Option ModW) (f : Sys2Proof.Mem) (s : State) (h : Sheaf) (k : Nat)
      (tgt : Target) (p : Page) (e : Elem), Solo s h k →
    let ord := storeOrd m
    let r := readMem m f (s.lane h k ord.2.2.2)
    let c := tyCode m
    let ty := (accessTy p false true c).1
    let w := fmtWidth ty
    let d := r.2.rdVd f.vd f.nw (if w = 64 then 64 else 32)
    let code := storeCode p false ty d.2.t.rm (d.2.t.rand d.2.t.rm 0) d.1.toNat
    d.2.trap = none →
    (s.reachOf (s.asidOf k) r.1.ea r.1.base false true).1 = .ok (tgt, p) →
    ((s.reachOf (s.asidOf k) r.1.ea r.1.base false true).2.place p r.1.ea r.1.base r.1.extra (fmtWidth ty) false true 1).1 = .ok e →
    tgt.far = false → ¬ ((c = 31 ∨ (accessTy p false true c).2) ∧ w = 64 ∧ f.vd.toNat % 2 = 1) → p.blk = 0 →
      ∃ t, exec (.st m f) s = .next t ∧ ∃ g a, Queued s t g a (.thread k) .store ord.1 ord.2.2.1 ∧ Names a tgt p e ty ∧
        a.data = BitVec.ofNat 64 code.1 ∧ GoesOn s t h k (wordsOf 0x081 m (.mem f)) h.latch ∧ t.waves = s.waves ∧
        (t.thread k).regs = d.2.t.regs ∧ (t.thread k).p = (s.thread k).p ∧ (t.thread k).pend = (s.thread k).pend ∧
        (t.thread k).fcr = (if (accessTy p false true c).2 then d.2.t.fcr ||| fILLMOD else d.2.t.fcr) ||| code.2) ∧
  (∀ (raw : Bool) (m : Option ModW) (f : Sys2Proof.Mem) (s : State) (h : Sheaf) (k : Nat)
      (pkg : Nat) (p : Page), Solo s h k →
    let c := tyCode m
    let vd := f.vd.toNat
    let sent (ea w : Nat) : Elem := { pa := ea, bit := 8 * ea, width := w }
    let ty := if c = 31 then 12 else c
    (let i : Instr := if raw then .ldraw m f else .ld m f
     let words := wordsOf (if raw then 0x084 else 0x080) m (.mem f)
     let ord := loadOrd m
     let r := readMem m f (s.lane h k ord.2.2.2)
     let wide : Bool := vd % 2 = 0 || fmtWidth ty = 64
     r.2.trap = none → (s.reachOf (s.asidOf k) r.1.ea r.1.base raw false).1 = .ok (.other pkg, p) →
       ∃ t, exec i s = .next t ∧ ∃ g a, Queued s t g a (.thread k) .load ord.1 ord.2.2.1 ∧
         Names a (.other pkg) p (sent r.1.ea (fmtWidth (accessTy p raw false c).1)) ty ∧ a.tyc = c ∧ a.raw = raw ∧
         a.kept.a = BitVec.ofNat 64 r.1.a ∧ a.dst = (if f.nw then none else some vd) ∧ a.wide = wide ∧
         GoesOn s t h k words (shiftLatch h.latch [(k, .pend g)]) ∧ (t.thread k).regs = r.2.t.regs ∧
         (f.nw = false → tget (t.thread k).pend vd = some g ∧ (wide → tget (t.thread k).pend (vd + 1) = some g))) ∧
    (let ord := storeOrd m
     let r := readMem m f (s.lane h k ord.2.2.2)
     let w := if c ≠ 31 && fmtWidth c = 64 then 64 else 32
     let d := r.2.rdVd f.vd f.nw w
     d.2.trap = none → (s.reachOf (s.asidOf k) r.1.ea r.1.base false true).1 = .ok (.other pkg, p) →
       ∃ t, exec (.st m f) s = .next t ∧ ∃ g a, Queued s t g a (.thread k) .store ord.1 ord.2.2.1 ∧
         Names a (.other pkg) p (sent r.1.ea (if vd % 2 = 0 then 64 else 32)) ty ∧ a.tyc = c ∧ a.kept.a = BitVec.ofNat 64 r.1.a ∧
         a.data = (if w = 32 && vd % 2 = 0 then pair64 (lo32 d.1) (regValue d.2.t (vd + 1)) else d.1) ∧
         a.dst = (if w = 32 ∧ vd % 2 = 0 ∧ tget d.2.t.regs vd = some .freed then some (vd + 1) else none) ∧
         GoesOn s t h k (wordsOf 0x081 m (.mem f)) h.latch ∧ (t.thread k).regs = d.2.t.regs ∧ (t.thread k).fcr = d.2.t.fcr)) ∧
  (∀ (m : Option ModW) (f : Sys2Proof.Mem) (g : Alu) (s : State) (h : Sheaf) (k : Nat)
      (x : AccFault), Solo s h k → (s.thread k).sup = false →
    (let r := readMem m f (s.lane h k (loadOrd m).2.2.2)
     r.2.trap = none → (s.reachOf (s.asidOf k) r.1.ea r.1.base false false).1 = .error x →
       ∃ t, exec (.ld m f) s = .next t ∧
         Parks s t h k (wordsOf 0x080 m (.mem f)) x.kind x.access x.va (BitVec.ofNat 64 r.1.a) 0 (BitVec.ofNat 32 r.1.x)) ∧
    (let r := readMem m f (s.lane h k (storeOrd m).2.2.2)
     let d := r.2.rdVd f.vd f.nw (if fmtWidth (tyCode m) = 64 then 64 else 32)
     tyCode m ≠ 31 → d.2.trap = none → (s.reachOf (s.asidOf k) r.1.ea r.1.base false true).1 = .error x →
       ∃ t, exec (.st m f) s = .next t ∧
         Parks s t h k (wordsOf 0x081 m (.mem f)) x.kind 1 x.va (BitVec.ofNat 64 r.1.a) d.1 (BitVec.ofNat 32 r.1.x)) ∧
    (let r := readMem m f (s.lane h k (storeOrd m).2.2.2)
     tyCode m = 31 → r.2.trap = none → (s.reachOf (s.asidOf k) r.1.ea r.1.base false true).1 = .error x →
       ∃ t, exec (.st m f) s = .next t ∧
         Parks s t h k (wordsOf 0x081 m (.mem f)) x.kind 1 x.va (BitVec.ofNat 64 r.1.a) 0 (BitVec.ofNat 32 r.1.x) ∧
         (t.thread k).regs = r.2.t.regs) ∧
    (let r := readAtom m g (atomTy 0x088 (tyCode m)).1 (if fmtWidth (atomTy 0x088 (tyCode m)).1 = 64 then 64 else 32) false
       (s.lane h k ((atomTy 0x088 (tyCode m)).2 || (atomOrd m g.nw true false).2.2.2))
     r.2.trap = none → (s.reachOf (s.asidOf k) r.1.ea r.1.base false true).1 = .error x →
       ∃ t, exec (.atomAdd m g) s = .next t ∧
         Parks s t h k (wordsOf 0x088 m (.alu g)) x.kind 2 x.va (BitVec.ofNat 64 r.1.a) r.1.b (BitVec.ofNat 32 r.1.x)) ∧
    (let r := readAtom m g (redTy 0x093 (tyCode m)).1 (if fmtWidth (redTy 0x093 (tyCode m)).1 = 64 then 64 else 32) false
       (s.lane h k ((redTy 0x093 (tyCode m)).2 || (redOrd m).2.2.2))
     r.2.trap = none → (s.reachOf (s.asidOf k) r.1.ea r.1.base false true).1 = .error x →
       ∃ t, exec (.redAdd m g) s = .next t ∧
         Parks s t h k (wordsOf 0x093 m (.alu g)) x.kind 3 x.va (BitVec.ofNat 64 r.1.a) r.1.b (BitVec.ofNat 32 r.1.x)))

/-- R231, 01 R30: an aligned scratchpad access inside the team's banks performs at issue: `ldsp` writes the bytes
there, extended, with the poison of its bank words; `stsp` changes the bytes that it names and no others. 01 R30,
R231, 20 Table 20-1: with no trap vector a scratchpad access off its alignment parks with `SP_ALIGN`, one outside the
team's banks with `SP_RANGE`, an `stsp` into a valid station with `SP_STATION`, each with the offset; the registers
keep their values. Where the manual leaves a point open, log entry 40 names the model's choice. -/
def Obligations.ScratchpadAccesses : Prop :=
  (∀ (m : Option ModW) (f : Sys2Proof.Mem) (s : State) (h : Sheaf) (k : Nat), Solo s h k →
    let ty := (spTy (tyCode m)).1
    let n := fmtWidth ty / 8
    let tk := tkOf k
    (let r := readSp f (s.lane h k ((spTy (tyCode m)).2 || (loadOrd m).2.2.2))
     let o := r.1.offset
     let v := BitVec.ofNat 64 (regExt ty (readNat (s.spByte tk) o n))
     let put (x : Thread) : Thread := if f.nw then x else if fmtWidth ty = 64 then x.setPair f.vd.toNat v else x.setReg f.vd.toNat (lo32 v)
     r.2.trap = none → o % n = 0 → o < 2 ^ 20 → o / 0x4000 < s.spbOf tk → (loadOrd m).1 = .rlx →
     (∀ w ∈ s.spPoisoned tk, 8 * w + 8 ≤ o ∨ o + n ≤ 8 * w) →
       ∃ t, exec (.ldsp m f) s = .next t ∧ GoesOn s t h k (wordsOf 0x082 m (.mem f)) (shiftLatch h.latch [(k, .val v)]) ∧
         t.thread k = put r.2.t ∧ t.execs = s.execs ∧ t.accs = s.accs ∧ t.teams = s.teams ∧ t.dies = s.dies) ∧
    (let r := readSp f (s.lane h k ((spTy (tyCode m)).2 || (storeOrd m).2.2.2))
     let o := r.1.offset
     let d := r.2.rdVd f.vd f.nw (if fmtWidth ty = 64 then 64 else 32)
     d.2.trap = none → o % n = 0 → o < 2 ^ 20 → o / 0x4000 < s.spbOf tk → s.stationOf tk (o / 0x4000) = none →
     (storeOrd m).1 ≠ .sc →
       ∃ t, exec (.stsp m f) s = .next t ∧ GoesOn s t h k (wordsOf 0x083 m (.mem f)) h.latch ∧ t.thread k = d.2.t ∧
         (∀ i, i < n → t.spByte tk (o + i) = BitVec.ofNat 8 (d.1.toNat / 2 ^ (8 * i))) ∧
         (∀ a, a < o ∨ o + n ≤ a → t.spByte tk a = s.spByte tk a) ∧ t.accs = s.accs ∧ t.dies = s.dies)) ∧
  (∀ (m : Option ModW) (f : Sys2Proof.Mem) (s : State) (h : Sheaf) (k : Nat), Solo s h k →
    (s.thread k).sup = false → bitAt (s.trapRegs (tkOf k)).tvec.toNat 0 = false →
    let n := fmtWidth (spTy (tyCode m)).1 / 8
    let tk := tkOf k
    let l := readSp f (s.lane h k ((spTy (tyCode m)).2 || (loadOrd m).2.2.2))
    let r := readSp f (s.lane h k ((spTy (tyCode m)).2 || (storeOrd m).2.2.2))
    let d := r.2.rdVd f.vd f.nw (if fmtWidth (spTy (tyCode m)).1 = 64 then 64 else 32)
    let stops (i : Instr) (words : W64) (code o : Nat) : Prop :=
      ∃ t, exec i s = .next t ∧ Parks s t h k words code 10 0 (BitVec.ofNat 64 o) 0 0 ∧ (t.thread k).regs = (s.thread k).regs
    let lo := l.1.offset
    let o := r.1.offset
    (l.2.trap = none → lo % n ≠ 0 → stops (.ldsp m f) (wordsOf 0x082 m (.mem f)) 0x28 lo) ∧
    (l.2.trap = none → lo % n = 0 → (2 ^ 20 ≤ lo ∨ s.spbOf tk ≤ lo / 0x4000) → stops (.ldsp m f) (wordsOf 0x082 m (.mem f)) 0x26 lo) ∧
    (d.2.trap = none → o % n ≠ 0 → stops (.stsp m f) (wordsOf 0x083 m (.mem f)) 0x28 o) ∧
    (d.2.trap = none → o % n = 0 → (2 ^ 20 ≤ o ∨ s.spbOf tk ≤ o / 0x4000) → stops (.stsp m f) (wordsOf 0x083 m (.mem f)) 0x26 o) ∧
    (d.2.trap = none → o % n = 0 → o < 2 ^ 20 → o / 0x4000 < s.spbOf tk → s.stationOf tk (o / 0x4000) ≠ none →
      stops (.stsp m f) (wordsOf 0x083 m (.mem f)) 0x27 o))

/-- R232, R233, R124, R125: `pref` reads its operands and does nothing else; a `fence` of a scope wider than `.wave`
puts its fence, or for `.acqrel` an acquire and a release, at the end of its thread's program order. R155, R156: `sld`
and `sst` make one access for the fragment, with the address of a uniform register and in the uniform stream's order:
`sld`'s destination awaits it, `sst` stores its data register's code; one that does not translate parks the fragment
with ACCESS 5. Where the manual leaves a point open, log entry 38 names the model's choice. -/
def Obligations.PrefetchesAndUniformAccesses : Prop :=
  (∀ (m : Option ModW) (f : Sys2Proof.Mem) (c : C0) (s : State) (h : Sheaf) (k : Nat),
      Solo s h k →
    (let r := readMem m f (s.lane h k false)
     r.2.trap = none → ∃ t, exec (.pref m f) s = .next t ∧ GoesOn s t h k (wordsOf 0x085 m (.mem f)) h.latch ∧ t.thread k = r.2.t ∧
       t.accs = s.accs ∧ t.dies = s.dies ∧ t.execs = s.execs ∧ t.teams = s.teams ∧ t.waves = s.waves) ∧
    (let ord := (fenceOrd m).1
     let sco := (fenceOrd m).2.2.1
     let fence (t : State) (g : Nat) (o : Ord) : Prop := ∃ a, tget t.accs g = some a ∧ a.kind = .fence ∧ a.ord = o ∧ a.scope = sco ∧
       a.owner = .thread k ∧ a.op = 0
     sco ≠ 1 → ∃ t, exec (.fence m c) s = .next t ∧ GoesOn s t h k (wordsOf 0x086 m (.c0 c)) h.latch ∧
       (∀ j, j < s.next → tget t.accs j = tget s.accs j) ∧
       (if ord = .acqrel then
         (t.thread k).q.iq = (s.thread k).q.iq ++ [s.next, s.next + 1] ∧ fence t s.next .acq ∧ fence t (s.next + 1) .rel
       else (t.thread k).q.iq = (s.thread k).q.iq ++ [s.next] ∧ fence t s.next ord) ∧
       (t.thread k).regs = (s.thread k).regs ∧
       (t.thread k).fcr = (if (fenceOrd m).2.2.2 then (s.thread k).fcr ||| fILLMOD else (s.thread k).fcr))) ∧
  (∀ (m : Option ModW) (f : SMem) (s : State) (h : Sheaf) (k : Nat) (tgt : Target) (p : Page)
      (e : Elem) (x : AccFault), Solo s h k →
    let wk := wkOf k
    let a := tgetD (s.wave wk).s f.sa.toNat 0
    let d := tgetD (s.wave wk).s f.sd.toNat 0
    let o : MemOps := { a := a.toNat, d := f.d.toInt }
    let c := if tyCode m = 31 then 13 else if isInt (tyCode m) then tyCode m else 13
    let ill : Bool := illTy m isInt
    (let ty := (accessTy p false false c).1
     (s.reachOf (s.asidOf k) o.ea o.base false false).1 = .ok (tgt, p) → o.ea % (fmtWidth ty / 8) = 0 →
     ((s.reachOf (s.asidOf k) o.ea o.base false false).2.place p o.ea o.base o.extra (fmtWidth ty) false false 5).1 = .ok e →
       ∃ t, exec (.sld m f) s = .next t ∧ ∃ g y, Queued s t g y (.uni wk) .load (loadOrd m).1 (loadOrd m).2.2.1 ∧ Names y tgt p e ty ∧
         y.dst = some f.sd.toNat ∧ GoesOn s t h k (wordsOf 0x10E m (.sMem f)) h.latch ∧ tget (t.wave wk).pend f.sd.toNat = some g ∧
         (t.wave wk).s = (s.wave wk).s ∧ (∀ w, w ≠ wk → t.wave w = s.wave w) ∧ (t.thread k).regs = (s.thread k).regs) ∧
    (let ty := (accessTy p false true c).1
     let code := storeCode p false ty (s.thread k).rm ((s.thread k).rand (s.thread k).rm 0) d.toNat
     (s.reachOf (s.asidOf k) o.ea o.base false true).1 = .ok (tgt, p) → o.ea % (fmtWidth ty / 8) = 0 → p.blk = 0 →
     ((s.reachOf (s.asidOf k) o.ea o.base false true).2.place p o.ea o.base o.extra (fmtWidth ty) false true 5).1 = .ok e →
       ∃ t, exec (.sst m f) s = .next t ∧ ∃ g y, Queued s t g y (.uni wk) .store (storeOrd m).1 (storeOrd m).2.2.1 ∧ Names y tgt p e ty ∧
         y.data = BitVec.ofNat 64 code.1 ∧ GoesOn s t h k (wordsOf 0x10F m (.sMem f)) h.latch ∧
         (t.wave wk).s = (s.wave wk).s ∧ (t.wave wk).pend = (s.wave wk).pend ∧ (∀ w, w ≠ wk → t.wave w = s.wave w) ∧
         (t.thread k).regs = (s.thread k).regs) ∧
    ((s.thread k).sup = false → (s.reachOf (s.asidOf k) o.ea o.base false false).1 = .error x →
       ∃ t, exec (.sld m f) s = .next t ∧ Parks s t h k (wordsOf 0x10E m (.sMem f)) x.kind 5 x.va a 0 0 ∧
         (t.thread k).fcr = (if ill ∨ (loadOrd m).2.2.2 then (s.thread k).fcr ||| fILLMOD else (s.thread k).fcr)))

/-- R234 to R237: an atomic on an element of its type, aligned where its page is known here, issues with its operator,
its operands and its relaxed use, which for `.unp`, `.com` and `.qnt` on host memory is none; its destination awaits
it. In a launch with DET it is held (07 R135), and a thread that awaits its result waits; a thread that awaits none
goes on. R238: a `red` on a package page of its type, coherent by hardware or by software, issues with its operator
and its operand, and writes no register. Where the manual leaves a point open, log entries 18 and 30 name the model's
choice. -/
def Obligations.AtomicsAndReductions : Prop :=
  (∀ (m : Option ModW) (f : Alu) (s : State) (h : Sheaf) (k : Nat) (tgt : Target) (pg : Page)
      (e : Elem), Solo s h k → ∀ pi ∈ atomics m f,
    let p := pi.1
    let ord := atomOrd m f.nw (p = 0x088) (p = 0x08F)
    let ty := (atomTy p (tyCode m)).1
    let wide : Bool := fmtWidth ty = 64
    let r := readAtom m f (if p = 0x092 then 13 else ty) (if wide then 64 else 32) (p = 0x08F) (s.lane h k ((atomTy p (tyCode m)).2 || ord.2.2.2))
    let words := wordsOf p m (.alu f)
    let free : Bool := f.nw && (ord.2.1 = .unp || ord.2.1 = .com)
    r.2.trap = none → (s.reachOf (s.asidOf k) r.1.ea r.1.base false true).1 = .ok (tgt, pg) → atomPageOk pg ty →
    ((s.reachOf (s.asidOf k) r.1.ea r.1.base false true).2.placeWide tgt pg r.1.ea (fmtWidth ty) 2).1 = .ok e →
      ∃ t, exec pi.2 s = .next t ∧ ∃ g a, Queued s t g a (.thread k) .atomic ord.1 ord.2.2.1 ∧
        Names a tgt pg e ty ∧ a.op = p ∧ a.data = r.1.b ∧ a.cmp = r.1.c ∧
        a.dst = (if f.nw then none else some f.vd.toNat) ∧ a.held = s.isDet (tkOf k) ∧
        a.use = (if tgt = .host ∧ (ord.2.1 = .unp ∨ ord.2.1 = .com ∨ ord.2.1 = .qnt) then .nor else ord.2.1) ∧
        (t.thread k).regs = r.2.t.regs ∧ (t.thread k).p = (s.thread k).p ∧ (t.thread k).fcr = r.2.t.fcr ∧
        (f.nw = false → tget (t.thread k).pend f.vd.toNat = some g ∧ (wide → tget (t.thread k).pend (f.vd.toNat + 1) = some g)) ∧
        (f.nw = true → (t.thread k).pend = (s.thread k).pend) ∧
        (if s.isDet (tkOf k) ∧ free = false then
          t.sheaves = s.sheaves.drop 1 ∧ (t.thread k).stat = .waiting ∧ (t.thread k).pc = h.pc ∧
            (∃ w, t.waits = s.waits ++ [w] ∧ w.tids = [k] ∧ w.what = .held g ∧ w.next = afterPc h.pc words) ∧
            (∀ j, j ≠ k → t.thread j = s.thread j) ∧ t.mem = s.mem
        else GoesOn s t h k words (shiftLatch h.latch [(k, if free then .val 0 else .pend g)]) ∧ t.waits = s.waits)) ∧
  (∀ (m : Option ModW) (f : Alu) (s : State) (h : Sheaf) (k : Nat) (tgt : Target) (pg : Page)
      (e : Elem), Solo s h k → ∀ pi ∈ reductions m f,
    let p := pi.1
    let ty := (redTy p (tyCode m)).1
    let w := if p = 0x095 then 64 else fmtWidth ty
    let r := readAtom m f (if p = 0x095 then 13 else ty) (if w = 64 then 64 else 32) false (s.lane h k ((redTy p (tyCode m)).2 || (redOrd m).2.2.2))
    r.2.trap = none → (s.reachOf (s.asidOf k) r.1.ea r.1.base false true).1 = .ok (tgt, pg) → tgt ≠ .host → pg.cc ≤ 1 →
    (isRaw pg ∨ (isPacked pg = false ∧ pg.fmt = ty)) →
    ((s.reachOf (s.asidOf k) r.1.ea r.1.base false true).2.placeWide tgt pg r.1.ea w 3).1 = .ok e →
      ∃ t, exec pi.2 s = .next t ∧ ∃ g a, Queued s t g a (.thread k) .red (redOrd m).1 (redOrd m).2.2.1 ∧
        Names a tgt pg e ty ∧ a.op = p - 0x093 ∧ a.use = (redOrd m).2.1 ∧ a.data = r.1.b ∧
        GoesOn s t h k (wordsOf p m (.alu f)) h.latch ∧ t.waves = s.waves ∧ (t.thread k).regs = r.2.t.regs ∧
        (t.thread k).pend = (s.thread k).pend ∧ (t.thread k).p = (s.thread k).p ∧ (t.thread k).fcr = r.2.t.fcr)

/-! ### Wave, matrix and tile instructions -/

/-- R242: the last lane of its wave to arrive executes the rendezvous: its operands are read as those of the others
were, and the instruction completes, with the effect that the meeting of the wave has (R246 to R251). R246: every live
lane takes the A value of its source lane, 0 where it has none or that lane has exited. R247 to R251: votes, the
smallest B of the lanes whose A is not 0, reductions over all live lanes and scans over the lanes up to, or with
`.excl` below, each one, and the lane of greatest value. Where the manual leaves a point open, log entry 49 names the
model's choice. -/
def Obligations.WaveOperations : Prop :=
  (∀ (m : Option ModW) (f : Alu) (g : AluI) (c : C0) (s : State) (h : Sheaf) (k : Nat),
      Solo s h k → (s.thread k).sup = false →
    let last (i : Instr) (p : Nat) (u : Fields) (r : Kept × Lane) : Prop :=
      let o := { r.1 with pc := h.pc, words := wordsOf p m u }
      let u := ((s.modThread k (fun _ => { r.2.t with stat := .rendezvous, pc := h.pc, kept := some o })).dropFront).cleanBins h.core
      r.2.trap = none → u.meets (wkOf k) = true →
        ∃ t, exec i s = .next t ∧ exec i { u with sheaves := { core := h.core, team := wkOf k, pc := h.pc, tids := [] } :: u.sheaves } = .next t
    let two (i : Instr) (p ca wa cb wb : Nat) (ill : Bool) : Prop :=
      let r := if f.a.toNat < 72 then (s.lane h k ill).rd f.a f.alu ca wa else (0, s.lane h k ill)
      let y := if f.b.toNat < 72 then r.2.rd f.b f.blu cb wb else (0, r.2)
      last i p (.alu f) ({ a := r.1, b := y.1 }, y.2)
    let one (i : Instr) (p : Nat) (u : Fields) (a : BitVec 7) (lu : Bool) (ca wa : Nat) (ill : Bool) : Prop :=
      let r := if a.toNat < 72 then (s.lane h k ill).rd a lu ca wa else (0, s.lane h k ill)
      last i p u ({ a := r.1 }, r.2)
    let cv := cvtMxPair m
    let rt := reduTy g.imm.toNat (tyCode m)
    let ri : Bool := if g.imm.toNat ≤ 5 then illTy m isLaneInt || (match m with | some w => w.rnd != 0 | none => false) else illTy m isLaneFlt
    two (.shfl m f) 0x0C0 12 32 12 32 false ∧ two (.cmpr m f) 0x0C6 12 32 12 32 false ∧ two (.expd m f) 0x0C7 12 32 12 32 false ∧
    two (.slup m f) 0x0C8 12 32 13 64 false ∧ two (.sldn m f) 0x0C9 12 32 13 64 false ∧ two (.wfind m f) 0x0CB 12 32 12 32 false ∧
    two (.redmaxi m f) 0x0C4 (redmaxiTy (tyCode m)) 32 (if redmaxiTy (tyCode m) = 16 then 16 else 12) 32 (illTy m (fun c => redmaxiTy c = c)) ∧
    one (.shfli m g) 0x0C1 (.aluI g) g.a g.alu 12 32 false ∧ one (.bcast m g) 0x0CA (.aluI g) g.a g.alu 12 32 false ∧
    one (.redu m g) 0x0C3 (.aluI g) g.a g.alu rt (posWidth rt) ri ∧ one (.scan m g) 0x0C5 (.aluI g) g.a g.alu rt (posWidth rt) ri ∧
    last (.vote m g) 0x0C2 (.aluI g) ({ pd := predOperand (s.thread k).p g.a.toNat }, s.lane h k false) ∧
    one (.cvtMx m f) 0x061 (.alu f) f.a f.alu cv.2 (mxPos cv.2 f.a f.b) (orDef 4 (tyCode m) != cv.1 || orDef 1 (stCode m) != cv.2) ∧
    one (.mxsc m f) 0x063 (.alu f) f.a f.alu (mxscSrc m) (mxPos (mxscSrc m) f.a f.b) (orDef 1 (stCode m) != mxscSrc m) ∧
    ((fenceOrd m).2.2.1 = 1 → last (.fence m c) 0x086 (.c0 c) ({}, s.lane h k (fenceOrd m).2.2.2))) ∧
  (∀ (m : Option ModW) (f : Alu) (g : AluI),
    let n (s : State) (wk k : Nat) (w : Nat) : Nat := (crossed s wk k true f.b (if w = 64 then 13 else 12) w).toNat
    let lane (v : Nat) : Option Nat := some v
    let chosen (s : State) (wk : Nat) : List Nat := (s.liveOf wk).filter (fun k => lo32 (crossed s wk k true f.b 12 32) != 0)
    let c := g.imm.toNat % 32
    Permutes (.shfl m f) f.vd f.nw f.a (fun s wk k => lane (n s wk k 32 % 32)) ∧
    Permutes (.slup m f) f.vd f.nw f.a (fun s wk k => if laneOf k < n s wk k 64 then none else lane (laneOf k - n s wk k 64)) ∧
    Permutes (.sldn m f) f.vd f.nw f.a (fun s wk k => if 31 < laneOf k + n s wk k 64 then none else lane (laneOf k + n s wk k 64)) ∧
    Permutes (.cmpr m f) f.vd f.nw f.a (fun s wk k => ((chosen s wk)[laneOf k]?).map laneOf) ∧
    Permutes (.expd m f) f.vd f.nw f.a (fun s wk k =>
      if k ∈ chosen s wk then lane ((chosen s wk).filter (fun j => j < k)).length else none) ∧
    Permutes (.shfli m g) g.vd g.nw g.a (fun _ _ k => match g.imm.toNat / 32 with
      | 0 => lane (Nat.xor (laneOf k) c)
      | 1 => lane (if laneOf k < c then laneOf k else laneOf k - c)
      | 2 => lane (if 31 < laneOf k + c then laneOf k else laneOf k + c)
      | _ => lane ((laneOf k + c) % 32)) ∧
    Permutes (.bcast m g) g.vd g.nw g.a (fun _ _ _ => lane (g.imm.toNat % 32))) ∧
  (∀ (m : Option ModW) (f : Alu) (g : AluI),
    let ty := reduTy g.imm.toNat (tyCode m)
    let w := fmtWidth ty
    let vals (s : State) (wk : Nat) (ks : List Nat) : List Nat :=
      ks.map (fun k => (crossed s wk k false g.a ty (posWidth ty)).toNat % 2 ^ w)
    let i (v : Nat) : Int := intVal (isSigned ty) w v
    let res (s : State) (k : Nat) (vs : List Nat) : Nat × W32 :=
      match g.imm.toNat with
      | 0 => ((vs.foldr (· + ·) 0) % 2 ^ w, 0)
      | 1 => (wrapInt w ((vs.map i).foldr min (intLimits ty).2), 0)
      | 2 => (wrapInt w ((vs.map i).foldr max (intLimits ty).1), 0)
      | 3 => (vs.foldr Nat.land (2 ^ w - 1), 0)
      | 4 => (vs.foldr Nat.lor 0, 0)
      | 5 => (vs.foldr Nat.xor 0, 0)
      | c => reduFlt c ty (modeOf m (s.thread k)) ((s.thread k).rand (modeOf m (s.thread k)) 0) vs
    let pds (s : State) (wk : Nat) : List Nat := (s.liveOf wk).filter (fun k => ((s.thread k).kept.getD {}).pd)
    let a (s : State) (wk k : Nat) : W32 := lo32 (crossed s wk k false f.a 12 32)
    let b (s : State) (wk k : Nat) : W32 := lo32 (crossed s wk k true f.b 12 32)
    let rt := redmaxiTy (tyCode m)
    let val (s : State) (wk k : Nat) : Nat := (crossed s wk k false f.a rt 32).toNat % 2 ^ fmtWidth rt
    let idx (s : State) (wk k : Nat) : Nat := (lo32 (crossed s wk k true f.b (if rt = 16 then 16 else 12) 32)).toNat
    Gathers (.vote m g) g.vd g.nw 32 (fun s wk _ => (match g.imm.toNat with
      | 0 => if (pds s wk).isEmpty then 0 else 1
      | 1 => if (pds s wk).length = (s.liveOf wk).length then 1 else 0
      | _ => ((pds s wk).map (fun k => 2 ^ laneOf k)).foldr (· + ·) 0, 0)) ∧
    Gathers (.wfind m f) f.vd f.nw 32 (fun s wk _ =>
      ((((s.liveOf wk).filter (fun k => a s wk k != 0)).map (fun k => (b s wk k).toNat)).foldr min 0xFFFFFFFF, 0)) ∧
    Gathers (.redu m g) g.vd g.nw (posWidth ty) (fun s wk k => res s k (vals s wk (s.liveOf wk))) ∧
    Gathers (.scan m g) g.vd g.nw (posWidth ty) (fun s wk k => res s k (vals s wk ((s.liveOf wk).filter (fun j =>
      if bitAt (flCode m) 0 then j < k else j ≤ k)))) ∧
    (∀ (s : State) (wk : Nat), Meeting s wk → ∃ t, exec (.redmaxi m f) s = .next t ∧ t.mem = s.mem ∧ t.accs = s.accs ∧
      ∃ b ∈ s.liveOf wk,
        (∀ k ∈ s.liveOf wk, tord (decodeVal rt (val s wk k)) (decodeVal rt (val s wk b)) = .lt ∨
          (tord (decodeVal rt (val s wk k)) (decodeVal rt (val s wk b)) = .eq ∧
            (idx s wk b < idx s wk k ∨ (idx s wk b = idx s wk k ∧ b ≤ k)))) ∧
        Met s t wk (fun _ x => if f.nw then x else x.setPair f.vd.toNat (BitVec.ofNat 64 (idx s wk b + 2 ^ 32 * val s wk b)))))

/-- R241, R242: a lane that reaches a rendezvous before the rest of its wave reads its register and latch operands,
frees their last uses, and waits at the instruction, which the sheaf does not pass; no other thread and no byte of
memory changes. With `.rs` (R271) a product's lane keeps the registers as they stand (log 50). R181 to R184: the lanes
of a block of 16, or 32, give their values and lanes that have exited give zeros; `cvt.mx` writes each lane its
element codes under the block's scale, with the scale code on top; `mxsc` writes the scale code. R126, R242, R244:
`fence` at `.wave` scope meets its wave; its fence, or an acquire and a release, stands last in the program order of
every live thread and of the uniform stream. Where the manual leaves a point open, log entries 12, 34 and 112 name the
model's choice. -/
def Obligations.WaveConversionAndFence : Prop :=
  (∀ (m : Option ModW) (f : Alu) (g : AluI) (c : C0) (x : Mx) (s : State) (h : Sheaf) (k : Nat),
      Solo s h k → (s.thread k).sup = false → (s.thread k).poison = 0 → (s.thread k).lut = false →
      (∃ j ∈ s.liveOf (wkOf k), j ≠ k ∧ (s.thread j).stat ≠ .rendezvous) →
    let waits (i : Instr) (p : Nat) (u : Fields) (thr : Thread) (kept : Kept → Prop) : Prop :=
      ∃ t, exec i s = .next t ∧ t.sheaves = s.sheaves.drop 1 ∧ ∃ o, t.thread k = { thr with stat := .rendezvous, pc := h.pc, kept := some o } ∧
        o.pc = h.pc ∧ o.words = wordsOf p m u ∧ kept o ∧ (∀ j, j ≠ k → t.thread j = s.thread j) ∧ t.mem = s.mem ∧ t.waves = s.waves ∧
        t.accs = s.accs ∧ t.dies = s.dies
    let two (i : Instr) (p ca wa cb wb : Nat) (ill : Bool) : Prop :=
      let r := if f.a.toNat < 72 then (s.lane h k ill).rd f.a f.alu ca wa else (0, s.lane h k ill)
      let y := if f.b.toNat < 72 then r.2.rd f.b f.blu cb wb else (0, r.2)
      waits i p (.alu f) y.2.t (fun o => o.a = r.1 ∧ o.b = y.1)
    let one (i : Instr) (p : Nat) (u : Fields) (a : BitVec 7) (lu : Bool) (ca wa : Nat) (ill : Bool) : Prop :=
      let r := if a.toNat < 72 then (s.lane h k ill).rd a lu ca wa else (0, s.lane h k ill)
      waits i p u r.2.t (fun o => o.a = r.1)
    let bare (i : Instr) (p : Nat) (u : Fields) : Prop := waits i p u (s.thread k) (fun _ => True)
    let product (i : Instr) (p : Nat) : Prop :=
      if bitAt (flCode m) 0 = true then
        ∃ fl : W32, (fl = 0 ∨ fl = fFREED) ∧
          waits i p (.mx x) { (s.thread k).flag fl with arrival := some { regs := (s.thread k).regs, bad := 0 } } (fun _ => True)
      else bare i p (.mx x)
    let cv := cvtMxPair m
    let rt := reduTy g.imm.toNat (tyCode m)
    two (.shfl m f) 0x0C0 12 32 12 32 false ∧ two (.cmpr m f) 0x0C6 12 32 12 32 false ∧ two (.expd m f) 0x0C7 12 32 12 32 false ∧
    two (.slup m f) 0x0C8 12 32 13 64 false ∧ two (.sldn m f) 0x0C9 12 32 13 64 false ∧ two (.wfind m f) 0x0CB 12 32 12 32 false ∧
    two (.redmaxi m f) 0x0C4 (redmaxiTy (tyCode m)) 32 (if redmaxiTy (tyCode m) = 16 then 16 else 12) 32 (illTy m (fun c => redmaxiTy c = c)) ∧
    one (.shfli m g) 0x0C1 (.aluI g) g.a g.alu 12 32 false ∧ one (.bcast m g) 0x0CA (.aluI g) g.a g.alu 12 32 false ∧
    (let ill : Bool := if g.imm.toNat ≤ 5 then illTy m isLaneInt || (match m with | some w => w.rnd != 0 | none => false) else illTy m isLaneFlt
     one (.redu m g) 0x0C3 (.aluI g) g.a g.alu rt (posWidth rt) ill ∧ one (.scan m g) 0x0C5 (.aluI g) g.a g.alu rt (posWidth rt) ill) ∧
    waits (.vote m g) 0x0C2 (.aluI g) (s.thread k) (fun o => o.pd = predOperand (s.thread k).p g.a.toNat) ∧
    one (.cvtMx m f) 0x061 (.alu f) f.a f.alu cv.2 (mxPos cv.2 f.a f.b) (orDef 4 (tyCode m) != cv.1 || orDef 1 (stCode m) != cv.2) ∧
    one (.mxsc m f) 0x063 (.alu f) f.a f.alu (mxscSrc m) (mxPos (mxscSrc m) f.a f.b) (orDef 1 (stCode m) != mxscSrc m) ∧
    ((fenceOrd m).2.2.1 = 1 → (fenceOrd m).2.2.2 = false → bare (.fence m c) 0x086 (.c0 c)) ∧
    bare (.gang m x) 0x160 (.mx x) ∧ bare (.station m x) 0x161 (.mx x) ∧ bare (.unstation m x) 0x162 (.mx x) ∧
    product (.mma m x) 0x163 ∧ product (.mmat m x) 0x164 ∧ product (.mdual m x) 0x165 ∧
    bare (.azero m x) 0x166 (.mx x) ∧ bare (.ald m x) 0x167 (.mx x) ∧ bare (.ast m x) 0x168 (.mx x) ∧
    bare (.ascl m x) 0x169 (.mx x) ∧ bare (.aread m x) 0x16A (.mx x) ∧ bare (.mwait m x) 0x16B (.mx x)) ∧
  (∀ (m : Option ModW) (f : Alu),
    let cv := cvtMxPair m
    let k (s : State) (wk : Nat) : Nat × Bool := mxK (crossed s wk ((s.liveOf wk).headD 0) true f.b 12 32).toNat
    let vals (s : State) (wk src lane : Nat) : List Val :=
      if 32 * wk + lane ∈ s.liveOf wk then mxVals src (k s wk).1 (crossed s wk (32 * wk + lane) false f.a src (mxPos src f.a f.b))
      else (upto (if (k s wk).1 = 64 then 2 else 1)).map (fun _ => Val.fin false 0 0)
    let block (s : State) (wk src j : Nat) : List Val :=
      if (k s wk).1 = 16 then (upto 16).flatMap (fun i => vals s wk src (laneOf j / 16 * 16 + i)) else (upto 32).flatMap (vals s wk src)
    let nan (s : State) (wk : Nat) : Bool := (s.thread ((s.liveOf wk).headD 0)).mxnan
    let short (s : State) (wk : Nat) : W32 := if (k s wk).2 then fILLMOD else 0
    Gathers (.cvtMx m f) f.vd f.nw 32 (fun s wk j =>
      let b := block s wk cv.2 j
      let sc := mxScale cv.1 (bitAt (flCode m) 0) (nan s wk) b
      let mode := modeOf m (s.thread j)
      let code (e : Nat) : Res := mxElem cv.1 sc mode ((s.thread j).rand mode e) (b.any Val.isNan) ((vals s wk cv.2 (laneOf j)).getD e (.fin false 0 0))
      if (k s wk).1 = 64 then (sc * 2 ^ 24 + (code 1).1 * 2 ^ fmtWidth cv.1 + (code 0).1, (code 0).2 ||| (code 1).2 ||| short s wk)
      else (sc * 2 ^ 24 + (code 0).1, (code 0).2 ||| short s wk)) ∧
    Gathers (.mxsc m f) f.vd f.nw 32 (fun s wk j =>
      let ty := (crossed s wk ((s.liveOf wk).headD 0) true f.b 12 32).toNat / 256 % 256
      let b := block s wk (mxscSrc m) j
      let own := vals s wk (mxscSrc m) (laneOf j)
      if ¬ ((4 ≤ ty ∧ ty ≤ 8) ∨ ty = 10 ∨ ty = 18) then (255, fILLMOD)
      else (mxScale ty (bitAt (flCode m) 0) (nan s wk) b,
        (if own.any Val.isSig then fNV else 0) ||| (if !b.any Val.isNan && own.any Val.isInf then fINFSAT else 0) ||| short s wk))) ∧
  (∀ (m : Option ModW) (c : C0) (s : State) (wk : Nat), Meeting s wk → (fenceOrd m).2.2.1 = 1 →
    let ord := (fenceOrd m).1
    let fence (t : State) (g : Nat) (o : Ord) : Prop := ∃ a, tget t.accs g = some a ∧ a.kind = .fence ∧ a.ord = o ∧ a.scope = 1 ∧ a.op = 0
    (tget s.waves wk).isSome = true →
      ∃ t, exec (.fence m c) s = .next t ∧ t.mem = s.mem ∧ t.dies = s.dies ∧ Met s t wk (fun _ x => x) ∧
        (∀ j, j < s.next → tget t.accs j = tget s.accs j) ∧
        (if ord = .acqrel then fence t s.next .acq ∧ fence t (s.next + 1) .rel else fence t s.next ord) ∧
        (∀ o ∈ s.waveOwners wk, ∃ q, (t.stream o).iq = q ++ (if ord = .acqrel then [s.next, s.next + 1] else [s.next]) ∧
          ∀ g ∈ (s.stream o).iq, g ∈ q))

/-- R258, R261: `gang` writes `c.gang` of its wave; where the value forms a gang the wave waits at the latch as one
more arrival, and a value with a reserved bit changes nothing and traps with `MX_PARAM`. The first arrival makes the
entry, a later one joins it. R262, R264, R265: `station` on a legal shape translates its source, writes a valid, busy
descriptor for its handle, and starts a load of its elements; `unstation`, with no user of the handle left, makes the
descriptor 0. R267 to R272: a product of one wave whose operands lie within its station and its tiles, and whose
elements translate, starts: it keeps its tiles and its station busy and its operand's lines pinned, takes its rounding
mode from lane 0, and the wave goes on. With `.rs` the scales of a row are bytes of its lane's registers (log 50), or,
where the page has no blocks, `W.ILLMOD` is set. R276: `mwait` goes on when its wave has no product, station load or
accumulator store left, and waits otherwise. Where the manual leaves a point open, log entries 50, 51 and 53 name the
model's choice. -/
def Obligations.MatrixUnits : Prop :=
  (∀ (m : Option ModW) (f : Mx) (s : State) (wk : Nat), Meeting s wk →
    let v := tgetD (s.wave wk).s f.sa.toNat 0
    let n := v.toNat % 8
    let tk := tkOfW wk
    let c := s.coreOf tk
    let members := (upto n).map (fun i => v.toNat / 2 ^ (4 + 5 * i) % 32)
    let core (t : State) : List GangEntry := (t.core c).gangs
    (v &&& 0x3FFFFFFF7 ≠ v → (∀ k ∈ s.liveOf wk, (s.thread k).sup = false) → bitAt (s.trapRegs tk).tvec.toNat 0 = false →
      ∃ t, exec (.gang m f) s = .next t ∧ t.waves = s.waves ∧ t.sheaves = s.sheaves.drop 1 ∧ t.mem = s.mem ∧
        ∀ k ∈ s.liveOf wk, (t.thread k).stat = .parked ∧ ∃ p, (t.thread k).park = some p ∧ p.kind = 0x2D ∧ p.trap = true) ∧
    ((tget s.waves wk).isSome = true → v &&& 0x3FFFFFFF7 = v → (n < 2 ∨ 6 < n) → ∃ t, exec (.gang m f) s = .next t ∧ Met s t wk (fun _ x => x) ∧ (t.wave wk).gang = v ∧ t.mem = s.mem ∧
      t.accs = s.accs ∧ t.dies = s.dies ∧ core t = core s) ∧
    ((tget s.waves wk).isSome = true → v &&& 0x3FFFFFFF7 = v → 2 ≤ n → n ≤ 6 → waveIdx wk ∈ members → members.Nodup →
      (∀ w ∈ members, ∃ x, tget s.teams tk = some x ∧ w < x.waves) →
      let pc := (s.meetWords wk).1
      let mine := (core s).filter (fun e => e.team = tk && (e.leader = members.headD 0 || (gangWaves e.gang).contains (waveIdx wk)))
      let joins (g : List GangEntry) : Prop :=
        ∃ t, exec (.gang m f) s = .next t ∧ (t.wave wk).gang = v ∧ t.sheaves = s.sheaves.drop 1 ∧ t.mem = s.mem ∧ t.accs = s.accs ∧
          core t = g ∧ (∀ k ∈ s.liveOf wk, (t.thread k).stat = .waiting ∧ (t.thread k).regs = (s.thread k).regs) ∧
          (∀ k, k ∉ s.liveOf wk → t.thread k = s.thread k)
      (mine = [] → (core s).length < 16 →
        joins (core s ++ [{ team := tk, leader := members.headD 0, pc := pc, words := (s.meetWords wk).2, gang := v, arrived := [waveIdx wk] }])) ∧
      (∀ e, mine = [e] → e.leader = members.headD 0 → e.pc = pc → e.gang = v →
        joins ((core s).map (fun x => if x.team = tk ∧ x.leader = members.headD 0 then { x with arrived := e.arrived ++ [waveIdx wk] } else x))))) ∧
  (∀ (m : Option ModW) (f : Mx) (s : State) (wk : Nat) (p : Page) (es : List Elem), Meeting s wk →
    let tk := tkOfW wk
    let va := (tgetD (s.wave wk).s f.sa.toNat 0).toNat % 2 ^ 57
    let sh := (tgetD (s.wave wk).s f.sb.toNat 0).toNat
    let w := f.w.toNat
    let ori := f.m.getLsbD 0
    let bb := sh % 64
    let r := sh / 2 ^ 8 % 1024 + 1
    let c := sh / 2 ^ 18 % 1024 + 1
    let lde := sh / 2 ^ 32
    let nb := stBanks p.fmt p.blk ori r c
    let k := blkLen p.blk
    let e0 := if isPacked p then va - p.va else va / (fmtWidth p.fmt / 8)
    let offs := (upto (r * c)).map (fun i => if ori then i % c * lde + i / c else i / c * lde + i % c)
    let old := (s.station tk w).toNat
    let quiet : Prop := bitAt old 0 = true → (∀ x ∈ s.products tk, x.station ≠ w) ∧ s.latchUses tk w = false ∧ bitAt old 2 = false
    (tget s.teams tk).isSome = true →
    (s.banksHere tk = true → quiet → bitAt old 2 = false →
      (s.mxBase (s.asidOf ((s.liveOf wk).headD 0)) va).1 = .ok p →
      bb + nb ≤ 64 → bb + nb ≤ s.spbOf tk → sh / 64 % 4 = 0 → p.blk < 4 → sh / 2 ^ 28 % 16 = 0 → (p.blk ≠ 0 → e0 % k = 0 ∧ lde % k = 0) →
      (∀ j, j < 8 → j ≠ w → ¬ (bitAt (s.station tk j).toNat 0 ∧ stBB (s.station tk j) < bb + nb ∧
        bb < stBB (s.station tk j) + stNB (s.station tk j))) →
      ((s.mxBase (s.asidOf ((s.liveOf wk).headD 0)) va).2.elemsAt p va offs 6).1 = .ok es → w < 8 →
        ∃ t, exec (.station m f) s = .next t ∧ Met s t wk (fun _ x => x) ∧ ∃ x,
          t.stationLoads = s.stationLoads ++ [x] ∧ x.team = tk ∧ x.w = w ∧ x.wk = wk ∧ x.elems = es ∧ x.page = p ∧
          (let d := (t.station tk w).toNat
           bits d 2 0 = 5 + (if ori then 2 else 0) ∧ bits d 13 8 = bb ∧ bits d 20 16 = p.fmt ∧ bits d 22 21 = p.blk ∧
           bits d 41 32 + 1 = r ∧ bits d 51 42 + 1 = c ∧ bits d 57 52 + 1 = nb)) ∧
    (quiet → ∃ t, exec (.unstation m f) s = .next t ∧ Met s t wk (fun _ x => x) ∧ t.station tk w = 0 ∧ t.mem = s.mem ∧
      t.accs = s.accs ∧ t.dies = s.dies ∧ (∀ j, j < 8 → j ≠ w → t.station tk j = s.station tk j))) ∧
  (∀ (m : Option ModW) (f : Mx) (s : State) (wk : Nat) (ps : List MxPart) (es : List (List Elem)),
      Meeting s wk →
    let tk := tkOfW wk
    let d := s.station tk f.w.toNat
    let a := (s.wave wk).gang.toNat % 8
    let low := (s.liveOf wk).headD 0
    let rs := bitAt (flCode m) 0
    let nb := rsBlocks rs (rowPart ps)
    let regs := rsRegs f.m.toNat nb
    let reads := s.rsRead (s.liveOf wk) regs (s.meetWords wk).1 (s.meetWords wk).2
    let base := if nb ≠ 0 then reads.2 else if rs then s.flagThread (32 * wk) fILLMOD else s
    let els := es.take (es.length - 1) ++ (es.drop (es.length - 1)).map (rsElems nb)
    ∀ ix ∈ ([(.mma m f, s.mmaSpec f false wk 1), (.mmat m f, s.mmaSpec f true wk 1), (.mdual m f, s.mdualSpec f wk 1)] : List (Instr × ProdSpec)),
      (a < 2 ∨ 6 < a) → s.banksHere tk = true → bitAt d.toNat 0 = true → bitAt d.toNat 2 = false → ix.2.bad = false →
      (∀ q ∈ s.products tk, ∀ x ∈ ix.2.tiles, x ∉ q.tiles) →
      (s.prodPages (s.asidOf low) (stFmt d) ix.2.parts).1 = (ps, false, none) →
      ((s.prodPages (s.asidOf low) (stFmt d) ix.2.parts).2.prodElems 1 ps).1 = .ok es →
      (∀ r ∈ regs, r < 64) → reads.1 = [] →
        ∃ t, exec ix.1 s = .next t ∧ Met base t wk (fun _ x => x) ∧ ∃ p,
          (t.core (s.coreOf tk)).products = (s.core (s.coreOf tk)).products ++ [p] ∧
          p.team = tk ∧ p.waves = [wk] ∧ p.tiles = ix.2.tiles ∧ p.station = f.w.toNat ∧ p.step = 0 ∧
          p.mode = (s.thread (32 * wk)).rm ∧ p.pc = (s.meetWords wk).1 ∧ p.parts.map (·.els) = els ∧
          (∀ l, l ∈ p.pins ↔ ∃ x ∈ els, ∃ e ∈ x, l ∈ elemLines e) ∧
          p.scales = (if nb = 0 then [] else (upto 32).map (fun l =>
            rsBytes (if 32 * wk + l ∈ s.liveOf wk then some (s.thread (32 * wk + l)).arrived else none) f.m.toNat nb)) ∧
          (t.core (s.coreOf tk)).acc = (s.core (s.coreOf tk)).acc) ∧
  (∀ (m : Option ModW) (f : Mx) (s : State) (wk : Nat), Meeting s wk →
    let done : Prop := (∀ p ∈ s.products (tkOfW wk), wk ∉ p.waves) ∧ (∀ x ∈ s.stationLoads, x.wk ≠ wk) ∧
      (∀ a ∈ s.accs, ¬ (a.2.owner = .uni wk ∧ (a.2.kind = .edit ∨ a.2.kind = .store) ∧ a.2.op = 5))
    (done → ∃ t, exec (.mwait m f) s = .next t ∧ Met s t wk (fun _ x => x) ∧ t.mem = s.mem ∧ t.accs = s.accs ∧ t.dies = s.dies) ∧
    (¬ done → ∃ t, exec (.mwait m f) s = .next t ∧ ∃ w, t.waits = s.waits ++ [w] ∧ w.what = .mwait ∧ w.wk = wk ∧ w.tids = s.liveOf wk ∧
      w.next = afterPc (s.meetWords wk).1 (s.meetWords wk).2 ∧ t.sheaves = s.sheaves.drop 1 ∧ t.mem = s.mem ∧ t.accs = s.accs ∧
      (∀ k ∈ s.liveOf wk, (t.thread k).stat = .waiting ∧ (t.thread k).regs = (s.thread k).regs) ∧
      (∀ k, k ∉ s.liveOf wk → t.thread k = s.thread k)))

/-- R275: `azero` zeroes its tiles and their row poison; `ascl` multiplies each element of its tile by a power of two,
rounded to nearest even; `aread` copies elements of a lane's row to its registers; each leaves other tiles alone.
R275: `ald` reads 32 rows of 128 binary32 elements of memory into a tile, at one time when nothing before it is
pending; `ast` issues writes of a tile's elements in the uniform stream. Elements outside the package are asked for
first (log 46). Where the manual leaves a point open, log entries 52 and 107 name the model's choice. -/
def Obligations.Accumulators : Prop :=
  (∀ (m : Option ModW) (f : Mx) (s : State) (wk : Nat), Meeting s wk →
    let tk := tkOfW wk
    let tile := f.t.toNat
    let n := f.m.toNat + 1
    let acc (t : State) (x r c : Nat) : W32 := tgetD (t.accOfTeam tk) (accKey x r c) 0
    let fits (k : Nat) : Prop := ∃ x, tget s.teams tk = some x ∧ tile + k ≤ x.acc ∧ tile + k ≤ 16
    let idle (k : Nat) : Prop := ∀ q ∈ s.products tk, ∀ i, i < k → tile + i ∉ q.tiles
    s.banksHere tk = true →
    (fits n → idle n → ∃ t, exec (.azero m f) s = .next t ∧ Met s t wk (fun _ x => x) ∧ t.mem = s.mem ∧ t.accs = s.accs ∧ t.dies = s.dies ∧
      (∀ x r c, r < 32 → c < 128 → acc t x r c = if tile ≤ x ∧ x < tile + n then 0 else acc s x r c) ∧
      (∀ x, t.rowPoisonOf tk x = if tile ≤ x ∧ x < tile + n then 0 else s.rowPoisonOf tk x)) ∧
    (fits 1 → idle 1 → (s.accOfTeam tk).Pairwise (fun a b => a.1 < b.1) →
      let e := (BitVec.ofNat 9 (tgetD (s.wave wk).s f.sb.toNat 0).toNat).toInt
      ∃ t, exec (.ascl m f) s = .next t ∧ ∃ fl, t.mem = s.mem ∧ t.accs = s.accs ∧ t.dies = s.dies ∧
        Met (s.flagThread (32 * wk) fl) t wk (fun _ x => x) ∧
        ∀ x r c, r < 32 → c < 128 → (acc t x r c).toNat =
          if x ≠ tile then (acc s x r c).toNat
          else match decodeVal 1 (acc s x r c).toNat with
            | .nan _ => defaultNan 1
            | .inf g => infBits 1 g
            | .fin g k y => if k = 0 then (acc s x r c).toNat else (roundFloat 1 0 0 true g (.dy k (y + e))).1) ∧
    (let c0 := (tgetD (s.wave wk).s f.sb.toNat 0).toNat % 128
     let vd := f.sa.toNat
     fits 1 → idle 1 → c0 + n ≤ 128 → vd + n ≤ 64 → s.rowPoisonOf tk tile = 0 →
      ∃ t, exec (.aread m f) s = .next t ∧ t.mem = s.mem ∧ t.accs = s.accs ∧ t.dies = s.dies ∧
        Met s t wk (fun k x => (upto n).foldl (fun x j => x.setReg (vd + j) (acc s tile (laneOf k) (c0 + j))) x) ∧
        (∀ x r c, acc t x r c = acc s x r c))) ∧
  (∀ (m : Option ModW) (f : Mx) (s : State) (wk : Nat) (es : List (Page × Elem)) (vals : List Nat), Meeting s wk →
    let tk := tkOfW wk
    let tile := f.t.toNat
    let va := (tgetD (s.wave wk).s f.sa.toNat 0).toNat % 2 ^ 57
    let pitch := (tgetD (s.wave wk).s f.sb.toNat 0).toNat
    let tr := f.m.getLsbD 0
    let asid := s.asidOf ((s.liveOf wk).headD 0)
    let lines := linesOfElems (es.map (·.2))
    let die := s.dieOfTeam tk
    s.banksHere tk = true → (∃ x, tget s.teams tk = some x ∧ tile < x.acc) → tile < 16 → pitch % 4 = 0 →
    (∀ q ∈ s.products tk, tile ∉ q.tiles) →
    (∀ e ∈ es, isFar e.1 = false) →
    (∀ x ∈ s.threads, s.next ∉ x.2.q.iq) → (∀ x ∈ s.waves, s.next ∉ x.2.uq.iq) →
    ((s.accElems asid va pitch tr false).1 = .ok es → s.snoopsOf lines false = [] →
      (∀ o ∈ s.waveOwners wk, (s.stream o).iq = []) → s.owned lines = false → s.hub.flip = none →
      es.map (fun e => s.readAcc die e.1 e.2) = vals.map some → s.mem.reduce = [] →
        ∃ t, exec (.ald m f) s = .next t ∧ Met s t wk (fun _ x => x) ∧
          (∀ r c, r < 32 → c < 128 → tgetD (t.accOfTeam tk) (accKey tile r c) 0 = BitVec.ofNat 32 (vals.getD (128 * r + c) 0)) ∧
          (∀ x r c, x ≠ tile → r < 32 → c < 128 → tgetD (t.accOfTeam tk) (accKey x r c) 0 = tgetD (s.accOfTeam tk) (accKey x r c) 0)) ∧
    ((s.accElems asid va pitch tr true).1 = .ok es → s.rowPoisonOf tk tile = 0 →
        ∃ t, exec (.ast m f) s = .next t ∧ Met s t wk (fun _ x => x) ∧ t.mem = s.mem ∧
          (∀ g, g < s.next → tget t.accs g = tget s.accs g) ∧
          (∀ r c, r < 32 → c < 128 → ∃ g a, tget t.accs g = some a ∧ a.kind = .edit ∧ a.owner = .uni wk ∧ a.stage = .issued ∧
            ∀ j, j < 4 → ((es.getD (128 * r + c) ({}, {})).2.pa + j,
              BitVec.ofNat 8 ((tgetD (s.accOfTeam tk) (accKey tile r c) 0).toNat / 2 ^ (8 * j))) ∈ a.cells)))

/-- R279: a tile instruction whose range translates and whose parameter word is legal issues one edit for each tile of
the range, in order, and the fragment waits for them; a count outside 1 to 65,536 traps with `MAP_PARAM`. R281, R256:
`tread` loads the 32 bytes of a tile's header for four uniform registers, and its fragment goes on; `stream` starts a
stream of the fragment from the addresses in its registers and goes on. R201, R202: `stk.ldring` whose image lies
aligned on raw pages starts its load for the type and the context that it names; the sheaf goes on and stalls until
the image is bound; an image outside the package is asked for in blocks (log 46); a misaligned address parks the
threads. Where the manual leaves a point open, log entries 20, 35, 47 and 55 name the model's choice. -/
def Obligations.TilesAndRings : Prop :=
  (∀ (m : Option ModW) (f : Th) (s : State) (h : Sheaf) (k d : Nat) (ts : List TileRef) (e : Edit), Solo s h k →
    let r (n : BitVec 6) : W64 := tgetD (s.wave (wkOf k)).s n.toNat 0
    let va := (r f.sa).toNat % 2 ^ 57
    let n := (r f.sc).toNat
    let re := s.regionEntry d (s.asidOf k) (va / 2 ^ 38 % 64)
    let g := 2 ^ (re / 2 ^ 108 % 16 + 2)
    let i := va % 2 ^ 38 / g
    ∀ x ∈ ([(0x180, 0, .tfill m f), (0x181, 1, .taff m f), (0x182, 2, .tclamp m f), (0x183, 3, .tperm m f), (0x184, 4, .tmat m f)] :
        List (Nat × Nat × Instr)),
      let words := wordsOf x.1 m (.th f)
      let b := if x.2.1 = 4 then 0 else r f.sb
      (1 ≤ n → n ≤ 65536 → s.vaTarget (s.asidOf k) va = .ok (.pkg d) → re % 2 = 1 → re / 2 ^ 108 % 16 < 14 → i + n ≤ 2 ^ 38 / g →
        (s.tilesOf (s.asidOf k) (va / 2 ^ 38 * 2 ^ 38) g (re / 2 ^ 64 % 2 ^ 44) i n).1 = .ok ts → editOf x.2.1 b = some e →
        (∀ t ∈ ts, e.ok t.page.tl t.page.fmt = true) →
          ∃ t, exec x.2.2 s = .next t ∧ t.mem = s.mem ∧ ∃ w gs, Waits s t h k words (.tiles gs) w ∧ gs.length = n ∧
            ∀ j, j < n → ∃ a, tget t.accs (gs.getD j 0) = some a ∧ a.kind = .edit ∧ a.op = x.2.1 ∧ a.data = b ∧ a.owner = .uni (wkOf k) ∧
              a.elem.tile = ts[j]? ∧ a.stage = .issued ∧ a.tileNo = j ∧ a.mode = modeOf m (s.thread k)) ∧
      ((n = 0 ∨ 65536 < n) → (s.thread k).sup = false → bitAt (s.trapRegs (tkOf k)).tvec.toNat 0 = false →
          ∃ t, exec x.2.2 s = .next t ∧ Parks s t h k words 0x2C 10 0 0 0 0)) ∧
  (∀ (m : Option ModW) (f : Th) (s : State) (h : Sheaf) (k : Nat) (p : Page) (ref : TileRef),
      Solo s h k →
    let r (n : BitVec 6) : W64 := tgetD (s.wave (wkOf k)).s n.toNat 0
    let va := (r f.sb).toNat % 2 ^ 57
    ((s.translate (s.asidOf k) va false false).1 = .ok p → p.map = true →
      ((s.translate (s.asidOf k) va false false).2.withHeader (tileAt p va) false).1 = .ok ref →
        ∃ t, exec (.tread m f) s = .next t ∧ GoesOn s t h k (wordsOf 0x185 m (.th f)) h.latch ∧ ∃ g a,
          Queued s t g a (.uni (wkOf k)) .load .rlx 7 ∧ a.elem.bit = 8 * ref.hdr ∧ a.elem.width = 256 ∧ a.dst = some f.sa.toNat ∧
          (∀ j, j < 4 → tget (t.wave (wkOf k)).pend (f.sa.toNat + j) = some g) ∧ (t.wave (wkOf k)).s = (s.wave (wkOf k)).s) ∧
    (∃ t, exec (.stream m f) s = .next t ∧ GoesOn s t h k (wordsOf 0x186 m (.th f)) h.latch ∧ ∃ j,
      t.streams = s.streams ++ [j] ∧ j.dst = (r f.sa).setWidth 57 ∧ j.src = (r f.sb).setWidth 57 ∧ j.desc = (r f.sc).setWidth 57 ∧
      j.k = f.k.toNat ∧ j.wk = wkOf k ∧ j.tids = [k] ∧ j.asid = s.asidOf k ∧ j.job = none ∧ j.gates.length = 2 ∧
      j.rnd = modeOf m (s.thread (32 * wkOf k)))) ∧
  (∀ (m : Option ModW) (f : Sys2Proof.Mem) (s : State) (h : Sheaf) (k d : Nat) (bs : List (Page × Nat)), Solo s h k →
    let ty := stkTy (tyCode m)
    let r := (s.lane h k (illTy m (fun c => 19 ≤ c && c ≤ 21))).rd f.a f.alu 13 64
    let va := ((r.1.toNat : Int) + f.d.toInt).emod (2 ^ 57) |>.toNat
    let words := wordsOf 0x0EC m (.mem f)
    let begins (ok : State → RingLoad → Prop) : Prop :=
      ∃ t, exec (.stkLdring m f) s = .next t ∧ GoesOn s t h k words h.latch ∧ (t.thread k).regs = r.2.t.regs ∧ ∃ x,
        t.ringLoads = s.ringLoads ++ [x] ∧ x.team = tkOf k ∧ x.ctx = f.vd.toNat ∧ x.ty = ty ∧ x.tids = [k] ∧ ok t x
    r.2.trap = none →
    (va % 256 = 0 → s.vaTarget (s.asidOf k) va = .ok (.pkg d) → (s.ringBlocks (s.asidOf k) va (skImage ty)).1 = .ok bs →
      begins (fun _ x => x.pa = bs.map (·.2) ∧ x.pages = bs.map (·.1) ∧ x.far = [])) ∧
    (va % 256 = 0 → ∀ g, s.vaTarget (s.asidOf k) va = .ok g → (∀ e, g ≠ .pkg e) →
      begins (fun t x => x.pa = [] ∧ x.far.length = skImage ty / 64 ∧ ∀ i, i < skImage ty / 64 →
        ∃ a, Stands t (x.far.getD i 0) a ∧ a.kind = .load ∧ a.target = g ∧ a.va = BitVec.ofNat 57 (va + 64 * i))) ∧
    (va % 256 ≠ 0 → (s.thread k).sup = false →
      ∃ t, exec (.stkLdring m f) s = .next t ∧ Parks s t h k words 10 0 va r.1 0 0))

/-! ### Synchronisation, work lists and traps -/

/-- R282 to R285, R139: a thread at `bar` of a level of its launch, or at `barw` with a count of 1 to 1,024, waits
there behind its implied fences, after which its arrival counts; a level that the launch has not, or another count,
traps with `BAR_LEVEL`. R286, R290, R291, R292: `yield` ends its sheaf and, with DET, leaves its wave's mark; `waitwp`
and an aligned `waitseq` wait for their condition, a word outside the package being asked for (log 46); `aflush` waits
for the flush in a launch with DET and else passes. Where the manual leaves a point open, log entries 57 and 58 name
the model's choice. -/
def Obligations.WaitsBegin : Prop :=
  (∀ (m : Option ModW) (f : Sy) (s : State) (h : Sheaf) (k : Nat) (x : Team) (l : Launch), Solo s h k →
      (s.thread k).sup = false → tget s.teams (tkOf k) = some x → tget s.launches x.launch = some l →
    let lev := f.imm.toNat % 8
    let n := (tgetD (s.wave (wkOf k)).s f.sa.toNat 0).toNat
    let fenced (t : State) (w : Wait) (sco : Nat) : Prop := w.arr = 0 ∧ w.fences.length = 2 ∧ ∀ g ∈ w.fences, ∃ a, tget t.accs g = some a ∧
      a.kind = .fence ∧ a.ord = .sc ∧ a.scope = sco ∧ (a.owner = .thread k ∨ a.owner = .uni (wkOf k))
    let quiet (t : State) : Prop := t.mem = s.mem ∧ t.dies = s.dies ∧ t.launches = s.launches
    (lev ≤ l.top →
      ∃ t, exec (.bar m f) s = .next t ∧ quiet t ∧ ∃ w,
        Waits s t h k (wordsOf 0x1A0 m (.sy f)) (.bar lev (f.imm.toNat / 8 % 256)) w ∧ fenced t w (l.scopeOf lev)) ∧
    (l.top < lev → bitAt (s.trapRegs (tkOf k)).tvec.toNat 0 = false →
      ∃ t, exec (.bar m f) s = .next t ∧ Parks s t h k (wordsOf 0x1A0 m (.sy f)) 0x31 10 0 0 0 0) ∧
    (1 ≤ n → n ≤ 1024 →
      ∃ t, exec (.barw m f) s = .next t ∧ quiet t ∧ ∃ w,
        Waits s t h k (wordsOf 0x1A1 m (.sy f)) (.barw (f.imm.toNat % 256) n 0) w ∧ fenced t w (l.scopeOf l.teamLevel)) ∧
    ((n = 0 ∨ 1024 < n) → bitAt (s.trapRegs (tkOf k)).tvec.toNat 0 = false →
      ∃ t, exec (.barw m f) s = .next t ∧ Parks s t h k (wordsOf 0x1A1 m (.sy f)) 0x31 10 0 0 0 0)) ∧
  (∀ (m : Option ModW) (f : Sy) (s : State) (h : Sheaf) (k : Nat) (g : Target) (p : Page), Solo s h k →
    let r (n : BitVec 6) : W64 := tgetD (s.wave (wkOf k)).s n.toNat 0
    let va := (r f.sa).toNat % 2 ^ 57
    (∃ t, exec (.yield m f) s = .next t ∧ Files s t h k (wordsOf 0x1A2 m (.sy f)) ∧ t.accs = s.accs ∧
      (s.isDet (tkOf k) = true → (t.wave (wkOf k)).yieldBit = true)) ∧
    (∃ t, exec (.waitwp m f) s = .next t ∧ t.mem = s.mem ∧ t.accs = s.accs ∧ ∃ w,
      Waits s t h k (wordsOf 0x1A6 m (.sy f)) (.waitwp (f.imm.toNat / 16 % 4) (f.imm.toNat % 16) (r f.sb) f.sa.toNat) w) ∧
    (va % 8 = 0 → (s.reach (s.asidOf k) va false).1 = .ok (g, p) →
      ∃ t, exec (.waitseq m f) s = .next t ∧ t.mem = s.mem ∧ ∃ w,
        Waits s t h k (wordsOf 0x1A7 m (.sy f))
          (.waitseq (BitVec.ofNat 57 va) f.sb.toNat (r f.sb) (if f.imm = 0 then none else some (f.imm.toNat * 1024))) w ∧
        ((∃ d, g = .pkg d) → t.accs = s.accs ∧ w.fences = []) ∧
        ((∀ d, g ≠ .pkg d) → ∃ n a, w.fences = [n] ∧ Stands t n a ∧ a.kind = .load ∧ a.target = g ∧ a.va = BitVec.ofNat 57 va)) ∧
    (va % 8 ≠ 0 → (s.thread k).sup = false → ∃ t, exec (.waitseq m f) s = .next t ∧
      Parks s t h k (wordsOf 0x1A7 m (.sy f)) 10 5 va (r f.sa) (r f.sb) 0) ∧
    (s.isDet (tkOf k) = true → ∃ t, exec (.aflush m f) s = .next t ∧ t.mem = s.mem ∧ ∃ w,
      Waits s t h k (wordsOf 0x1A8 m (.sy f)) .aflush w) ∧
    (s.isDet (tkOf k) = false → ∃ t, exec (.aflush m f) s = .next t ∧ Files s t h k (wordsOf 0x1A8 m (.sy f)) ∧ t.accs = s.accs))

/-- R287, R288: `wlpush` appends an item to a list that has room, or with DET holds it with its wave and lane; other
lists keep their items. R288, R289: `wlpop` takes an item, in a launch with DET the first one, and writes 1, or 0 and
0 from an empty list; `wlquiet` writes 0 when the list has an item and waits when it has none. R287, 20 Table 20-1: a
full list traps with `WL_FULL`, a list that the launch has not with `WL_PARAM`. R294, R295, Table 15-4, Table 15-6: an
append whose control block and entry are legal links the entry behind the last one, or in the control block of an
empty chain, and gives it to the block's engine; a misaligned address traps with `ENGINE_PARAM`. Where the manual
leaves a point open, log entries 56, 58 and 64 name the model's choice. -/
def Obligations.WorkListsAndChains : Prop :=
  (∀ (m : Option ModW) (f : Sy) (s : State) (h : Sheaf) (k : Nat) (x : Team) (l : Launch), Solo s h k →
      tget s.teams (tkOf k) = some x → tget s.launches x.launch = some l →
    let n := f.imm.toNat % 256
    let r (a : BitVec 6) : W64 := tgetD (s.wave (wkOf k)).s a.toNat 0
    let item (l : Launch) (j : Nat) : List W64 := ((l.lists.getD j []).map (·.1))
    let wl (t : State) (j : Nat) : List W64 := match tget t.launches x.launch with | some y => item y j | none => []
    let push := wordsOf 0x1A3 m (.sy f)
    n < l.wln → l.wln ≤ l.lists.length →
    (l.items n).length + l.heldOn n < l.wlCap → ∃ t, exec (.wlpush m f) s = .next t ∧ Continues s t h k push h.latch true ∧
      (∀ j, wl t j = if j = n ∧ l.det = false then item l n ++ [r f.sa] else item l j) ∧
      (l.det = true → ∃ y, tget t.launches x.launch = some y ∧ ∃ q, y.held = l.held ++ [q] ∧ q.list = n ∧ q.item = r f.sa ∧ q.team = tkOf k ∧
        q.wave = waveIdx (wkOf k) ∧ q.lane = laneOf k)) ∧
  (∀ (m : Option ModW) (f : Sy) (s : State) (h : Sheaf) (k : Nat) (x : Team) (l : Launch), Solo s h k →
      tget s.teams (tkOf k) = some x → tget s.launches x.launch = some l →
    let n := f.imm.toNat % 256
    let items := l.lists.getD n []
    let wl (t : State) : List (List (W64 × List Nat)) := match tget t.launches x.launch with | some y => y.lists | none => []
    let sreg (t : State) (a : Nat) : W64 := tgetD (t.wave (wkOf k)).s a 0
    n < l.wln → l.wln ≤ l.lists.length →
    (items = [] → ∃ t, exec (.wlpop m f) s = .next t ∧ GoesOn s t h k (wordsOf 0x1A4 m (.sy f)) h.latch true ∧
      ∀ a, sreg t a = if a = f.sb.toNat then 0 else if a = f.sa.toNat then 0 else sreg s a) ∧
    (items ≠ [] → ∃ t, exec (.wlpop m f) s = .next t ∧ Continues s t h k (wordsOf 0x1A4 m (.sy f)) h.latch true ∧
      ∃ i, i < items.length ∧ (l.det = true → i = 0) ∧
        (∀ a, sreg t a = if a = f.sb.toNat then 1 else if a = f.sa.toNat then (items.getD i (0, [])).1 else sreg s a) ∧
        (∀ j, (wl t).getD j [] = if j = n then items.take i ++ items.drop (i + 1) else (wl s).getD j [])) ∧
    ((s.thread k).sup = false → items ≠ [] → ∃ t, exec (.wlquiet m f) s = .next t ∧
      Files s t h k (wordsOf 0x1A5 m (.sy f)) ∧ ∀ a, sreg t a = if a = f.sa.toNat then 0 else sreg s a) ∧
    ((s.thread k).sup = false → items = [] → ∃ t, exec (.wlquiet m f) s = .next t ∧ t.mem = s.mem ∧ ∃ w,
      Waits s t h k (wordsOf 0x1A5 m (.sy f)) (.wlquiet n f.sa.toNat) w)) ∧
  (∀ (m : Option ModW) (f : Sy) (s : State) (h : Sheaf) (k : Nat) (x : Team) (l : Launch), Solo s h k →
      tget s.teams (tkOf k) = some x → tget s.launches x.launch = some l → (s.thread k).sup = false →
      bitAt (s.trapRegs (tkOf k)).tvec.toNat 0 = false →
    let n := f.imm.toNat % 256
    (l.wln ≤ n → ∀ pi ∈ ([(0x1A3, .wlpush m f), (0x1A4, .wlpop m f), (0x1A5, .wlquiet m f)] : List (Nat × Instr)),
      ∃ t, exec pi.2 s = .next t ∧ Parks s t h k (wordsOf pi.1 m (.sy f)) 0x33 10 0 0 0 0) ∧
    (n < l.wln → l.wlCap ≤ (l.items n).length + l.heldOn n →
      ∃ t, exec (.wlpush m f) s = .next t ∧ Parks s t h k (wordsOf 0x1A3 m (.sy f)) 0x34 10 0 0 0 0)) ∧
  (∀ (m : Option ModW) (f : Sy) (s : State) (h : Sheaf) (k : Nat) (cp ep : Page), Solo s h k →
    let r (n : BitVec 6) : W64 := tgetD (s.wave (wkOf k)).s n.toNat 0
    let cb := (r f.sa).toNat % 2 ^ 57
    let en := (r f.sb).toNat % 2 ^ 57
    let asid := s.asidOf k
    let cpa := cp.pa + (cb - cp.va)
    let epa := ep.pa + (en - ep.va)
    let rc (o : Nat) : Nat := s.readNow (.uni (wkOf k)) (s.dieOfTeam (tkOf k)) cp.die (cpa + o) 8
    let re (o : Nat) : Nat := s.readNow (.uni (wkOf k)) (s.dieOfTeam (tkOf k)) ep.die (epa + o) 8
    let kind := rc 0 % 16
    let w := rc 0
    let hd := re 8
    let eng := 32 * (w / 256 % 4) + (if kind = 0 then w / 16 % 16 else 15 + kind)
    ∀ x ∈ ([(0x1C0, none, .chapp m f), (0x1C1, some 4, .launch m f), (0x1C2, some 5, .nlaunch m f), (0x1C3, some 2, .coll m f),
        (0x1C4, some 3, .topk m f), (0x1C5, some 1, .gath m f)] : List (Nat × Option Nat × Instr)),
      let words := wordsOf x.1 m (.sy f)
      (cb % 64 = 0 → en % 64 = 0 → (s.translate asid cb true false).1 = .ok cp → ((s.translate asid cb true false).2.translate asid en true false).1 = .ok ep →
        kind ≤ 5 → w / 2 ^ 10 = 0 → (∀ i, i < 4 → rc (0x20 + 8 * i) = 0) → (kind = 0 ∨ w / 16 % 16 = 0) → hd % 16 = kind →
        hd / 16 % 16 = 0 → hd / 2 ^ 12 % 8 < 6 → hd / 2 ^ 16 = 0 → re 0x10 < 2 ^ 63 →
        bodyOk kind (hd / 256 % 16) re = true → (x.2.1 = none ∨ x.2.1 = some kind) →
        memNat s.mem.home (cpa + 8) 8 % 2 ^ 57 = 0 → (∀ i, i < 8 → cpa + 8 + i ≠ cp.pte) →
        s.mem.reduce = [] →
          ∃ t, exec x.2.2 s = .next t ∧ t.front = some { after h words h.latch with inRun := false } ∧ t.sheaves.drop 1 = s.sheaves.drop 1 ∧
            (∀ j, j ≠ k → t.thread j = s.thread j) ∧ (t.thread k).regs = (s.thread k).regs ∧
            memNat t.mem.home (cpa + 8) 8 = en ∧
            (∃ c ∈ (t.engine eng).chains, c.cb.toNat = cb ∧ c.asid = asid ∧ (c.next.getLast?).map (fun y => y.1.toNat) = some en) ∧
            (∀ j, j ≠ eng → t.engine j = s.engine j)) ∧
      ((cb % 64 ≠ 0 ∨ en % 64 ≠ 0) → (s.thread k).sup = false → bitAt (s.trapRegs (tkOf k)).tvec.toNat 0 = false →
          ∃ t, exec x.2.2 s = .next t ∧ Parks s t h k words 0x35 10 0 0 0 0))

/-- 20 R363 to R365, R299, R301, R378: with no vector, `trap` and `brk` park their threads with `USER_TRAP` and
`BREAK` and their code word as the value; to resume after `trap`, at `brk`. A user-level `csrw` of `c.age` and `tret`
trap with `PRIV`. With a debugger attached `brk` halts its wave, and a product of the wave stops at its next K group
with its progress kept (14 R273). 20 R364, Table 20-2: with a vector, a trap writes the thread's 64-byte record, in
which the first word is its code and whether the instruction is a pair, then PC, RPC, words and value, and old v60 to
v63; it sets v60:v61 to the record's address and v62:v63 to the code, raises the thread to supervisor level, and goes
to `TVEC<56:2>`. A `trap` in a handler stops the thread with `NESTED`. 20 R366: `tret` of a handler takes v60 to v63
from the record's old values, leaves supervisor level, and goes to the record's RPC, or ends the thread where the
record says so. Where the manual leaves a point open, log entries 17, 31, 43 and 44 name the model's choice. -/
def Obligations.Traps : Prop :=
  (∀ (m : Option ModW) (f : Sys) (s : State) (h : Sheaf) (k : Nat), Solo s h k → (s.thread k).sup = false →
    let off : Prop := bitAt (s.trapRegs (tkOf k)).tvec.toNat 0 = false
    let rpc (t : State) : Option Va := (t.thread k).park.map (·.rpc)
    let stops (i : Instr) (p kind : Nat) (val : W64) (next : Va) : Prop :=
      ∃ t, exec i s = .next t ∧ Parks s t h k (wordsOf p m (.sys f)) kind 10 0 val 0 0 ∧ rpc t = some next ∧
        (t.thread k).regs = (s.thread k).regs ∧ (t.thread k).fcr = (s.thread k).fcr
    let attached : Bool := bitAt (s.die (s.dieOfTeam (tkOf k))).dbgVf.toNat (s.vfOf (tkOf k)) && s.feature (s.vfOf (tkOf k)) 9
    (off → stops (.trap m f) 0x1E0 0x36 (f.imm.setWidth 64) (afterPc h.pc (wordsOf 0x1E0 m (.sys f)))) ∧
    (off → attached = false → stops (.brk m f) 0x1E4 0x37 (f.imm.setWidth 64) h.pc) ∧
    (off → f.imm = 0x100 → stops (.csrw m f) 0x1E3 0x23 0 h.pc) ∧
    (off → stops (.tret m f) 0x1E1 0x23 0 h.pc) ∧
    (attached = true → (∀ x ∈ s.sheaves.drop 1, ∀ j ∈ x.tids, wkOf j ≠ wkOf k) →
      let products := (s.core (s.coreOf (tkOf k))).products
      ((∀ q ∈ products, wkOf k ∉ q.waves) →
        ∃ t, exec (.brk m f) s = .next t ∧ Files s t h k (wordsOf 0x1E4 m (.sys f)) ∧ (t.wave (wkOf k)).haltBit = true) ∧
      (∀ q g, products = [q] → q.waves.Nodup → q.waves[g]? = some (wkOf k) → q.read = true → q.step < q.steps →
        ∃ t, exec (.brk m f) s = .next t ∧ (t.thread k).pc = afterPc h.pc (wordsOf 0x1E4 m (.sys f)) ∧ (t.thread k).stat = .ready ∧
          (t.wave (wkOf k)).haltBit = true ∧ (t.wave (wkOf k)).mprog = mprogOf { q with step := q.step + 1 } g))) ∧
  (∀ (m : Option ModW) (f : Sys) (s : State) (h : Sheaf) (k : Nat) (p : Page), Solo s h k →
    let v := s.trapRegs (tkOf k)
    let words := wordsOf 0x1E0 m (.sys f)
    let next := afterPc h.pc words
    let va := (v.trec.toNat + 64 * (1024 * (match tget s.teams (tkOf k) with | some x => x.frame.getD 0 | none => 0) + k % 1024)) % 2 ^ 57
    let pa := p.pa + (va - p.va)
    let word (t : State) (i : Nat) : W64 := BitVec.ofNat 64 (memNat t.mem.home (pa + 8 * i) 8)
    let reg (n : Nat) : W32 := match tget (s.thread k).regs n with | some (.live x) => x | _ => 0
    ((s.thread k).sup = false → v.tvec.getLsbD 0 = true → (s.translate (v.tctl.toNat % 2 ^ 16) va true false).1 = .ok p →
      p.pte < pa ∨ pa + 64 ≤ p.pte →
        ∃ t, exec (.trap m f) s = .next t ∧ t.sheaves = s.sheaves.drop 1 ∧ (t.thread k).stat = .ready ∧ (t.thread k).sup = true ∧
          (t.thread k).pc = BitVec.ofNat 57 (v.tvec.toNat / 4 * 4) ∧ (t.thread k).trapVa = some (BitVec.ofNat 57 va) ∧
          (∀ n, tget (t.thread k).regs n = if n = 60 then some (.live (BitVec.ofNat 32 va)) else if n = 61 then some (.live (BitVec.ofNat 32 (va / 2 ^ 32)))
            else if n = 62 then some (.live 0x36) else if n = 63 then some (.live 0) else tget (s.thread k).regs n) ∧
          word t 0 = (if isPairWords words then 0x136 else 0x36) ∧ word t 1 = h.pc.setWidth 64 ∧ word t 2 = next.setWidth 64 ∧ word t 3 = words ∧
          word t 4 = f.imm.setWidth 64 ∧ word t 5 = 0 ∧ word t 6 = pair64 (reg 60) (reg 61) ∧ word t 7 = pair64 (reg 62) (reg 63) ∧
          (∀ j, j ≠ k → t.thread j = s.thread j) ∧ (t.thread k).fcr = (s.thread k).fcr ∧ (t.thread k).p = (s.thread k).p) ∧
    ((s.thread k).sup = true → ∃ t, exec (.trap m f) s = .next t ∧ Parks s t h k words 0x38 10 0 0 0 0)) ∧
  (∀ (m : Option ModW) (f : Sys) (s : State) (h : Sheaf) (k : Nat) (p : Page) (va : Va), Solo s h k →
      (s.thread k).sup = true → (s.thread k).trapVa = some va → (s.translate (s.asidOf k) va.toNat false false).1 = .ok p →
    let pa := p.pa + (va.toNat - p.va)
    let rd (o : Nat) : W64 := BitVec.ofNat 64 (s.readNow (.thread k) (s.dieOfTeam (tkOf k)) p.die (pa + o) 8)
    ∃ t, exec (.tret m f) s = .next t ∧ t.sheaves = s.sheaves.drop 1 ∧ (t.thread k).sup = false ∧
      ((rd 0x28).getLsbD 0 = false → (∀ j, j ≠ k → t.thread j = s.thread j) ∧ (t.thread k).stat = .ready ∧ (t.thread k).pc = BitVec.ofNat 57 ((rd 0x10).toNat / 4 * 4) ∧
        (∀ n, tget (t.thread k).regs n = if n = 60 then some (.live (lo32 (rd 0x30))) else if n = 61 then some (.live (hi32 (rd 0x30)))
          else if n = 62 then some (.live (lo32 (rd 0x38))) else if n = 63 then some (.live (hi32 (rd 0x38))) else tget (s.thread k).regs n) ∧
        (t.thread k).fcr = (s.thread k).fcr ∧ (t.thread k).p = (s.thread k).p) ∧
      ((rd 0x28).getLsbD 0 = true → (t.thread k).stat = .exited))

/-! ### The ordering machine -/

/-- R121, R122, R130, R131: an issued store, `red`, tile edit or weak atomic that program order lets go leaves for its
home with the counts that its die has applied; an access to another package waits in its core's channel, and one to
the host window in its die's host channel. Where the manual leaves a point open, log entries 27 and 28 name the
model's choice. -/
def Obligations.AccessesLeave : Prop := ∀ (s : State) (g : Nat) (a : Acc), Stands s g a → a.stage = .issued → a.kind ≠ .fence →
    s.mayGo a = true → s.ownerTurn a = true → s.detTurn a = true → s.tileTurn g = true →
  (∀ d, a.target = .pkg d → a.sends = true → a.held = false →
    ∃ t, exec (.storeSend g []) s = .next t ∧ (t.die d).inbox = (s.die d).inbox ++ [{ gid := g, vc := s.vcOf a.die }] ∧
      tget t.accs g = some { a with stage := .sent, more := [] } ∧ t.mem = s.mem ∧ t.threads = s.threads ∧ t.out = s.out ∧
      ∀ j, j ≠ g → tget t.accs j = tget s.accs j) ∧
  (∀ p, a.target = .other p →
    ∃ t, exec (.storeSend g []) s = .next t ∧ tget t.accs g = some { a with stage := .sent, more := [] } ∧ t.mem = s.mem ∧ t.dies = s.dies ∧
      (tgetD t.chans (chanKey a.core p) {}).q = (tgetD s.chans (chanKey a.core p) {}).q ++ [g] ∧
      ∀ j, j ≠ chanKey a.core p → tget t.chans j = tget s.chans j) ∧
  (a.target = .host → (s.die a.die).hostChan.length < 512 →
    ∃ t, exec (.storeSend g []) s = .next t ∧ tget t.accs g = some { a with stage := .sent, more := [] } ∧ t.mem = s.mem ∧
      (t.die a.die).hostChan = (s.die a.die).hostChan ++ [g] ∧ t.out = s.out ++ [hostReq a])

/-- R118, R140, R214: the first write in the inbox of its home is numbered there, one past the last, with the counts
that it came with, and sent to every die; the home value takes a store's bytes; a `red` keeps its contribution apart;
a weak atomic writes its operation's value; a tile edit that composes exactly writes the header only. R119, R129,
R229: a die applies the next write of a home whose counts it has reached, at a time after its clock and after the read
leases of the write's lines; its view then has the write's bytes, and no other die and no home value changes. The
backing copy keeps the view that a line's home die has of it and of the lines of its tile, and a restore writes the
backing value of a whole line. Where the manual leaves a point open, log entries 62 and 82 name the model's choice. -/
def Obligations.WritesAreOrdered : Prop :=
  (∀ (s : State) (d : Nat) (r : Req) (a : Acc), (s.die d).inbox[0]? = some r → Stands s r.gid a →
      a.more = [] → a.mats = [] → Unhindered s d a → d < nDies →
    let n := (s.die d).h + 1
    let rest (t : State) : Prop := (t.die d).inbox = (s.die d).inbox.drop 1 ∧ ∃ b, tget t.accs r.gid = some b ∧ b.stage = .numbered ∧ b.num = n
    (a.kind = .store → a.elem.tile = none →
      let c := elemCells s.homeByte a.elem (s.homeCode a).1
      ∃ t, exec (.writeSequence d 0) s = .next t ∧ Numbered t d n r.vc c (some r.gid) ∧ Stores s t c a.page.pte ∧ rest t) ∧
    (a.kind = .red → a.elem.tile = none → a.page.pte = 0 →
      ∃ t, exec (.writeSequence d 0) s = .next t ∧ t.mem.home = s.mem.home ∧ rest t ∧
        t.mem.reduce = [{ pa := a.elem.pa, op := a.op, ty := a.ty, parts := [a.data], last := s.mem.redSeq + 1, home := d }] ∧
        ∀ e, e < nDies → ∃ w ∈ (t.die e).aq, w.home = d ∧ w.num = n ∧ w.content = [.red a.elem.pa a.op a.ty a.data]) ∧
    (a.kind = .atomic → a.elem.tile = none → a.use = .unp →
      let c := cellsAt a.elem.pa (natBytes (atomNew a (s.atomOld a)).1 (a.elem.width / 8))
      ∃ t, exec (.writeSequence d 0) s = .next t ∧ Numbered t d n r.vc c (some r.gid) ∧ Stores s t c a.page.pte ∧ rest t) ∧
    (∀ ref e h, a.kind = .edit → a.op < 5 → a.elem.tile = some ref → editOf a.op a.data = some e → e ≠ .mat →
      (readHdr s.homeByte ref).valid ref.page.tl ref.page.fmt = true → compose (readHdr s.homeByte ref) ref.page.tl e = some h →
      let c := hdrCells ref (editHdr a h)
      ∃ t, exec (.writeSequence d 0) s = .next t ∧ Numbered t d n r.vc c (some r.gid) ∧ Stores s t c ref.hdrPte ∧ rest t)) ∧
  (∀ (s : State) (d h : Nat) (w : Wr),
    ((s.die d).aq.find? (fun w => w.home = h) = some w → (s.die d).mayApply w = true →
      ∃ t, exec (.writeApply d h) s = .next t ∧
        (t.die d).clock = max (s.die d).clock ((s.die d).rtsOf w.lines) + 1 ∧ (t.die d).n = lset (s.die d).n h ((s.die d).n.getD h 0 + 1) ∧
        (t.die d).aq = (s.die d).aq.filter (fun x => !(x.home = h && x.num = w.num)) ∧
        (∀ c x b, w.content = [.cells c] → cellGet c x = some b → t.viewByte d x = b) ∧
        (∀ e, e ≠ d → t.die e = s.die e) ∧ t.mem = s.mem) ∧
    (∀ l, paOk (l * lineBytes) = true → Memory.wf s.mem = true →
      ∃ t, exec (.backingCopy l) s = .next t ∧ t.mem = { s.mem with backing := t.mem.backing } ∧ t.dies = s.dies ∧ t.accs = s.accs ∧
        (∀ k ∈ s.backingLines l, ∀ i, i < lineBytes → memGet t.mem.backing (k * lineBytes + i) = s.viewByte (s.scratchHome l) (k * lineBytes + i)) ∧
        ∀ x, lineOf x ∉ s.backingLines l → memGet t.mem.backing x = memGet s.mem.backing x) ∧
    (∀ l, s.mem.restores[0]? = some (l, h) → s.queuesOpen h = true → s.writeStall [l] s.next = false → s.snoopsOf [l] true = [] →
      s.mem.reduce = [] → Memory.wf s.mem = true → h < nDies →
      ∃ t, exec (.deadLoadRestore 0) s = .next t ∧ t.mem.restores = s.mem.restores.drop 1 ∧ (t.die h).h = (s.die h).h + 1 ∧
        ∀ x, memGet t.mem.home x = if lineOf x = l then memGet s.mem.backing x else memGet s.mem.home x))

/-- R120, R127: a load performs at its time, not after its die's clock and, where the clock allows, not before F nor
before its thread's last access to a line of it through that home, nor before the last invalidation of its translation
(17 R326); its register takes the value of its bytes in the view of that time, under its thread's own stores; an
acquire raises F; the load leaves its queue, and memory keeps its bytes. A store on the forwarding path is delivered
to a core of its cluster, those of one thread in order. R127: a store on the forwarding path of a cluster is delivered
to a core of it, those of one thread in program order; with its last delivery one that its die has applied leaves its
queue (Table 7-3). Where the manual leaves a point open, log entries 33 and 41 name the model's choice. -/
def Obligations.LoadsAndForwarding : Prop :=
  (∀ (s : State) (g back k r : Nat) (a : Acc) (v : Res) (own : Bool), Stands s g a → a.kind = .load →
      a.stage = .issued → (∃ d, a.target = .pkg d) → a.owner = .thread k → s.loadApart g = false → s.mayGo a = true →
      s.lineStall a.lines g = false → s.snoopsOf a.lines false = [] → a.elem.tile = none → s.mem.reduce = [] → Memory.wf s.mem = true →
      (tget s.threads k).isSome = true → (s.thread k).stat ≠ .parked → (s.thread k).stat ≠ .exited → a.dst = some r → tget (s.thread k).pend r = some g →
    let T := s.loadTime a back
    let q := (s.thread k).q
    a.loadValue ((s.die a.die).byte T) (if a.page.cc = 2 then [] else s.ownStores a.owner a.target ++ s.pathStores a) = some (v, own) →
      T ≤ (s.die a.die).clock ∧ (q.low ≤ (s.die a.die).clock → q.low ≤ T) ∧
      (∀ l ∈ a.floorKeys, tgetD q.lines l 0 ≤ (s.die a.die).clock → tgetD q.lines l 0 ≤ T) ∧
      ((s.die a.die).invFloor a.page.asid a.va.toNat ≤ (s.die a.die).clock → (s.die a.die).invFloor a.page.asid a.va.toNat ≤ T) ∧
      ∃ t, exec (.loadPerform g back) s = .next t ∧
        (a.wide = false → tget (t.thread k).regs r = some (.live (BitVec.ofNat 32 v.1))) ∧
        (a.wide = true → tget (t.thread k).regs r = some (.live (BitVec.ofNat 32 v.1)) ∧
          tget (t.thread k).regs (r + 1) = some (.live (BitVec.ofNat 32 (v.1 / 2 ^ 32)))) ∧
        (∀ j, j ≠ r → (a.wide = true → j ≠ r + 1) → tget (t.thread k).regs j = tget (s.thread k).regs j) ∧
        tget (t.thread k).pend r ≠ some g ∧ g ∉ (t.thread k).q.iq ∧ (g ∈ q.iq → a.isAcq = true → own = false → T ≤ (t.thread k).q.floor) ∧
        tget t.accs g = none ∧ Stores s t [] a.page.pte) ∧
  (∀ (s : State) (c j core : Nat) (a : Acc), (s.path c)[j]? = some a → Stands s a.gid a → clusterOf core = c →
      core ∉ a.deliv → (∀ b ∈ (s.path c).take j, b.owner = a.owner → core ∈ b.deliv) →
    let b := { a with deliv := a.deliv ++ [core] }
    let last : Prop := a.applied = true ∧ ∀ x ∈ clusterCores a.core, x ∈ b.deliv
    ∃ t, exec (.forwardDelivery c j core) s = .next t ∧ tget t.accs a.gid = some b ∧ (∀ i, i ≠ a.gid → tget t.accs i = tget s.accs i) ∧
      t.mem = s.mem ∧ t.dies = s.dies ∧ (last → ∀ o, a.gid ∉ (t.stream o).iq) ∧ (¬ last → t = { s with accs := t.accs }))

/-- R132, R133, Table 12-3: an atomic performs at its home as one step: its register takes the old value, and the
location the operation's. A batch of `.qnt` adds of one core returns the running sums in their order and writes their
total. Where the manual leaves a point open, log entries 27 and 65 name the model's choice. -/
def Obligations.AtomicsPerform : Prop := ∀ (s : State) (g back k r home : Nat) (a : Acc), Stands s g a → a.kind = .atomic → a.stage = .issued →
    a.target = .pkg home → home < nDies → a.held = false → a.weak = false → a.use ≠ .spc → s.mayGo a = true → Unhindered s home a →
    a.elem.tile = none → a.mats = [] → a.owner = .thread k → (tget s.threads k).isSome = true → (s.thread k).stat ≠ .exited →
    a.dst = some r → a.wide = false → tget (s.thread k).pend r = some g → a.elem.width = 32 → fmtWidth a.ty = 32 →
  let o := s.atomOld a
  let y := a.data.toNat % 2 ^ 32
  let n := if a.op = 0x088 then (o + y) % 2 ^ 32 else if a.op = 0x08B then o &&& y else if a.op = 0x08C then o ||| y
    else if a.op = 0x08D then o ^^^ y else if a.op = 0x08E then y
    else if a.op = 0x08F then (if o = y then a.cmp.toNat % 2 ^ 32 else o) else (atomNew a o).1
  (a.use ≠ .qnt → ∃ t, exec (.atomicHomeStep g back) s = .next t ∧ tget (t.thread k).regs r = some (.live (BitVec.ofNat 32 o)) ∧
    Stores s t (cellsAt a.elem.pa (natBytes n 4)) a.page.pte ∧ (∀ j, j ≠ r → tget (t.thread k).regs j = tget (s.thread k).regs j)) ∧
  (∀ g2 b q, a.use = .qnt → g2 ≠ g → Stands s g2 b → b.use = .qnt → b.held = false → s.atomReady home b = true → b.core = a.core → b.target = a.target →
    b.elem = a.elem → b.ty = a.ty → b.owner = .thread q → q ≠ k → (tget s.threads q).isSome = true → (s.thread q).stat ≠ .exited → b.dst = some r → b.wide = false →
    tget (s.thread q).pend r = some g2 →
    ∃ t, exec (.qntBatch [g, g2]) s = .next t ∧ tget (t.thread k).regs r = some (.live (BitVec.ofNat 32 o)) ∧
      tget (t.thread q).regs r = some (.live (BitVec.ofNat 32 (o + y))) ∧
      Stores s t (cellsAt a.elem.pa (natBytes ((o + y + b.data.toNat) % 2 ^ 32) 4)) a.page.pte)

/-- R124 to R126: a fence that program order lets complete ends; a full one raises F of its thread to the die clock; a
fence of scope `.pkg` or wider takes the token with the counts that its die has applied, and ends when every die has
applied as much. The acquire of a pushed item ends when its die has applied what the push released (15 R288). R119,
R136: a cycle of a die raises its clock and its cycle count by 1 and changes no other die and no memory. At its flush
point an instance of a launch with DET starts to drain the atomics that it owns, and a launch whose teams have all
ended drains what is left. An `aflush` ends when the atomics that its flush point drained have performed (15 R292).
Where the manual leaves a point open, log entries 8, 63 and 117 name the model's choice. -/
def Obligations.FencesAndClocks : Prop :=
  (∀ (s : State) (g k : Nat) (f : Acc), Stands s g f → f.kind = .fence → f.op = 0 → s.mayGo f = true → vcCovers (s.vcOf f.die) f.vc = true →
      f.owner = .thread k → (tget s.threads k).isSome = true → g ∈ (s.thread k).q.iq →
    let ended (t : State) : Prop := tget t.accs g = none ∧ (t.thread k).q.iq = (s.thread k).q.iq.filter (fun j => j ≠ g) ∧ t.mem = s.mem ∧ t.dies = s.dies ∧
      (t.thread k).regs = (s.thread k).regs ∧
      (f.ord = .sc ∨ f.vc ≠ [] → (t.thread k).q.low = max (s.thread k).q.low (s.die f.die).clock) ∧ (f.ord = .acq → f.vc = [] → (s.thread k).q.maxT ≤ (t.thread k).q.low) ∧
      (f.ord = .rel → f.vc = [] → (t.thread k).q.low = (s.thread k).q.low)
    (f.drains = false → ∃ t, exec (.fenceComplete g) s = .next t ∧ ended t ∧ t.hub = s.hub) ∧
    (f.drains = true → s.hub.token = none →
      ∃ t, exec (.packageDrain g) s = .next t ∧ t = { s with hub := { s.hub with token := some (g, s.vcOf f.die) } }) ∧
    (∀ vc, f.drains = true → s.hub.token = some (g, vc) → (∀ d, d < nDies → vcCovers (s.vcOf d) vc = true) →
      ∃ t, exec (.packageDrain g) s = .next t ∧ ended t ∧ t.hub = { s.hub with token := none })) ∧
  (∀ (s : State) (d l lev inst : Nat) (x : Launch),
    (d < nDies → ∃ t, exec (.dieClockTick d) s = .next t ∧ (t.die d).clock = (s.die d).clock + 1 ∧ (t.die d).cycles = (s.die d).cycles + 1 ∧
      (∀ e, e ≠ d → t.die e = s.die e) ∧ t.mem = s.mem ∧ t.accs = s.accs ∧ t.threads = s.threads ∧
      t.hub.time = (if d = 0 then s.hub.time + 1 else s.hub.time)) ∧
    (tget s.launches l = some x → x.det = true → s.draining l = [] → x.held = [] →
      (∀ w ∈ s.waits, s.flushed (s.instTeamsAll l lev inst) w = false) →
      (((2 ≤ lev ∧ lev ≤ x.top) ∨ lev = 8) → s.flushPoint l lev inst = true →
        ∃ t, exec (.detFlushDrain l lev inst) s = .next t ∧ t.mem = s.mem ∧ t.dies = s.dies ∧
          ∀ g a, tget s.accs g = some a → ∃ b, tget t.accs g = some b ∧ b = { a with drained := b.drained } ∧
            (a ∈ s.heldOf l lev inst → a.gid = g → b.drained = true)) ∧
      (x.stage = .admitted → (∀ tk ∈ s.teamsOf l, ∀ y, tget s.teams tk = some y → y.place = .ended) →
        ∃ t, exec (.kernelEndDrain l) s = .next t ∧ t.mem = s.mem ∧ t.dies = s.dies ∧
          ∀ g a, tget s.accs g = some a → ∃ b, tget t.accs g = some b ∧ b = { a with drained := b.drained } ∧
            (a.held = true → s.launchOfAcc a = l → b.drained = true))) ∧
    (∀ w, tget s.launches l = some x → x.det = true → x.teamLevel = lev → lev < 8 → s.waits.filter (s.flushed (s.instTeamsAll l lev inst)) = [w] →
      ∃ t, exec (.detFlushDrain l lev inst) s = .next t ∧ Resumes s t w ∧ t.accs = s.accs ∧ t.mem = s.mem))

/-! ### Completion of what instructions start -/

/-- R242, R10: a wave whose live threads wait at one cross-lane instruction executes it, and they are ready after it;
one whose threads wait at several PCs takes `XLANE_SPLIT`, and without a vector its threads park where they stand.
R258, R261: when every member has arrived at `gang`, the entry leaves the core's latch and the members' live threads
are ready after it. Where the manual leaves a point open, log entry 53 names the model's choice. -/
def Obligations.WavesAndGangsMeet : Prop :=
  (∀ (s : State) (wk : Nat) (m : Option ModW) (f : Alu) (g : AluI),
    (s.meets wk = true → s.halted wk = false → (s.liveOf wk).Pairwise (· < ·) →
      ∀ i ∈ ([.shfl m f, .shfli m g, .vote m g, .redu m g, .redmaxi m f, .scan m g, .cmpr m f, .expd m f, .slup m f, .sldn m f, .bcast m g, .wfind m f, .cvtMx m f, .mxsc m f] : List Instr),
        wordsInstr (s.meetWords wk).2 = some i →
        ∃ t, exec (.rendezvousExecute wk) s = .next t ∧
          exec i { s with sheaves := { core := s.coreOf (tkOfW wk), team := wk, pc := (s.meetWords wk).1, tids := [] } :: s.sheaves } = .next t ∧
          (∀ k ∈ s.liveOf wk, (t.thread k).stat = .ready ∧ (t.thread k).pc = afterPc (s.meetWords wk).1 (s.meetWords wk).2) ∧
          t.mem = s.mem ∧ t.sheaves = s.sheaves) ∧
    ((∀ k ∈ s.liveOf wk, (s.thread k).stat = .rendezvous ∧ (s.thread k).sup = false) →
      (∃ j ∈ s.liveOf wk, ∃ k ∈ s.liveOf wk, (s.thread j).pc ≠ (s.thread k).pc) →
      bitAt (s.trapRegs (tkOfW wk)).tvec.toNat 0 = false →
        ∃ t, exec (.xlaneSplit wk) s = .next t ∧ t.mem = s.mem ∧ (∀ k, k ∉ s.liveOf wk → t.thread k = s.thread k) ∧
          ∀ k ∈ s.liveOf wk, (t.thread k).stat = .parked ∧ (t.thread k).pc = (s.thread k).pc ∧
            ∃ p, (t.thread k).park = some p ∧ p.kind = 0x30 ∧ p.trap = true ∧ p.rpc = (s.thread k).pc)) ∧
  (∀ (s : State) (c i : Nat) (e : GangEntry) (m : Option ModW) (f : Mx), (s.core c).gangs[i]? = some e →
      wordsInstr e.words = some (.gang m f) → s.teamActive e.team = true → (∀ w ∈ gangWaves e.gang, w ∈ e.arrived) →
      (∀ w ∈ gangWaves e.gang, s.halted (32 * e.team + w) = false ∧ s.meetWords (32 * e.team + w) = (e.pc, e.words) ∧
        ∀ k ∈ s.liveOf (32 * e.team + w), (s.thread k).stat ≠ .parked) →
    ∃ t, exec (.gangLatchMeet c i) s = .next t ∧ t.mem = s.mem ∧
      (∀ w ∈ gangWaves e.gang, ∀ k ∈ s.liveOf (32 * e.team + w), (t.thread k).stat = .ready ∧ (t.thread k).pc = afterPc e.pc e.words ∧
        (t.thread k).regs = (s.thread k).regs) ∧
      (t.core c).gangs = (s.core c).gangs.eraseIdx i ∧
      (∀ x ∈ s.waits, x.what ≠ .latch → x ∈ t.waits))

/-- R265, R269, R276, Table 14-3: a station load reads its source at one time, writes the station's footprint and
clears BSY; the last K-group step of a product with plain operands adds its exact sum of products to every accumulator
of its tiles, rounds once, and frees tiles and pins; `mwait` ends when nothing of its wave is left. R279, R201, R202,
R193: a tile instruction ends when every write of its range is applied; a ring load binds its image, read at one time,
to its context when the image is valid, and takes that type from any other; so does an image that came from outside
the package (log 46). Where the manual leaves a point open, log entries 29, 50 and 51 name the model's choice. -/
def Obligations.MatrixAndTilesComplete : Prop :=
  (∀ (s : State) (c i : Nat),
    (∀ (x : StationLoad) (a : Acc) (els : List MxEl), s.stationLoads.find? (fun y => y.team = x.team && y.w = x.w) = some x → Stands s x.g a → a.kind = .load →
      (∀ p c n, a.owner ≠ .remote p c n) →
      (∀ k ∈ s.liveOf x.wk, (s.thread k).stat ≠ .parked) → s.sharedReady a = true → s.lineStall a.lines x.g = false → s.snoopsOf a.lines false = [] →
      s.mem.reduce = [] → s.readEls a.die x.page x.elems = .ok els → (tget s.teams x.team).isSome = true → x.w < 8 →
      memWf (s.core (s.coreOf x.team)).sp = true → (s.core (s.coreOf x.team)).bankTeam = some x.team →
      let d := s.station x.team x.w
      ∃ t, exec (.stationLoadComplete x.team x.w) s = .next t ∧ t.station x.team x.w = stReady d ∧
        (∀ y, t.spByte x.team y = (cellGet (stCells d els) y).getD (s.spByte x.team y)) ∧ t.stationLoads = s.stationLoads.erase x ∧
        tget t.accs x.g = none ∧ ∀ w, w < 8 → w ≠ x.w → t.station x.team w = s.station x.team w) ∧
    (∀ (p : Product) (x : MxPart), (s.core c).products[i]? = some p → p.parts = [x] → p.read = true → p.steps = p.step + 1 → x.regs = false → x.tr = false →
      s.teamActive p.team = true → (s.core c).bankTeam = some p.team → s.coreOf p.team = c → (s.core c).swapping = 0 →
      (∀ w ∈ p.waves, s.halted w = false) → x.cols ≤ 128 →
      let d := s.station p.team p.station
      let ks := (upto x.kg).map (· + p.step * x.kg) |>.filter (· < x.len)
      let prods (r j : Nat) : List Val := ks.map (fun k =>
        mxProd x.page.fmt x.page.blk ((x.rows.getD r []).getD k { code := 0 }) (stFmt d) (stBlk d) (s.stElem p.team d (x.ko + k) (x.no + j)))
      let key (r j : Nat) : Nat := accKey (x.tile + r / 32) (r % 32) j
      let acc (t : State) (n : Nat) : W32 := tgetD (t.core c).acc n 0
      ∃ t, exec (.productComplete c i) s = .next t ∧ t.mem = s.mem ∧ (t.core c).products = (s.core c).products.eraseIdx i ∧
        (∀ r j, r < 32 * p.waves.length → j < x.cols → acc t (key r j) = BitVec.ofNat 32
          (accum p.mode (if p.mode = 5 then srRand p.hkey p.hctr p.tid40 3 (p.step % 2 ^ 16) (key r j) else 0)
            (acc s (key r j)).toNat (exactSum (prods r j)) (prods r j)).1) ∧
        (∀ n, (∀ r j, r < 32 * p.waves.length → j < x.cols → n ≠ key r j) → acc t n = acc s n) ∧
        ∀ w ∈ p.waves, (t.wave w).mprog = 0 ∧ (t.wave w).s = (s.wave w).s) ∧
    (∀ w, s.waits[i]? = some w → w.what = .mwait → s.mwaitDone w.wk = true →
      ∃ t, exec (.mwaitComplete i) s = .next t ∧ Resumes s t w ∧ t.waits = s.waits.erase w ∧ t.mem = s.mem)) ∧
  (∀ (s : State) (i : Nat),
    (∀ w gs, s.waits[i]? = some w → w.what = .tiles gs → (∀ g ∈ gs, tget s.accs g = none) →
      ∃ t, exec (.tileRangeComplete i) s = .next t ∧ Resumes s t w ∧ t.waits = s.waits.erase w ∧ t.mem = s.mem) ∧
    (∀ (r : RingLoad) (x : Team), s.ringLoads[i]? = some r → tget s.teams r.team = some x → r.ctx < 4 →
      let binds (e : Instr) (b : List W8) : Prop := ringOk r.ty (b.take (skImage r.ty)) = true →
        ∃ t, exec e s = .next t ∧ t.ringLoads = s.ringLoads.eraseIdx i ∧ (∀ g ∈ r.far, tget t.accs g = none) ∧
          (r.far = [] → tget t.accs r.g = none) ∧ ∃ y, tget t.teams r.team = some y ∧
          y.rings[r.ctx]? = some { image := b.take (skImage r.ty), bound := r.ty } ∧ y = { x with rings := y.rings } ∧
          (∀ j, j < 4 → j ≠ r.ctx → ∃ z, y.rings[j]? = some z ∧ z.image = (x.rings.getD j {}).image ∧
            z.bound = if (x.rings.getD j {}).bound = r.ty then 0 else (x.rings.getD j {}).bound) ∧
          (∀ k, (t.thread k).regs = (s.thread k).regs)
      (∀ (a : Acc) (back : Nat), r.far = [] → Stands s r.g a → a.kind = .load → (∀ p c n, a.owner ≠ .remote p c n) →
        s.sharedReady a = true → s.lineStall a.lines r.g = false → s.snoopsOf a.lines false = [] → s.mem.reduce = [] →
        let own := if a.page.cc = 2 then [] else s.ownStores a.owner a.target ++ s.pathStores a
        binds (.ringContextBind ⟨i, back⟩) (r.pa.flatMap (fun pa => (upto 256).map (fun k => s.rawByte own r.die (s.loadTime a back) (pa + k))))) ∧
      (∀ (b : List W8) (back : Nat), r.far ≠ [] → s.blocks r.far = some (.ok b) → binds (.ringContextBind ⟨i, back⟩) b)))

/-- R283, R284, R354, R355, 07 R139: an arrival counts once its implied fences have completed. At `bar` it counts at
its core, and the team's own arrival, when the team is complete, in the table of its die, whose node counts the
complete teams there; at `barw` it joins the phase in progress, which ends at the count. R283, R284, R354: a `bar` at
which every live thread of its instance has arrived, and a `barw` whose phase has ended, release their threads, whose
F is then at least the die clock, and free the barrier's entries; the release that the barrier's domain node sends
does the same here. R285: when every live thread of an instance waits at a barrier that can never complete, each takes
`BAR_SPLIT`; without a vector it parks at its barrier. Where the manual leaves a point open, log entries 67 and 119
name the model's choice. -/
def Obligations.Barriers : Prop :=
  (∀ (s : State) (i : Nat) (w : Wait) (x : Launch) (y : Team), s.waits[i]? = some w → w.spill = false → w.arr = 0 →
      s.fencesDone w = true → s.launchOf (tkOfW w.wk) = some x → tget s.teams (tkOfW w.wk) = some y →
    let counted : State := { s with waits := s.waits.map (fun v => if v = w then { w with arr := 1 } else v) }
    (∀ k id, w.what = .bar k id →
      (k ≤ x.teamLevel ∨ ∃ j ∈ s.teamLive (tkOfW w.wk), j ∉ w.tids ∧ ∀ v ∈ s.waits, v.atBar k id = true → v.arr ≠ 0 → j ∉ v.tids) →
      exec (.barrierRelease i) s = .next counted) ∧
    (∀ k id, w.what = .bar k id → x.teamLevel < k → x.dom k < 4 → y.die < nDies → tget s.launches y.launch = some x →
      let inst := s.instOf k w.wk
      let gid := gidOf x.num k id false inst
      let teams := s.instTeams y.launch k inst y.die
      (∀ d, d ≠ y.die → s.instTeams y.launch k inst d = [] ∧ s.btFind d gid 0 = none) → tkOfW w.wk ∈ teams → s.teamLive (tkOfW w.wk) ≠ [] →
      (∀ j ∈ s.teamLive (tkOfW w.wk), counted.hasArrived k id 1 j = true) →
      ((s.btFind y.die gid 0).isSome = true ∨ ((gid, 0) ∉ (s.die y.die).btOut ∧ (s.die y.die).bt.length < 4096)) →
      ∃ t, exec (.barrierRelease i) s = .next t ∧ t.mem = s.mem ∧ t.threads = s.threads ∧ (∀ d, d ≠ y.die → t.die d = s.die d) ∧
        ∃ e, t.btFind y.die gid 0 = some e ∧ e.expected = teams.length ∧
          e.arrived = (teams.filter (fun tk => t.teamAtBar tk k id 2)).length ∧ t.teamAtBar (tkOfW w.wk) k id 2 = true) ∧
    (∀ id n ph k e, w.what = .barw id n ph → w.tids = [k] → s.btFind y.die (gidOf x.num x.teamLevel id true y.idx) 0 = some e → e.arrived < n →
      ∃ t, exec (.barrierRelease i) s = .next t ∧ t.mem = s.mem ∧ t.threads = s.threads ∧
        t.waits = s.waits.filter (· ≠ w) ++ [{ w with what := .barw id n e.phase, arr := 1 }] ∧
        ∃ z, t.btFind y.die (gidOf x.num x.teamLevel id true y.idx) 0 = some z ∧ z.expected = n ∧
          (if e.arrived + 1 = n then z.arrived = 0 ∧ z.phase = e.phase + 1 else z.arrived = e.arrived + 1 ∧ z.phase = e.phase))) ∧
  (∀ (s : State) (i : Nat) (w : Wait) (x : Launch) (y : Team), s.waits[i]? = some w → s.arriving w = false →
      s.launchOf (tkOfW w.wk) = some x → tget s.teams (tkOfW w.wk) = some y → (∀ k, ((s.waits.flatMap (·.tids)).filter (· = k)).length ≤ 1) →
    let left (t : State) (v : Wait) : Prop := ∀ k ∈ v.tids, (s.thread k).stat = .waiting →
      (t.thread k).stat = .ready ∧ (t.thread k).pc = v.next ∧ (t.thread k).regs = (s.thread k).regs ∧
      (s.die (s.dieOfTeam (tkOfW v.wk))).clock ≤ (t.thread k).q.low
    (∀ k id, w.what = .bar k id → s.barMet y.launch k id (s.instOf k w.wk) = true →
      tget s.bars (gidOf x.num k id false (s.instOf k w.wk)).toNat = none →
      ∃ t, exec (.barrierRelease i) s = .next t ∧ t.mem = s.mem ∧
        (∀ v ∈ s.waits, v.atBar k id = true → (∃ j ∈ s.instThreads y.launch k (s.instOf k w.wk), j ∈ v.tids) → left t v ∧ v ∉ t.waits) ∧
        (∀ v ∈ s.waits, v.atBar k id = false → v ∈ t.waits) ∧
        (∀ d, d < nDies → ∀ e ∈ (t.die d).bt, e.gid ≠ gidOf x.num k id false (s.instOf k w.wk)) ∧
        ∀ f, flitOk f 0x11 = true → BitVec.ofNat 64 (fhdr f).ops = gidOf x.num k id false (s.instOf k w.wk) →
          (∀ j v, j < i → s.waits[j]? = some v → s.waitGid v ≠ some (gidOf x.num k id false (s.instOf k w.wk))) → exec (.fabricBarrierRelease f) s = .next t) ∧
    (∀ id n ph e, w.what = .barw id n ph → n ≠ 0 → s.btFind y.die (gidOf x.num x.teamLevel id true y.idx) 0 = some e → ph < e.phase →
      ∃ t, exec (.barrierRelease i) s = .next t ∧ t.mem = s.mem ∧ left t w ∧ w ∉ t.waits)) ∧
  (∀ (s : State) (l lev inst : Nat), 1 ≤ lev → lev ≤ 7 → s.instStarted l lev inst = true →
    let live := (s.instThreads l lev inst).filter (fun t => !s.exited t)
    let bs := ((s.waits.filter (fun w => match tget s.teams (tkOfW w.wk) with | some t => t.launch = l | none => false)).filterMap s.barKey).eraseDups
    live ≠ [] → (∀ k ∈ live, (s.thread k).sup = false ∧ bitAt (s.trapRegs (tkOf k)).tvec.toNat 0 = false ∧
      ∃ b, s.barOf k = some b ∧ b ∉ s.liveBars l bs bs.length) →
      ∃ t, exec (.barSplit l lev inst) s = .next t ∧ t.mem = s.mem ∧ (∀ k, k ∉ live → (t.thread k).regs = (s.thread k).regs ∧ (t.thread k).stat = (s.thread k).stat) ∧
        ∀ k ∈ live, (t.thread k).stat = .parked ∧ ∃ p, (t.thread k).park = some p ∧ p.kind = 0x32 ∧ p.trap = true)

/-- R289 to R291, R138, R353: `waitseq` ends when its word reaches the threshold or has bit 63, or its limit passes,
and writes the word, which may have come from outside the package (log 46); `waitwp` when the channel's `wp` reaches
the threshold, and writes it; `wlquiet` with 0 when its list has an item and with 1 when its launch is quiescent.
Where the manual leaves a point open, log entry 66 names the model's choice. -/
def Obligations.WaitsEnd : Prop := ∀ (s : State) (i back : Nat) (w : Wait) (wv : Wave), s.waits[i]? = some w → tget s.waves w.wk = some wv →
    (∀ k ∈ w.tids, wkOf k = w.wk) → w.tids ≠ [] →
  let writes (t : State) (n : Nat) (v : W64) : Prop := tget (t.wave w.wk).s n = some v ∧ ∀ j, j ≠ n → tget (t.wave w.wk).s j = tget wv.s j
  (∀ va sb thr left b, w.what = .waitseq va sb thr left → w.fences ≠ [] → s.blocks w.fences = some (.ok b) →
    (bits thr.toNat 62 0 ≤ bits (bytesNat b) 62 0 ∨ bitAt (bytesNat b) 63 = true ∨ left = some 0) →
    ∃ t, exec (if left = some 0 then .waitseqTimeout i else .waitseqComplete i back) s = .next t ∧ Resumes s t w ∧
      writes t sb (BitVec.ofNat 64 (bytesNat b)) ∧ t.waits = s.waits.erase w) ∧
  (∀ va sb thr left p v T s1, w.what = .waitseq va sb thr left → w.fences = [] → s.seqWord w va.toNat (if left = some 0 then 0 else back) = some (.ok (p, v, T), s1) →
    ((bits thr.toNat 62 0 ≤ bits v 62 0 ∨ bitAt v 63 = true) → left ≠ some 0 →
      ∃ t, exec (.waitseqComplete i back) s = .next t ∧ Resumes s t w ∧ writes t sb (BitVec.ofNat 64 v) ∧ t.waits = s.waits.erase w) ∧
    (left = some 0 → ∃ t, exec (.waitseqTimeout i) s = .next t ∧ Resumes s t w ∧ writes t sb (BitVec.ofNat 64 v) ∧ t.waits = s.waits.erase w)) ∧
  (∀ die chan thr sa, w.what = .waitwp die chan thr sa →
    let wp := tgetD (s.die die).ccwp chan 0
    (bits thr.toNat 56 0 ≤ bits wp.toNat 56 0 ∨ (s.engine (32 * die + chan)).idle = true) →
    vcCovers (s.vcOf (s.dieOfTeam (tkOfW w.wk))) (s.engine (32 * die + chan)).wpVc = true →
    ∃ t, exec (.waitwpComplete i) s = .next t ∧ Resumes s t w ∧ writes t sa wp ∧ t.mem = s.mem ∧ t.waits = s.waits.erase w) ∧
  (∀ n sa l, w.what = .wlquiet n sa → s.launchOf (tkOfW w.wk) = some l → l.items n ≠ [] →
    ∃ t, exec (.wlquietWake i) s = .next t ∧ Resumes s t w ∧ writes t sa 0 ∧ t.mem = s.mem ∧ t.waits = s.waits.erase w) ∧
  (∀ n sa l x y, w.what = .wlquiet n sa → tget s.teams (tkOfW w.wk) = some y → y.launch = l → tget s.launches l = some x → s.waits = [w] →
    s.quiescent l x = true → vcCovers (s.vcOf (s.dieOfTeam (tkOfW w.wk))) x.pushed = true →
    ∃ t, exec (.quiescence l) s = .next t ∧ Resumes s t w ∧ writes t sa 1 ∧ t.mem = s.mem ∧ t.waits = [])

/-! ### Engines, streams and collectives -/

/-- R137, R293, R294, R321: an idle copy, gather or top-k engine takes the oldest entry of the next chain that has
one, once its die has applied what the append released; an entry that breaks the rules of its kind gets STATUS 4 and
no output; else its output lines are owned from here; a copy channel's `wp` starts at its destination's line. A header
that cannot be read stops the entry with STATUS 1 (R297). R137, R256, 17 R321: a copy channel or a stream releases its
next line of package memory: home takes its bytes, and the lines left stay owned; a copy's `wp` goes past it. A write
to another package is sent whole, and `wp` goes past it when it is acknowledged (log 46). R297, R138: an entry whose
lines are written and applied ends: the engine is free, and its completion word gets SEQ, with bit 63 where STATUS is
not 0; one that a fault stopped leaves its record on its die. A gather, collective or top-k entry first releases every
line. Where the manual leaves a point open, log entries 68, 69, 70, 71 and 75 name the model's choice. -/
def Obligations.EnginesRun : Prop :=
  (∀ (s : State) (e back : Nat) (c : Chain) (entry : Va) (vc : List Nat) (chains : List Chain) (cw : W64) (sc : State),
      (s.engine e).pick = some (c, entry, vc, chains) → (s.engine e).job = none → s.hub.fatal = false → vcCovers (s.vcOf (engDie e)) vc = true →
      (∀ g a, (g, a) ∈ s.accs → a.owner ≠ .engine e) → (engKind e < 2 ∨ engKind e = 3) → s.chainCw (engDie e) c.asid c.cb = (.ok cw, sc) →
    let starts (ok : State → Job → Prop) : Prop := ∃ t, exec (.engineEntryStart ⟨e, back⟩) s = .next t ∧ (t.engine e).chains = chains ∧
      ∃ j, (t.engine e).job = some j ∧ j.entry = entry ∧ j.chain = c.cb.toNat ∧ j.asid = c.asid ∧ j.vf = c.vf ∧ j.kind = engKind e ∧ j.cw = cw ∧
        j.noCw = false ∧ ok t j
    (∀ (h0 b : Got) (s1 : State), Quiet s → sc.devRead (engDie e) c.asid entry.toNat 32 = (.ok h0, s1) →
      (s1.devRead (engDie e) c.asid entry.toNat (64 * (at' h0.bytes 8 8 / 2 ^ 8 % 16 + 1))).1 = .ok b →
      let rd := entryRd b.bytes
      starts (fun t j => j.seq = BitVec.ofNat 64 (at' h0.bytes 16 8 % 2 ^ 63) ∧ j.owned = ownedBy j.out ∧
        (entryOk (engKind e) rd = false → j.status = 4 ∧ j.out = [] ∧ j.faulted = none) ∧
        (j.faulted ≠ none → j.status = 1) ∧
        (engKind e = 0 → tget (t.die (engDie e)).ccwp (engUnit e) = some (BitVec.ofNat 64 (rd 0x28 % 2 ^ 57 / 128 * 128))) ∧
        ∀ d x, t.viewByte d x = s.viewByte d x)) ∧
    (∀ k, (sc.devRead (engDie e) c.asid entry.toNat 32).1 = .error k →
      starts (fun _ j => j.seq = 0 ∧ j.out = [] ∧ j.owned = [] ∧ j.status = 1 ∧ j.faulted = some (entryRec k c.asid entry.toNat c.vf)))) ∧
  (∀ (s : State) (j : Job) (o : OutLine) (r : List OutLine) (h : Nat), s.hub.fatal = false → j.out = o :: r →
    let here : Prop := o.target = .pkg h ∧ o.mats = [] ∧ s.queuesOpen h = true ∧ s.mem.reduce = [] ∧ Memory.wf s.mem = true
    (∀ e, e < 128 → (s.engine e).job = some j → j.kind = 0 →
      let wp (t : State) : Prop := tget (t.die (engDie e)).ccwp (engUnit e) = some (BitVec.ofNat 64 (o.wp % 2 ^ 57))
      let left (t : State) (l : List OutLine) : Prop := ∃ k, (t.engine e).job = some k ∧ k.out = l ∧ k.owned = (if o.target = .pkg h then ownedBy r else j.owned) ∧
        k.entry = j.entry ∧ k.status = j.status
      (here → ∃ t, exec (.engineLineRelease e) s = .next t ∧ Stores s t o.cells o.page.pte ∧ wp t ∧ left t r) ∧
      (∀ q, o.target = .other q →
        (o.sent = false → ∃ t, exec (.engineLineRelease e) s = .next t ∧ t.mem = s.mem ∧ left t ({ o with sent := true } :: r) ∧
          ∃ g a, Stands t g a ∧ a.owner = .engine e ∧ a.kind = .store ∧ a.target = .other q ∧ a.op = o.op ∧ a.bad = o.bad ∧
            a.va = BitVec.ofNat 57 o.va ∧ a.cells = cellsAt o.va (o.cells.map (·.2))) ∧
        (o.sent = true → (∀ x ∈ s.accs, x.2.owner ≠ .engine e) →
          ∃ t, exec (.engineLineRelease e) s = .next t ∧ t.mem = s.mem ∧ wp t ∧ left t r))) ∧
    (∀ i x, here → s.streams[i]? = some x → x.job = some j →
      ∃ t, exec (.engineLineRelease (128 + i)) s = .next t ∧ Stores s t o.cells o.page.pte ∧ t.engines = s.engines ∧
        ∃ k, t.streams[i]? = some { x with job := some k } ∧ k.out = r ∧ k.owned = ownedBy r ∧ k.flags = j.flags)) ∧
  (∀ (s : State) (e : Nat) (j : Job) (u : State), (s.engine e).job = some j → s.hub.fatal = false → e < 128 →
      Memory.wf s.mem = true → s.mem.reduce = [] →
    let va := j.cw.toNat % 2 ^ 57
    let s0 (r : List FaultRec) : State := (r.foldl (fun s x => s.queueFault (engDie e) x) s).modEngine e (fun x => { x with job := none })
    let ended (t : State) : Prop := (t.engine e).job = none ∧ (t.engine e).chains = (s.engine e).chains ∧
      ((∃ c ∈ (s.engine e).chains, c.cb.toNat = j.chain ∧ c.asid = j.asid ∧ c.next ≠ []) → j.noCw = false → ∀ d p, Plainly u j.asid va d p →
        Holds t p va 8 (j.seq.toNat % 2 ^ 63 + (if j.status = 0 then 0 else 2 ^ 63)))
    (j.faulted = none → j.out = [] → (j.kind = 2 → j.status = 0 → bitAt j.flags.toNat 0 = true) → s.jobDone e j = true → Quiet s →
      (s0 []).devWrite (.engine e) (engDie e) j.asid ((j.entry.toNat + 0x18) % 2 ^ 57) (natBytes j.status 8) = (none, u) →
      ∃ t, exec (.engineEntryComplete e) s = .next t ∧ ended t) ∧
    (∀ r, j.faulted = some r → s.jobDone e j = true → Quiet s →
      (s0 [r]).devWrite (.engine e) (engDie e) j.asid ((j.entry.toNat + 0x18) % 2 ^ 57) (natBytes j.status 8) = (none, u) →
      ∃ t, exec (.engineFault e) s = .next t ∧ ended t ∧ r ∈ (t.die (engDie e)).faults) ∧
    (j.faulted = none → j.out ≠ [] → j.kind ≠ 0 → (j.kind = 2 → j.status = 0 → bitAt j.flags.toNat 0 = true) →
      ∃ t, exec (.engineEntryComplete e) s = .next t ∧ ∃ k, (t.engine e).job = some k ∧ k.out = [] ∧ k.owned = [] ∧ k.status = j.status))

/-- R420, R421: the entries of one turn of a group are paired when every rank's data has come: each local rank goes on
to its end, with STATUS 4 and no output where the ranks' parameters differ. R253 to R256: a stream starts once its
wave's earlier accesses have performed; a descriptor that breaks 13 R255 makes it end with the error status and no
output. A stream whose lines are written ends: its flags go to lane 0 of its wave, or are lost when the wave has
ended, and its completion word, if any, gets CV, with bit 63 for an error; a fault leaves its record. Where the manual
leaves a point open, log entries 14, 72, 73 and 79 name the model's choice. -/
def Obligations.StreamsAndCollectives : Prop :=
  (∀ (s : State) (d0 : Nat) (j : Job) (d : CPar × List W8 × Bool) (r : List (CPar × List W8 × Bool)),
      let mine (k : Job) : Prop := k.kind = 2 ∧ k.grp = j.grp ∧ k.status = 0 ∧ k.faulted = none ∧ k.flags = 0
      d0 < nDies → (s.engine (collEng d0)).job = some j → mine j → s.hub.fatal = false →
      (∀ e k, e < nDies → (s.engine (collEng e)).job = some k → mine k → k.turn = j.turn ∧ k.body = j.body) →
      s.rankData j.grp j.turn (cjob j.body).ranks = some (d :: r) →
    ∃ t, exec (.collectiveMatch j.grp.toNat) s = .next t ∧
      ∀ x ∈ (cjob j.body).ranks, rankPkg x = s.hub.fabId.toNat → ∃ k k0, (s.engine (collEng (rankDie x))).job = some k0 ∧
        (t.engine (collEng (rankDie x))).job = some k ∧ k.flags = 1 ∧ k.entry = k0.entry ∧
        ((∃ y ∈ r, y.1 ≠ d.1) → k.status = 4 ∧ k.out = [] ∧ k.owned = [])) ∧
  (∀ (s : State) (i : Nat) (x : StreamJob), s.streams[i]? = some x → s.hub.fatal = false → Quiet s →
    (∀ (g : Got), x.job = none → (∀ g ∈ x.gates, ∀ f, tget s.accs g = some f → s.mayGo f = true) →
      (s.devRead x.die x.asid x.desc.toNat (0x20 + 16 * x.k)).1 = .ok g →
      ∃ t, exec (.streamStart i) s = .next t ∧ ∃ j, t.streams[i]? = some { x with job := some j, gates := [] } ∧ j.owned = ownedBy j.out ∧
        ((x.desc.toNat % 32 ≠ 0 ∨ streamBad x g.bytes = true) → j.status = 4 ∧ j.out = [] ∧ j.faulted = none) ∧
        j.cw = BitVec.ofNat 64 (at' g.bytes 8 8) ∧ j.seq = BitVec.ofNat 64 (at' g.bytes 16 8)) ∧
    (∀ k, x.job = none → (∀ g ∈ x.gates, ∀ f, tget s.accs g = some f → s.mayGo f = true) →
      (s.devRead x.die x.asid x.desc.toNat (0x20 + 16 * x.k)).1 = .error k →
      ∃ t, exec (.streamStart i) s = .next t ∧ ∃ j, t.streams[i]? = some { x with job := some j, gates := [] } ∧ j.out = [] ∧ j.owned = [] ∧
        j.status = 1 ∧ j.faulted = some (entryRec k x.asid x.desc.toNat x.vf)) ∧
    (∀ j, x.job = some j → j.out = [] → vcCovers (s.vcOf x.die) j.vc = true → Memory.wf s.mem = true → s.mem.reduce = [] →
      let va := j.cw.toNat % 2 ^ 57
      let v := j.seq.toNat % 2 ^ 63 + (if j.status = 0 then 0 else 2 ^ 63)
      let ended (t : State) : Prop := t.streams = s.streams.eraseIdx i ∧
        (j.cw ≠ 0 → va % 8 = 0 → ∀ d p, Plainly s x.asid va d p → Holds t p va 8 v) ∧ (j.cw = 0 → t.mem = s.mem)
      (j.faulted = none → ∃ t, exec (.streamComplete i) s = .next t ∧ ended t ∧
        (j.status = 0 → (tget s.threads x.flagTid).isSome = true → (t.thread x.flagTid).fcr =
          if s.liveOf (wkOf x.flagTid) = [] then (s.thread x.flagTid).fcr else (s.thread x.flagTid).fcr ||| j.flags)) ∧
      (∀ r, j.faulted = some r → j.status ≠ 0 → ∃ t, exec (.streamFault i) s = .next t ∧ ended t ∧ r ∈ (t.die x.die).faults ∧ t.threads = s.threads)))

/-! ### Launches and the scheduler -/

/-- R338, R339: an enabled host queue takes its next slot and makes one launch of it, in its function and address
space; a slot that breaks the rules completes with STATUS 4. The tail word is read again when its line is invalidated,
and a tail too far ahead stops the queue with code 1. R340 to R342: a taken launch whose dependence word has reached
WAITV becomes eligible, and one whose word has bit 63 is rejected with code 8; a word outside the package is asked
for, and its answer decides in the same way; the first of its function that is eligible is admitted on its die, with a
number that no launch admitted there has, and all its teams wait there. How the word outside is asked for is the
model's choice (log entry 46). R336: a launch whose teams have all ended, with every access performed and nothing
held, completes; then its completion is told to its source, and the launch and its teams are gone; what its threads
held last stands (16 R304, 19 R360). Where the manual leaves a point open, log entries 13, 76, 77 and 78 name the
model's choice. -/
def Obligations.LaunchesRun : Prop :=
  (∀ (s : State) (v q : Nat) (g : Got) (tail : W64), (s.queue v q).en = true → (s.queue v q).err = false → Quiet s →
      s.mem.reduce = [] → (∀ d, (s.die d).aq.length < 2000) → s.hub.fatal = false →
    let h := s.queue v q
    let va := h.tail.toNat % 2 ^ 57
    let rd := entryRd g.bytes
    let kind := rd 8 % 16
    let seq := BitVec.ofNat 64 (rd 0x10 % 2 ^ 63)
    let saw (t : State) (x : W64) : Prop := (t.queue v q).seen = x ∧ (t.queue v q).head = h.head ∧
      (h.size.toNat % 2 ^ 17 < (x - h.head).toNat → (t.queue v q).err = true ∧ (t.queue v q).ecode = 1) ∧
      ((x - h.head).toNat ≤ h.size.toNat % 2 ^ 17 → (t.queue v q).err = false)
    (h.head ≠ h.seen → s.serves = true → vcCovers (s.vcOf 0) h.rel = true → (s.devRead 0 h.asid.toNat (h.slotVa h.head.toNat) 64).1 = .ok g →
      ∃ t, exec (.hostQueueSlotTake v q) s = .next t ∧ (t.queue v q).head = h.head + 1 ∧ (t.queue v q).done = h.done ++ [(h.head.toNat, seq, 0, false)] ∧
        ∃ k l, s.next ≤ k ∧ tget t.launches k = some l ∧ l.src = .slot v q h.head.toNat seq ∧ l.vf = v ∧ l.asid = h.asid.toNat ∧
          l.record = BitVec.ofNat 57 (rd 0x20) ∧
          (((kind ≠ 4 ∧ kind ≠ 5) ∨ entryOk kind rd = false) → l.stage = .complete ∧ l.status = 4) ∧ l.stage ≠ .admitted) ∧
    (s.vaTarget h.asid.toNat va = .ok .host →
      ∃ t, exec (.tailLineInvalidate v q tail) s = .next t ∧ saw t tail ∧ t.out = s.out ++ [.host 0 "RdShared" (va % 2 ^ 44) [] false] ∧ t.mem = s.mem) ∧
    (∀ d, va % 8 = 0 → s.vaTarget h.asid.toNat va = .ok (.pkg d) → (s.devRead d h.asid.toNat va 8).1 = .ok g →
      ∃ t, exec (.tailLineInvalidate v q tail) s = .next t ∧ saw t (BitVec.ofNat 64 (at' g.bytes 0 8)) ∧ t.out = s.out)) ∧
  (∀ (s : State) (l d : Nat) (x : Launch) (g : Got), tget s.launches l = some x → s.hub.fatal = false →
    let va := x.wait.toNat % 2 ^ 57
    let decided (w : Nat) : Prop :=
      (w / 2 ^ 63 % 2 = 0 → x.waitv.toNat % 2 ^ 63 ≤ w → ∃ t, exec (.launchEligible l) s = .next t ∧ ∃ y, tget t.launches l = some y ∧
        y = { x with stage := .eligible, since := y.since, rel := y.rel, waitAcc := none } ∧ t.teams = s.teams) ∧
      (w / 2 ^ 63 % 2 = 1 → ∃ t, exec (.launchEligible l) s = .next t ∧ ∃ y, tget t.launches l = some y ∧
        y = { x with stage := .complete, status := 4, reason := 8, waitAcc := none } ∧ t.teams = s.teams)
    (∀ e, x.stage = .taken → x.waitAcc = none → Quiet s → va % 8 = 0 → s.vaTarget x.asid va = .ok (.pkg e) → (s.devRead x.die x.asid va 8).1 = .ok g →
      decided (at' g.bytes 0 8)) ∧
    (∀ w, x.stage = .taken → va % 8 = 0 → s.vaTarget x.asid va = .ok w → (∀ e, w ≠ .pkg e) →
      (x.waitAcc = none → ∃ t, exec (.launchEligible l) s = .next t ∧ ∃ k a, tget t.launches l = some { x with waitAcc := some k } ∧ tget t.accs k = some a ∧ k = s.next ∧
        a.kind = .load ∧ a.owner = .host ∧ a.die = x.die ∧ a.asid = x.asid ∧ a.va.toNat = va ∧ a.target = w ∧ a.elem.width = 64 ∧
        a.block = true ∧ t.teams = s.teams ∧ t.mem = s.mem) ∧
      ∀ k b, x.waitAcc = some k → s.blocks [k] = some (.ok b) → Quiet s → decided (bytesNat b)) ∧
    (x.stage = .eligible → d < nDies → (∀ a, s.affDie x = some a → a = d) → s.vfDie x.vf d = true → s.admitFirst l x = false →
      (s.die d).admitted.length < 256 → s.writeStall (s.wlLines x) s.next = false → (∀ k, s.next ≤ k → tget s.teams k = none) →
      ∃ t, exec (.launchAdmission l d) s = .next t ∧ t.mem = s.mem ∧ l ∈ (t.die d).admitted ∧
        (∃ y, tget t.launches l = some y ∧ y.stage = .admitted ∧ y.adie = d ∧ y.team0 = s.next ∧ y.teams = x.teamCount ∧ y.lists.length = x.wln ∧
          (∀ e, e ∈ y.lists → e = []) ∧ ∀ k z, tget s.launches k = some z → k ∈ (s.die d).admitted → z.num ≠ y.num) ∧
        ∀ i, i < x.teamCount → ∃ y, tget t.teams (s.next + i) = some y ∧ y.launch = l ∧ y.idx = i ∧ y.place = .waiting ∧ y.started = false ∧
          y.waves = x.teamWaves ∧ y.spb = x.spb ∧ y.acc = x.accTiles ∧ y.die = s.teamDie x d i ∧ y.asid = x.asid ∧ y.vf = x.vf)) ∧
  (∀ (s : State) (l : Nat) (x : Launch), tget s.launches l = some x → s.hub.fatal = false →
    (x.stage = .admitted → s.launchOver l x = true → (∀ d, d < nDies → s.queuesOpen d = true) → x.wln = 0 →
      ∃ t, exec (.launchComplete l) s = .next t ∧ t.mem = s.mem ∧ ∃ y, tget t.launches l = some y ∧
        y = { x with stage := .complete, owned := [], rel := y.rel }) ∧
    (x.stage = .complete → vcCovers (s.vcOf x.die) x.rel = true → Quiet s →
      ∃ t, exec (.launchComplete l) s = .next t ∧ tget t.launches l = none ∧ (∀ tk ∈ s.teamsOf l, tget t.teams tk = none) ∧
        (∀ k, k ≠ l → tget t.launches k = tget s.launches k) ∧ l ∉ (t.die x.adie).admitted ∧
        ∀ k, t.thread k = s.thread k))

/-- R335, R342 to R345, R370, R402, 01 R13, R17: a waiting team that comes first is placed on a core of its die, or in
its loft, with a frame, and a near-memory block on a free sequencer of its stack; one that has not started then has
its threads at the launch's PC with every register unwritten, and the arguments in s0 to s15. Where the manual leaves
a point open, log entries 5 and 87 name the model's choice. -/
def Obligations.TeamsArePlaced : Prop := ∀ (s : State) (tk c frame : Nat) (x : Team) (l : Launch) (p : Page), tget s.teams tk = some x → s.launchOf tk = some l →
    s.frameOk tk frame = true → s.teamAcquired tk = true → s.hub.fatal = false → x.waves ≤ 32 →
  let placed (t : State) (pl : Place) : Prop := (∃ y, tget t.teams tk = some y ∧ y.core = some c ∧ y.place = pl ∧ y.frame = some frame ∧ y.started = true ∧
      y.launch = x.launch ∧ y.idx = x.idx ∧ y.waves = x.waves) ∧ ((∀ a, x.core = some a → a ≠ c → (s.core a).bankTeam ≠ some tk) → t.mem = s.mem) ∧
    (∀ k, k ≠ tk → tget t.teams k = tget s.teams k) ∧
    (∀ k, tkOf k ≠ tk → tget t.threads k = tget s.threads k) ∧
    (x.started = true → ∀ k, tkOf k = tk → tget t.threads k = tget s.threads k) ∧
    (x.started = false → (∀ i, i < 32 * x.waves → ∃ th, tget t.threads (1024 * tk + i) = some th ∧ th.pc = l.pc ∧ th.regs = [] ∧ th.stat = .ready ∧
        th.p = 0 ∧ th.fcr = 0 ∧ th.sup = false) ∧
      ∀ w n, w < x.waves → n < 16 → tget (t.wave (32 * tk + w)).s n = some (l.arg n))
  (s.mayPlace tk c .active = true → s.placeFirst tk c .active = false → (s.core c).swapping = 0 →
    ∃ t, exec (.teamPlacement tk c frame) s = .next t ∧ placed t .active) ∧
  (s.mayPlace tk c .loft = true → s.placeFirst tk c .loft = false → s.teamsAt c .leaving = [] →
    ∃ t, exec (.gleanerFill c tk frame) s = .next t ∧ placed t .loft) ∧
  (l.nm = true → l.stopped = false → l.stage = .admitted → s.nextBlock tk = true → s.inPackage x.asid (l.affinity x.idx) = true →
    (s.translate x.asid (l.affinity x.idx) false false).1 = .ok p → isSeq c = true → stackOf c = p.pa / 2 ^ 36 % 16 → s.teamsAt c .active = [] →
    ∃ t, exec (.nmBlockPlacement tk c frame) s = .next t ∧ placed t .active)

/-- R343, R345, R371 to R375, R382: a team that has waited 2^24 cycles is aged; the slice and the blocked limit ask
for a swap; a swap, which a loft of higher priority asks for too, makes the loft the active set 64 cycles later and
sends the active set out; the gleaner writes its state to its frame, of the registers only the live ones, and returns
it to waiting; and the banks and tiles of a set's team come back from its frame, where those of the team before go,
with their poison. R348, R350, 01 R23: a draw, every 4 cycles, forms sheaves of ready threads of one bin, at most 32
each or a saved thread set with its chain, while its core holds fewer than 16; at a switch point the current wave of a
DET launch becomes a runnable wave of it. Where the manual leaves a point open, log entries 45, 86 and 101 name the
model's choice. -/
def Obligations.SwapsAndDraws : Prop :=
  (∀ (s : State) (c tk : Nat),
    (∀ x, tget s.teams tk = some x → x.place = .waiting → 2 ^ 24 ≤ x.waited → x.boosted = false →
      ∃ t, exec (.priorityAging tk) s = .next t ∧ tget t.teams tk = some { x with boosted := true } ∧ t = { s with teams := t.teams }) ∧
    (s.schCtl c % 2 ^ 32 ≠ 0 → s.schCtl c % 2 ^ 32 ≤ (s.core c).activeCycles → s.teamsAt c .loft ≠ [] →
      s.topPrio (s.teamsAt c .active) ≤ s.topPrio (s.teamsAt c .loft) →
      ∃ t, exec (.timeSliceExpiry c) s = .next t ∧ t.core c = { s.core c with swapDue := true } ∧ t = { s with execs := t.execs }) ∧
    (s.setBlocked c = true → s.schCtl c / 2 ^ 32 % 2 ^ 32 ≤ (s.core c).blockedCycles → s.teamsAt c .loft ≠ [] →
      ∃ t, exec (.blockedTimeout c) s = .next t ∧ t.core c = { s.core c with swapDue := true } ∧ t = { s with execs := t.execs }) ∧
    (s.teamsAt c .loft ≠ [] → (∀ e ∈ s.waves, tkOfW e.1 ∈ s.teamsAt c .active → e.2.haltBit = false) → (s.core c).swapping = 0 →
      ((s.core c).swapDue = true ∨ s.topPrio (s.teamsAt c .active) < s.topPrio (s.teamsAt c .loft)) →
      (s.teams.map (·.1)).Nodup → (∀ h ∈ s.sheaves, h.core = c → h.trapped = []) →
      ∃ t, exec (.loftSwap c) s = .next t ∧ (t.core c).swapping = 64 ∧ (t.core c).swapDue = false ∧ t.mem = s.mem ∧
        (∀ k ∈ s.teamsAt c .loft, ∃ y, tget t.teams k = some y ∧ y.place = .active) ∧
        (∀ k ∈ s.teamsAt c .active, ∃ y, tget t.teams k = some y ∧ y.place = .leaving) ∧
        (∀ h ∈ t.sheaves, h.core ≠ c) ∧ ∀ k, (t.thread k).regs = (s.thread k).regs) ∧
    (s.teamsAt c .leaving ≠ [] → (s.core c).swapping = 0 → (s.teams.map (·.1)).Nodup → s.badFrame (s.teamsAt c .leaving) = none → Memory.wf s.mem = true →
      (∀ e ∈ s.teams, e.2.waves ≤ 32) → (s.threads.map (·.1)).Nodup → (∀ e ∈ s.threads, (e.2.regs.map (·.1)).Nodup ∧ ∀ r ∈ e.2.regs, r.1 < 64) →
      ∃ t, exec (.gleanerSave c []) s = .next t ∧ t = { s with teams := t.teams, mem := { s.mem with home := t.mem.home }, dies := t.dies, free := t.free } ∧
        (∀ e, t.die e = { s.die e with view := (t.die e).view, log := (t.die e).log }) ∧
        (∀ k x, tget s.teams k = some x → tget t.teams k = some (if k ∈ s.teamsAt c .leaving then { x with place := .waiting } else x)) ∧
        (∀ a, (∀ k ∈ s.teamsAt c .leaving, ∀ b, s.framePa k = some b → a < b ∨ b + 0x400000 ≤ a) → memGet t.mem.home a = memGet s.mem.home a) ∧
        ∀ k x b, s.teamsAt c .leaving = [k] → tget s.teams k = some x → s.framePa k = some b →
          (∀ w n y, w < x.waves → n < 64 → tget s.waves (32 * k + w) = some y → memNat t.mem.home (b + 0x10000 + 1024 * w + 8 * n) 8 = (tgetD y.s n 0).toNat) ∧
          ∀ i th, i < 1024 → tget s.threads (1024 * k + i) = some th →
            memNat t.mem.home (b + 0x20000 + 128 * i) 8 = th.pc.toNat ∧ memNat t.mem.home (b + 0x20010 + 128 * i) 4 = th.fcr.toNat ∧
            memNat t.mem.home (b + 0x20014 + 128 * i) 4 = th.hctr.toNat ∧ memNat t.mem.home (b + 0x20018 + 128 * i) 8 = th.hkey.toNat ∧
            ∀ n, n < 64 → memNat t.mem.home (b + 0xC0000 + 256 * i + 4 * n) 4 = match tget th.regs n with
              | some (.live v) => v.toNat
              | _ => memNat s.mem.home (b + 0xC0000 + 256 * i + 4 * n) 4) ∧
    (∀ x, s.teamsAt c .active = [tk] → tget s.teams tk = some x → x.banks = true → (s.core c).bankTeam ≠ some tk → s.stationLoads = [] →
      s.badFrame (s.core c).bankTeam.toList = none → Memory.wf s.mem = true →
      ∃ t, exec (.bankSpillFill c) s = .next t ∧ (t.core c).bankTeam = some tk ∧
        (x.spilled = true → (t.core c).sp = x.spData ∧ (t.core c).spPoison = x.spPoison) ∧
        (x.tilesOut = true → (t.core c).acc = x.accData ∧ (t.core c).rowPoison = x.rowPoison) ∧
        (∃ y, tget t.teams tk = some y ∧ y = { x with spilled := false, tilesOut := false, spData := [], spPoison := [], accData := [], rowPoison := [] }) ∧
        (∀ k z, (s.core c).bankTeam = some k → tget s.teams k = some z → tget t.teams k = some { z with
          spilled := 0 < z.spb, tilesOut := 0 < z.acc, accData := (s.core c).acc, rowPoison := (s.core c).rowPoison, spPoison := (s.core c).spPoison,
          spData := (s.core c).sp.filter (fun e => e.1 < 0x4000 * z.spb) }) ∧ t.threads = s.threads ∧
        ((s.core c).bankTeam = none → t.mem = s.mem) ∧
        ∀ k z b, (s.core c).bankTeam = some k → tget s.teams k = some z → s.framePa k = some b → z.core = some c → z.acc ≤ 16 → z.spb ≤ 64 →
          let mine (n : Nat) : Prop := lineOf (b + 0x200000) ≤ n ∧ n < lineOf (b + 0x200000) + 128 * z.spb
          (∀ a, a < b ∨ b + 0x400000 ≤ a → memGet t.mem.home a = memGet s.mem.home a) ∧
          (∀ n, n < 4096 * z.acc → memNat t.mem.home (b + 0x100000 + 4 * n) 4 = (tgetD (s.core c).acc n 0).toNat) ∧
          (∀ n, n < 0x4000 * z.spb → memGet t.mem.home (b + 0x200000 + n) = memGet (s.core c).sp n) ∧
          ∀ n, n ∈ t.mem.poison ↔ (n ∈ s.mem.poison ∧ ¬ mine n) ∨ (mine n ∧ ∃ w ∈ (s.core c).spPoison, n = lineOf (b + 0x200000 + 8 * w)))) ∧
  (∀ (s : State) (c l : Nat),
    ((s.core c).swapping = 0 → (s.die (dieOfCore c)).cycles.toNat % 4 = 0 → (s.core c).drawAt ≤ (s.die (dieOfCore c)).cycles.toNat → s.hub.fatal = false →
      (s.threads.map (·.1)).Nodup →
      ∃ t, exec (.sheafDraw c) s = .next t ∧ t.mem = s.mem ∧ (∃ new, t.sheaves = s.sheaves ++ new ∧ (s.drawOne c = none → new = []) ∧
          ((s.sheaves.filter (fun h => h.core = c)).length + new.length ≤ 16 ∨ new = []) ∧ new.length ≤ 4 ∧
          ∀ h ∈ new, h.core = c ∧ h.tids ≠ [] ∧ s.next ≤ h.formed ∧ h.formed < t.next ∧
            (h.inRun = false → h.tids.length ≤ 32 ∧ h.latch = List.replicate 8 none) ∧
            (h.inRun = true → ∃ y v, tget s.teams h.team = some y ∧ v ∈ y.saved ∧ v.pc = h.pc ∧ v.tids = h.tids ∧ v.latch = h.latch) ∧
            (∀ y k, tget s.teams h.team = some y → y.det = true → k ∈ h.tids → tget (s.core c).current y.launch = some (wkOf k) ∧ (s.wave (wkOf k)).yieldBit = false) ∧
            ∀ k ∈ h.tids, tkOf k = h.team ∧ (s.thread k).stat = .ready ∧ (s.thread k).pc = h.pc ∧ t.thread k = { s.thread k with stat := .inSheaf }) ∧
        ∀ k, (t.thread k).stat = .inSheaf ∨ t.thread k = s.thread k) ∧
    (s.detWaves c l ≠ [] → (tget (s.core c).current l = none ∨ ∃ w, tget (s.core c).current l = some w ∧ (w ∉ s.detWaves c l ∨ (s.wave w).yieldBit = true ∨
        ∀ k ∈ s.threadsOf w, s.switchStopped k = true)) → (∃ w ∈ s.detWaves c l, s.runnable w = true) →
      ∃ t, exec (.detSwitchPoint c l) s = .next t ∧ t.threads = s.threads ∧ t.mem = s.mem ∧
        ∃ w, tget (t.core c).current l = some w ∧ w ∈ s.detWaves c l ∧ s.runnable w = true ∧ (t.wave w).yieldBit = false))

/-! ### Errors, caches and power -/

/-- R368, R370, R431: a waiting fault or error record is written at its ring's head in memory when the ring can take
it, and the head moves on; nothing else of home memory changes. R380 to R382, R427 to R430: a corrected error leaves a
record and changes no value; an uncorrected one poisons the register, the bank word, the accumulator row or the line
that it hit; a fatal one, or a thermal trip, stops the package and sends the internal error. Where the manual leaves a
point open, log entries 81, 82 and 83 name the model's choice. -/
def Obligations.RecordsAndErrors : Prop :=
  (∀ (s : State) (d : Nat), Memory.wf s.mem = true → s.mem.reduce = [] →
    (∀ r rest, (s.die d).faults = r :: rest → (s.die d).fqCtl.getLsbD 0 = true → ringOkRegs (s.die d).fqBase.toNat (s.die d).fqSize.toNat = true →
      (s.die d).fqFull = false →
      let n := (s.die d).fqHead.toNat
      let pa := (s.die d).fqBase.toNat + 64 * (n % (s.die d).fqSize.toNat)
      paOk pa = true →
      ∃ t, exec (.faultRecordWrite d) s = .next t ∧ Stores s t (cellsAt pa (r.bytes n)) 0 ∧ (t.die d).faults = rest ∧ (t.die d).fqHead = (s.die d).fqHead + 1 ∧
        ((s.die d).fqCtl.getLsbD 1 = true → (s.die d).fqHead + 1 ≠ (s.die d).fqTail → d ≠ 4 → (t.die d).err.mgStat.getLsbD 0 = true) ∧ t.threads = s.threads) ∧
    (∀ r rest, (s.errOf d).waiting = r :: rest → (s.errOf d).full = false →
      let n := (s.errOf d).elHead.toNat
      paOk ((s.errOf d).slot n) = true →
      ∃ t, exec (.errorRecordWrite d) s = .next t ∧ Stores s t (cellsAt ((s.errOf d).slot n) (r.bytes n)) 0 ∧ (t.errOf d).waiting = rest ∧
        (t.errOf d).elHead = (s.errOf d).elHead + 1 ∧ (t.errOf d).mgStat.getLsbD 1 = true ∧ t.threads = s.threads)) ∧
  (∀ (s : State) (d src addr detail : Nat), s.hub.fatal = false →
    let c := addr % 1024
    let x := addr / 1024
    let stopped (t : State) (e : Nat) : Prop := t.hub.fatal = true ∧ Out.internalError ∈ t.out.drop s.out.length ∧ (t.errOf e).mgStat.getLsbD 3 = true ∧
      t.threads = s.threads
    (d ≤ 4 → 1 ≤ src → src ≤ 11 →
      ∃ t, exec (.correctedError d src addr detail) s = .next t ∧ t.threads = s.threads ∧ t.execs = s.execs ∧ t.mem.poison = s.mem.poison ∧
        ((s.errOf d).recent = [] → (s.errOf d).waiting = [] → (s.errOf d).full = false → t.mem = s.mem ∧ (t.errOf d).waiting =
          [{ cls := 1, src := src, vf := 0x3F, addr := addr, time := s.hub.time.toNat, count := 1, detail := detail }]) ∧
        ((s.errOf d).recent = [] → (s.errOf d).waiting = [] → (s.errOf d).full = true → t.mem = s.mem ∧ (t.errOf d).waiting = [] ∧
          lo32 (t.errOf d).elDrop = lo32 (s.errOf d).elDrop + 1)) ∧
    (d < nDies → src = 1 → s.coreOf (tkOf x) = c → dieOfCore c = d → (∃ v, tget (s.thread x).regs detail = some (.live v)) → detail < 64 → (tget s.threads x).isSome = true →
      ∃ t, exec (.uncorrectedError d src addr detail) s = .next t ∧ t.thread x = { s.thread x with poison := (s.thread x).poison ||| BitVec.ofNat 64 (2 ^ detail) } ∧
        ∀ k, k ≠ x → t.thread k = s.thread k) ∧
    (d < nDies → src = 2 → c < nCores → dieOfCore c = d → x < 0x20000 →
      ∃ t, exec (.uncorrectedError d src addr detail) s = .next t ∧ x ∈ (t.core c).spPoison ∧ (t.core c).sp = (s.core c).sp ∧ t.threads = s.threads) ∧
    (d < nDies → src = 3 → c < nCores → dieOfCore c = d → x < 512 →
      ∃ t, exec (.uncorrectedError d src addr detail) s = .next t ∧ (tgetD (t.core c).rowPoison (x / 32) 0).getLsbD (x % 32) = true ∧
        (t.core c).acc = (s.core c).acc ∧ t.threads = s.threads) ∧
    (d < nDies → (src = 6 ∨ src = 7 ∨ src = 8) → paOk addr = true →
      ∃ t, exec (.uncorrectedError d src addr detail) s = .next t ∧ lineOf addr ∈ t.mem.poison ∧ t.mem.home = s.mem.home ∧ t.threads = s.threads) ∧
    (d ≤ 4 → (src = 9 ∨ src = 15) → ∃ t, exec (.fatalError d src addr detail) s = .next t ∧ stopped t d) ∧
    (∃ t, exec .thermalTrip s = .next t ∧ stopped t 4))

/-- R429, R403, R394, R441: the scrub leaves a clean line alone, logs a correctable one and poisons an uncorrectable
one; the watchdog ends the block of a hung sequencer, whose launch completes with STATUS 2; a full silo evicts a line
out of reduce state; throttling an island changes no value. Where the manual leaves a point open, log entry 84 names
the model's choice. -/
def Obligations.ScrubWatchdogAndPower : Prop := ∀ (s : State) (l e tk st island : Nat),
  (paOk (l * lineBytes) = true → lo32 (s.die (dieOfPa (l * lineBytes))).err.scrubInt ≠ 0 →
    (∃ t, exec (.patrolScrub l 0) s = .next t ∧ t = s) ∧ (∃ t, exec (.patrolScrub l 1) s = .next t ∧ t.mem.poison = s.mem.poison ∧ t.threads = s.threads) ∧
    ∃ t, exec (.patrolScrub l 2) s = .next t ∧ l ∈ t.mem.poison ∧ t.threads = s.threads) ∧
  (∀ x y, s.teamsAt e .active = [tk] → isSeq e = true → tget s.teams tk = some x → tget s.launches x.launch = some y →
    let r := tgetD (s.die (dieOfCore e)).nm (stackOf e % 4) {}
    r.nmCtl.getLsbD 0 = true → (lo32 r.nmWdt).toNat ≤ (s.core e).watch →
    ∃ t, exec (.sequencerWatchdog e) s = .next t ∧ (∃ z, tget t.teams tk = some z ∧ z.place = .ended ∧ z.frame = none) ∧
      (∃ z, tget t.launches x.launch = some z ∧ z.status = 2 ∧ z.stopped = true) ∧ (∀ k ∈ s.teamThreads tk, (t.thread k).stat = .exited) ∧
      (tgetD (t.die (dieOfCore e)).nm (stackOf e % 4) {}).nmRst = r.nmRst + 1 ∧ (t.errOf (dieOfCore e)).mgStat.getLsbD 2 = true ∧
      ∀ h ∈ t.sheaves, h.team ≠ tk) ∧
  (∀ ln el rest, s.oldestLine st = some ln → s.redOn [ln] = el :: rest →
    (∃ d r a, tget s.dies d = some (s.die d) ∧ r ∈ (s.die d).inbox ∧ tget s.accs r.gid = some a ∧ a.elem.pa / 2 ^ 36 % 16 = st ∧ s.siloFull a = true) →
    ∃ t, exec (.siloEviction st) s = .next t ∧ (∀ x ∈ t.mem.reduce, lineOf x.pa ≠ ln) ∧ (∀ x ∈ s.mem.reduce, lineOf x.pa ≠ ln → x ∈ t.mem.reduce) ∧
      t.threads = s.threads) ∧
  (island < 1024 →
    (island ∉ s.hub.throttled → ∃ t, exec (.powerThrottle island true) s = .next t ∧ island ∈ t.hub.throttled ∧ t.mem = s.mem ∧ t.threads = s.threads) ∧
    (island ∈ s.hub.throttled → ∃ t, exec (.powerThrottle island false) s = .next t ∧ island ∉ t.hub.throttled ∧ t.mem = s.mem ∧ t.threads = s.threads ∧
      t.hub.thrCnt = s.hub.thrCnt))

/-- R308, R310 to R312, R315, R316, R318, R324, R328, R329, 07 R129: leases, sweeps, sleep, sector moves, flips, walks
and epochs change no value in memory and none in a die's view; only a scratch line that leaves its cache changes its
backing value. A lease puts the lines and their times in a way of the cache that the requester may use; a sweep drops
what lies two generations behind; a page that migrates has its bytes in the new frame, and its entry names it. Where
the manual leaves a point open, log entries 60, 85 and 88 name the model's choice. -/
def Obligations.CachesKeepValues : Prop := ∀ (s : State) (d unit lease sector cluster asid va stack : Nat),
  let same (t : State) : Prop := (∀ e a, t.viewByte e a = s.viewByte e a) ∧ t.mem = s.mem ∧ t.threads = s.threads
  let kept (t : State) : Prop := (∀ e a, t.viewByte e a = s.viewByte e a) ∧ t.mem = { s.mem with backing := t.mem.backing } ∧ t.threads = s.threads
  let clock := (s.die d).clock
  (∀ p ls, d < nDies → unit < coresPerDie + nSlices → 16 ≤ lease → lease ≤ 4096 → tget (s.die d).asleep unit = none → s.copyWays d unit asid ≠ [] →
    s.leaseLines d unit asid va = some (p, ls) →
    (∀ c ∈ (s.die d).copies, c.unit = unit → c.asid = asid → c.va = va / lineBytes → c.serves clock = false) →
    ∃ t, exec (.leaseRenewal d unit ⟨asid, va⟩ lease) s = .next t ∧ kept t ∧ (∀ x ∈ ls, clock + lease ≤ tgetD (t.die d).rts x.2 0) ∧
      ∀ x, ls.getLast? = some x → ∃ c ∈ (t.die d).copies, c.unit = unit ∧ c.asid = asid ∧ c.va = x.1 ∧ c.line = x.2 ∧ c.rts = BitVec.ofNat 32 (clock + lease) ∧
        c.way ∈ s.copyWays d unit asid ∧ c.marked = false ∧ ((∀ y ∈ (s.die d).copies, y.unit ≠ unit ∨ y.line ≠ x.2) → c.data = (s.die d).lineData x.2)) ∧
  (d < nDies → unit < nUnits → tget (s.die d).asleep unit = none →
    (∃ t, exec (.generationSweep d unit) s = .next t ∧ same t ∧ ∀ c, c ∈ (t.die d).copies ↔
      c ∈ (s.die d).copies ∧ ¬ (c.unit = unit ∧ (clock / 2 ^ 30 + 4 - c.rts.toNat / 2 ^ 30) % 4 = 2)) ∧
    (s.linesHeld (fun l => homeUnit ((s.die d).sliceOf l) = unit) = false →
      ∃ t, exec (.retentionSleep d unit) s = .next t ∧ same t ∧ tget (t.die d).asleep unit = some (clock / 2 ^ 30))) ∧
  (∀ since, tget (s.die d).asleep unit = some since →
    ∃ t, exec (.retentionWake d unit) s = .next t ∧ kept t ∧ tget (t.die d).asleep unit = none ∧
      (2 ≤ clock / 2 ^ 30 - since → (∀ c ∈ (t.die d).copies, c.unit ≠ unit) ∧ (∀ e ∈ (t.die d).sectors, homeUnit e.2.slice ≠ unit) ∧
        (Memory.wf s.mem = true → ∀ k x a, tget (s.die d).sectors k = some x → homeUnit x.slice = unit → x.scratch = true → a / 1024 = k →
          memGet t.mem.backing a = s.viewByte d a)) ∧
      (clock / 2 ^ 30 - since < 2 → t.mem = s.mem ∧ (t.die d).sectors = (s.die d).sectors ∧ ∀ c ∈ (t.die d).copies, c.unit = unit → c.marked = true)) ∧
  (∀ x, tget (s.die d).sectors sector = some x → s.linesHeld (fun l => l / 8 = sector) = false →
    ((s.die d).migCtl.getLsbD 1 = true → x.recent.length = 16 → 12 ≤ (x.recent.filter (· = cluster)).length → cluster / 24 = d →
      x.slice ≠ (Config.nearSlice d cluster).val → ((s.die d).sectors.map (·.1)).Nodup →
      ∃ t, exec (.sectorMigration d sector cluster) s = .next t ∧ kept t ∧ tget (t.die d).sectors sector = some { x with slice := (Config.nearSlice d cluster).val }) ∧
    (x.flip = true →
      ∃ t, exec (.orientationFlip d sector) s = .next t ∧ same t ∧
        tget (t.die d).sectors sector = some { x with cols := !x.cols, cnt := 0, flip := false })) ∧
  (∀ fetch write e, s.vaTarget asid (va % 2 ^ 57) = .ok (.pkg e) → ∃ t, exec (.pageWalk asid va fetch write) s = .next t ∧ same t ∧
    (∀ p, s.pageOf e asid (va % 2 ^ 57) = .ok p → (write = true → p.w = true) → (fetch = true → p.x = true) →
      ∃ m ∈ (t.die e).mtlb, m.asid = asid ∧ m.page.va = p.va) ∧
    ((∃ k, (s.translate asid (va % 2 ^ 57) write fetch).1 = .error k) → t = s)) ∧
  (d < nDies → (s.die d).cycles.toNat % 2 ^ 20 = 0 → (s.die d).cycles ≠ 0 →
    ∃ t, exec (.migrationEpoch d) s = .next t ∧ same t ∧ (∀ m ∈ (t.die d).mtlb, m.misses = 0) ∧
      ∀ m ∈ (s.die d).mtlb, (s.die d).migCtl.toNat / 2 ^ 16 % 2 ^ 16 < m.misses → s.mayMigrate d m.asid m.page = true → (m.asid, m.page.va) ∈ (t.die d).cands) ∧
  (∀ p, s.mtlbFind d asid va = some p → s.mayMigrate d asid p = true → (asid, p.va) ∈ (s.die d).cands → stack < 16 → s.hub.fatal = false →
    let z := if p.bits = 12 then 0 else 1
    let size := 2 ^ p.bits
    let f := s.pool stack z
    let o := s.pool (p.pa / 2 ^ 36 % 16) z
    let mine (l : Nat) : Bool := lineOf p.pa ≤ l && l < lineOf p.pa + size / lineBytes
    (s.freeFrame f (colourOf p.pa) = none →
      ∃ t, exec (.pageMigration d asid va stack) s = .next t ∧ same t ∧ (asid, p.va) ∉ (t.die d).cands) ∧
    (∀ n, s.freeFrame f (colourOf p.pa) = some n → o.tail - o.head < o.size → s.linesHeld mine = false → (∀ g a, (g, a) ∈ s.accs → ∀ l ∈ a.lines, mine l = false) →
      (∀ e x, (e, x) ∈ s.dies → ∀ w ∈ x.aq, ∀ l ∈ w.lines, mine l = false) → s.mem.restores = [] → s.ringLoads = [] → (∀ e, e < nDies → s.queuesOpen e = true) →
      paOk (f.slot n) = true → paOk (o.slot o.tail.toNat) = true → s.mem.reduce = [] → Memory.wf s.mem = true →
      let new := memNat s.mem.home (f.slot n) 8 / 2 ^ 12 % 2 ^ 40 * 4096
      let far (x : Nat) : Prop := ∀ a ∈ [p.pte, f.slot n, f.slot f.head.toNat, o.slot o.tail.toNat], x < a ∨ a + 8 ≤ x
      ∃ t, exec (.pageMigration d asid va stack) s = .next t ∧ (asid, p.va) ∉ (t.die d).cands ∧ (t.pool stack z).head = f.head + 1 ∧ (∀ k, (t.thread k).regs = (s.thread k).regs) ∧
        (∀ i, i < size → far (new + i) → far (p.pa + i) → memGet t.mem.home (new + i) = memGet s.mem.home (p.pa + i)) ∧
        ((∀ i, i < 8 → p.pte + i < o.slot o.tail.toNat ∨ o.slot o.tail.toNat + 8 ≤ p.pte + i) → memNat t.mem.home p.pte 8 / 2 ^ 12 % 2 ^ 40 * 4096 = new)))

/-! ### Commands of the driver -/

/-- R325 to R327, R435: a translation command takes the translations of its pages out of every MTLB and is busy; bad
arguments end it with ERR 1, a region still valid with ERR 2; before the device is ready, or while a command runs, the
write is ignored. At its end the new attribute stands in memory, and no later load under a changed translation takes a
time before it. Where the manual leaves a point open, log entry 97 names the model's choice. -/
def Obligations.TranslationCommands : Prop := ∀ (s : State) (d op : Nat), d < nDies →
  let x := s.die d
  let a := x.mt1 % 2 ^ 16
  let n := x.mt1 / 2 ^ 16 % 2 ^ 32
  let b := s.regionBits d a x.mt0
  let lo := x.mt0 / 2 ^ b * 2 ^ b
  let i := x.mt1 / 2 ^ 16 % 2 ^ 4
  let g := x.mt1 / 2 ^ 16 % 2 ^ 6
  let range (p : Page) : Prop := p.die = d ∧ p.asid = a ∧ lo ≤ p.va + (2 ^ p.bits - 1) ∧ p.va < lo + n * 2 ^ b
  let left (t : State) (p : Page → Prop) : Prop := ∀ e m, m ∈ (t.die e).mtlb ↔ m ∈ (s.die e).mtlb ∧ ¬ p m.page
  let begun (j : Instr) (p : Page → Prop) : Prop := ∃ t, exec j s = .next t ∧ (t.die d).mtStat = 1 ∧ left t p ∧ t.mem = s.mem ∧ t.threads = s.threads
  let ended (j : Instr) (err : W64) : Prop := ∃ t, exec j s = .next t ∧ (t.die d).mtStat = err ∧ t.mem = s.mem ∧ t.threads = s.threads
  let apart (pa : Nat → Nat) (k : Nat) : Prop := ∀ e f, e < nDies → f < nDies → e ≠ f → pa e + k ≤ pa f ∨ pa f + k ≤ pa e
  let keeps (t : State) (pa : Nat → Nat) (k : Nat) : Prop := ∀ y, (∀ e, e < nDies → y < pa e ∨ pa e + k ≤ y) → memGet t.mem.home y = memGet s.mem.home y
  let region (e : Nat) : Nat := (s.die e).astBase.toNat + 2048 * a + 16 * g
  let plain : Prop := s.mem.reduce = [] ∧ Memory.wf s.mem = true
  let base : Nat := (4 * s.hub.fabId.toNat + d) * 2 ^ 44
  let whole : Prop := base ≤ x.mt0 ∧ x.mt0 + (n - 1) * 2 ^ b < base + 2 ^ 44
  let newFormat (e : Nat) : Nat := (s.die e).astBase.toNat + 2048 * (x.mtIn1 % 2 ^ 16) + 1024 + 4 * (x.mtIn1 / 2 ^ 16 % 2 ^ 4)
  (s.ready = false ∨ x.mtStat.getLsbD 0 = true → ∀ j ∈ ([.invAll d, .invAsid d, .invRange d, .setAttr d, .setFmt d, .setRegion d] : List Instr), exec j s = .next s) ∧
  (s.ready = true → x.mtStat.getLsbD 0 = false →
    (if x.mt0 = 0 ∧ x.mt1 = 0 ∧ x.mt2 = 0 then begun (.invAll d) (fun p => p.die = d) else ended (.invAll d) 2) ∧
    (if x.mt0 = 0 ∧ x.mt1 < 2 ^ 16 ∧ x.mt2 = 0 then begun (.invAsid d) (fun p => p.die = d ∧ p.asid = a) else ended (.invAsid d) 2) ∧
    (if x.mt0 < 2 ^ 57 ∧ x.mt1 < 2 ^ 48 ∧ x.mt2 = 0 then
      (n = 0 → ended (.invRange d) 0) ∧ (n ≠ 0 → whole → begun (.invRange d) range) ∧ (n ≠ 0 → ¬ whole → ended (.invRange d) 2)
     else ended (.invRange d) 2) ∧
    (if x.mt0 < 2 ^ 57 ∧ x.mt1 < 2 ^ 52 ∧ x.mt2 = 0 then
      (n = 0 → ended (.setAttr d) 0) ∧ (n ≠ 0 → whole → begun (.setAttr d) range ∧ ∀ t, exec (.setAttr d) s = .next t → t.attrBusy = true) ∧
      (n ≠ 0 → ¬ whole → ended (.setAttr d) 2)
     else ended (.setAttr d) 2) ∧
    (if x.mt0 < 2 ^ 32 ∧ x.mt1 < 2 ^ 20 ∧ x.mt2 = 0 then begun (.setFmt d) (fun p => p.asid = a ∧ p.fix = i) else ended (.setFmt d) 2) ∧
    (2 ^ 22 ≤ x.mt1 → ended (.setRegion d) 2) ∧
    (x.mt1 < 2 ^ 22 → x.mt0 % 2 = 1 → (∃ e, e < nDies ∧ s.regionEntry e a g % 2 = 1) → ended (.setRegion d) 4) ∧
    (x.mt1 < 2 ^ 22 → x.mt0 % 2 = 0 ∨ (∀ e, e < nDies → s.regionEntry e a g % 2 = 0) → (∀ e, e < nDies → paOk (region e) = true) → apart region 16 → plain →
      ∃ t, exec (.setRegion d) s = .next t ∧ (t.die d).mtStat = 1 ∧ left t (fun p => p.asid = a ∧ p.region = g) ∧
        (∀ e, e < nDies → memNat t.mem.home (region e) 16 = x.mt0 + 2 ^ 64 * x.mt2) ∧ keeps t region 16) ∧
    (6 ≤ op → op < 16 → ended (.mtcmdBadOp d op) 2)) ∧
  (x.mtStat.getLsbD 0 = true → s.pageUser x.mtPages x.mtGid = false → (∀ e, e < nDies → s.queuesOpen e = true ∧ x.mtUntil < (s.die e).clock) →
    let c := x.mtCmd.toNat % 16
    (c ≠ 3 → c ≠ 4 → ∃ t, exec (.mtcmdComplete d) s = .next t ∧ (t.die d).mtStat = 0 ∧ t.mem = s.mem ∧ t.threads = s.threads ∧
      ∀ e r, e < nDies → r ∈ s.invRanges d c x → ({ asid := r.1, lo := r.2.1, hi := r.2.2, t := (s.die e).clock } : Inv) ∈ (t.die e).invs) ∧
    (plain → (∀ p ∈ x.mtPages, p.map = false) →
      (c = 4 → (∀ e, e < nDies → paOk (newFormat e) = true) → apart newFormat 4 →
        ∃ t, exec (.mtcmdComplete d) s = .next t ∧ (t.die d).mtStat = 0 ∧ (∀ e, e < nDies → memNat t.mem.home (newFormat e) 4 = x.mtIn0 % 2 ^ 32) ∧
          keeps t newFormat 4) ∧
      (c = 3 → (∀ p ∈ x.mtPtes, ∀ q ∈ x.mtPtes, p = q ∨ p.2 + 8 ≤ q.2 ∨ q.2 + 8 ≤ p.2) →
        ∃ t, exec (.mtcmdComplete d) s = .next t ∧ (t.die d).mtStat = 0 ∧
          (∀ p ∈ x.mtPtes, let e := memNat s.mem.home p.2 8
            memNat t.mem.home p.2 8 = e - e / 2 ^ 5 % 16 * 2 ^ 5 + x.mtIn1 / 2 ^ 48 % 16 * 2 ^ 5) ∧
          ∀ y, (∀ p ∈ x.mtPtes, y < p.2 ∨ p.2 + 8 ≤ y) → memGet t.mem.home y = memGet s.mem.home y)))

/-- R356, R357, R435: a barrier-table entry with no resident wait goes to memory as its image and comes back from it,
to the node it was of (log entry 119); an image address that is not aligned, an entry that is missing, waited at or
already there, and a full table end the command with their ERR. Where the manual leaves a point open, log entry 98
names the model's choice. -/
def Obligations.BarrierTableCommands : Prop := ∀ (s : State) (d op : Nat), d < nDies →
  let x := s.die d
  let pa := x.btArg1.toNat
  let m (k n : Nat) : Nat := memNat s.mem.home (pa + k) n
  let gid := BitVec.ofNat 64 (m 0 8)
  let node := match x.btOut.find? (fun y => y.1 = gid) with | some y => y.2 | none => 0
  let e : BtEntry := { gid := gid, node := node, expected := m 8 4, arrived := m 12 4, phase := m 16 4 }
  let ended (i : Instr) (err : Nat) : Prop := ∃ t, exec i s = .next t ∧ (t.die d).btErr = err ∧ (t.die d).bt = x.bt ∧ t.mem = s.mem ∧ t.threads = s.threads
  (s.ready = false → exec (.btEvict d) s = .next s ∧ exec (.btRestore d) s = .next s ∧ (op = 2 ∨ op = 3 → exec (.btcmdBadOp d op) s = .next s)) ∧
  (s.ready = true → op = 2 ∨ op = 3 → ended (.btcmdBadOp d op) 1) ∧
  (s.ready = true → pa % 32 ≠ 0 → ended (.btEvict d) 1 ∧ ended (.btRestore d) 1) ∧
  (s.ready = true → pa % 32 = 0 → paOk pa = true → s.mem.reduce = [] → Memory.wf s.mem = true →
    (x.bt.find? (fun y => y.gid = x.btArg0) = none → ended (.btEvict d) 2) ∧
    (∀ y, x.bt.find? (fun y => y.gid = x.btArg0) = some y → s.residentWait y.gid = true → ended (.btEvict d) 2) ∧
    (∀ y, x.bt.find? (fun y => y.gid = x.btArg0) = some y → s.residentWait y.gid = false →
      ∃ t, exec (.btEvict d) s = .next t ∧ (t.die d).btErr = 0 ∧ (∀ z, z ∈ (t.die d).bt ↔ z ∈ x.bt ∧ z ≠ y) ∧ (y.gid, y.node) ∈ (t.die d).btOut ∧
        memNat t.mem.home pa 8 = y.gid.toNat ∧ memNat t.mem.home (pa + 8) 4 = y.expected % 2 ^ 32 ∧ memNat t.mem.home (pa + 12) 4 = y.arrived % 2 ^ 32 ∧
        memNat t.mem.home (pa + 16) 4 = y.phase % 2 ^ 32 ∧ (∀ z, z < pa ∨ pa + 32 ≤ z → memGet t.mem.home z = memGet s.mem.home z) ∧ t.threads = s.threads) ∧
    ((∃ y ∈ x.bt, y.gid = gid ∧ y.node = node) → ended (.btRestore d) 1) ∧
    ((∀ y ∈ x.bt, ¬ (y.gid = gid ∧ y.node = node)) → 4096 ≤ x.bt.length → ended (.btRestore d) 3) ∧
    ((∀ y ∈ x.bt, ¬ (y.gid = gid ∧ y.node = node)) → x.bt.length < 4096 → ∃ t, exec (.btRestore d) s = .next t ∧ (t.die d).btErr = 0 ∧ (t.die d).bt = x.bt ++ [e] ∧
      (∀ y, y ∈ (t.die d).btOut ↔ y ∈ x.btOut ∧ y ≠ (gid, node)) ∧ t.mem = s.mem ∧ t.threads = s.threads))

/-- R368, R369, R383: a fault command acts on the parked lane that its token names: UNPARK lets it make its access
again, or go on where its trap would; SKIP goes on at the next instruction, KILL ends it, TRAP takes it to the
handler. A token that names no parked lane, and TRAP without a vector, end with their ERR. Where the manual leaves a
point open, log entry 99 names the model's choice. -/
def Obligations.FaultCommands : Prop := ∀ (s : State) (d : Nat), d < nDies → s.ready = true →
  let tok := tokenOf (s.die d).fqArg
  let rsv := (s.die d).fqArg.toNat / 2 ^ 27 % 32
  let all : List Instr := [.unpark d, .skip d, .kill d, .fqcmdTrap d]
  let fails (i : Instr) (err : W64) : Prop := ∃ t, exec i s = .next t ∧ (t.die d).fqStat = err ∧ t.threads = s.threads ∧ t.mem = s.mem
  (rsv ≠ 0 → ∀ i ∈ all, fails i 2) ∧ (rsv = 0 → s.tokenTeam tok = none → ∀ i ∈ all, fails i 4) ∧
  ∀ tk, rsv = 0 → s.tokenTeam tok = some tk →
    (s.named tk tok = [] → ∀ i ∈ all, fails i 4) ∧
    (s.named tk tok ≠ [] → (s.trapRegs tk).tvec.getLsbD 0 = false → fails (.fqcmdTrap d) 6) ∧
    ∀ k p, s.named tk tok = [k] → (s.thread k).park = some p → p.set = .lane → p.late = none → (tget s.threads k).isSome = true → tkOf k = tk →
      let goes (i : Instr) (f : Thread → Thread) : Prop := ∃ t, exec i s = .next t ∧ (t.die d).fqStat = 0 ∧
        t.thread k = { f (s.thread k) with stat := .ready, filedAt := (t.thread k).filedAt } ∧ (∀ j, j ≠ k → t.thread j = s.thread j) ∧ t.mem = s.mem
      (p.trap = false → p.access ≠ 4 → goes (.unpark d) (fun x => { x with pc := p.pc, replay := true })) ∧
      (p.trap = false → p.access = 4 → goes (.unpark d) (fun x => { x with pc := p.pc, park := none })) ∧
      (p.trap = true → goes (.unpark d) (fun x => { x with pc := p.rpc, park := none, kept := none })) ∧
      goes (.skip d) (fun x => { x with pc := afterPc p.pc p.words, park := none, kept := none }) ∧
      (∃ t, exec (.kill d) s = .next t ∧ (t.die d).fqStat = 0 ∧ (t.thread k).stat = .exited ∧
        (t.thread k).last = (s.thread k).regs ∧ ∀ n, n < 64 → tget (t.thread k).regs n = some .freed) ∧
      ∀ pg, (s.trapRegs tk).tvec.getLsbD 0 = true → (s.translate ((s.trapRegs tk).tctl.toNat % 2 ^ 16) (s.trapRecVa k) true false).1 = .ok pg →
        ∃ t, exec (.fqcmdTrap d) s = .next t ∧ (t.die d).fqStat = 0 ∧ (t.thread k).stat = .ready ∧ (t.thread k).sup = true ∧ (t.thread k).park = none ∧
          (t.thread k).pc = BitVec.ofNat 57 ((s.trapRegs tk).tvec.toNat / 4 * 4) ∧
          tget (t.thread k).regs 62 = some (.live (BitVec.ofNat 32 p.kind)) ∧ ∀ j, j ≠ k → t.thread j = s.thread j

/-- R374, R375, R378, R383, R435: a debugger attached to a function halts a wave, whose sheaves end, and lets it go
on, a swap that is due first; lets each ready thread of a halted wave issue once; and reads and writes the state of a
team at the offsets of its frame. Without a debugger a command ends with ERR 3. Where the manual leaves a point open,
log entries 101, 108 and 109 name the model's choice. -/
def Obligations.DebugCommands : Prop := ∀ (s : State) (d op : Nat), d < nDies → s.ready = true →
  let tok := tokenOf (s.die d).dbgArg0
  let o := 8 * ((s.die d).dbgArg1.toNat / 8 % 2 ^ 19)
  let v := (s.die d).dbgData
  let all : List Instr := [.halt d, .resume d, .step d, .dbgRead d, .dbgWrite d]
  let fails (i : Instr) (err : Nat) : Prop := ∃ t, exec i s = .next t ∧ (t.die d).dbgErr = err ∧ t.threads = s.threads ∧ t.mem = s.mem
  (5 ≤ op → op ≤ 7 → fails (.dbgcmdBadOp d op) 1) ∧ (s.debugged tok.vf d = false → ∀ i ∈ all, fails i 3) ∧
  ∀ tk, s.debugged tok.vf d = true → (s.die d).dbgArg0.toNat / 2 ^ 27 % 32 = 0 → s.tokenTeam tok = some tk → tok.wave < 32 → (tget s.waves (32 * tk + tok.wave)).isSome = true →
    let wk := 32 * tk + tok.wave
    let c := s.coreOf tk
    (s.liveOf wk ≠ [] → (∀ h ∈ s.sheaves, h.trapped = []) → (s.core (s.coreOf tk)).products = [] →
      ∃ t, exec (.halt d) s = .next t ∧ (t.die d).dbgErr = 0 ∧ (t.wave wk).haltBit = true ∧ (∀ k, (t.thread k).regs = (s.thread k).regs) ∧
        (∀ h ∈ t.sheaves, h ∈ s.sheaves ∧ ∀ k ∈ h.tids, wkOf k ≠ wk) ∧ t.mem = s.mem) ∧
    ((s.wave wk).haltBit = true →
      (s.teamsAt (s.coreOf tk) .loft = [] → ∃ t, exec (.resume d) s = .next t ∧ (t.die d).dbgErr = 0 ∧ t.wave wk = { s.wave wk with haltBit := false, stepping := [] } ∧
        t.threads = s.threads ∧ t.mem = s.mem) ∧
      (s.teamActive tk = true → s.teamsAt c .loft ≠ [] → (s.waves.map (·.1)).Nodup → (∀ e ∈ s.waves, e.1 ≠ wk → tkOfW e.1 ∈ s.teamsAt c .active → e.2.haltBit = false) →
        (s.core c).swapping = 0 → ((s.core c).swapDue = true ∨ s.topPrio (s.teamsAt c .active) < s.topPrio (s.teamsAt c .loft)) →
        ∃ t, exec (.resume d) s = .next t ∧ (t.die d).dbgErr = 0 ∧ (t.wave wk).haltBit = false ∧ (t.core c).swapping = 64) ∧
      (∃ t, exec (.step d) s = .next t ∧ (t.die d).dbgErr = 0 ∧
        t.wave wk = { s.wave wk with stepping := (s.liveOf wk).filter (fun k => (s.thread k).stat = .ready) } ∧ t.threads = s.threads ∧ t.mem = s.mem) ∧
      (∃ t, exec (.dbgRead d) s = .next t ∧ (t.die d).dbgErr = 0 ∧ t.threads = s.threads ∧ t.mem = s.mem ∧ t.waves = s.waves ∧
        ∀ i th, i < 1024 → tget s.threads (1024 * tk + i) = some th → (tget s.teams tk).isSome = true →
          (o = 0x20000 + 128 * i → (t.die d).dbgData = th.pc.setWidth 64) ∧ (o = 0x20010 + 128 * i → (t.die d).dbgData = pair64 th.fcr th.hctr) ∧
          (o = 0x20018 + 128 * i → (t.die d).dbgData = th.hkey) ∧
          ∀ n a b, n < 32 → o = 0xC0000 + 256 * i + 8 * n → tget th.regs (2 * n) = some (.live a) → tget th.regs (2 * n + 1) = some (.live b) →
            (t.die d).dbgData = pair64 a b) ∧
      ∃ t, exec (.dbgWrite d) s = .next t ∧ (t.die d).dbgErr = 0 ∧ (s.isOut tk = false → t.mem = s.mem) ∧
        (∀ i th n a b, i < 1024 → n < 32 → tget s.threads (1024 * tk + i) = some th → (tget s.teams tk).isSome = true →
          tget th.regs (2 * n) = some (.live a) → tget th.regs (2 * n + 1) = some (.live b) → o = 0xC0000 + 256 * i + 8 * n →
          tget (t.thread (1024 * tk + i)).regs (2 * n) = some (.live (lo32 v)) ∧ tget (t.thread (1024 * tk + i)).regs (2 * n + 1) = some (.live (hi32 v)) ∧
          (∀ r, r ≠ 2 * n → r ≠ 2 * n + 1 → tget (t.thread (1024 * tk + i)).regs r = tget th.regs r) ∧ (∀ b, s.isOut tk = true → s.framePa tk = some b → s.badFrame [tk] = none → Memory.wf s.mem = true → memNat t.mem.home (b + o) 8 = v.toNat) ∧ ∀ k, k ≠ 1024 * tk + i → t.thread k = s.thread k) ∧
        (∀ n, n < 64 → o = 0x10000 + 1024 * tok.wave + 8 * n → (tget s.teams tk).isSome = true →
          t.threads = s.threads ∧ t.wave wk = { s.wave wk with s := tset (s.wave wk).s n v }) ∧
        (∀ x, tget s.teams tk = some x → o = 8 → t.threads = s.threads ∧ tget t.teams tk = some { x with
          valid := v.getLsbD 0, det := v.getLsbD 1, idem := v.getLsbD 2, spilled := v.getLsbD 3, tilesOut := v.getLsbD 4, spb := v.toNat / 2 ^ 8 % 2 ^ 7,
          acc := v.toNat / 2 ^ 16 % 2 ^ 5, waves := v.toNat / 2 ^ 24 % 2 ^ 6 }) ∧
        ∀ i, i < 1024 → o = 0x20008 + 128 * i → (tget s.threads (1024 * tk + i)).isSome = true → (tget s.teams tk).isSome = true →
          (v.toNat % 16 = 1 → (t.thread (1024 * tk + i)).stat = .rendezvous) ∧ (v.toNat % 16 = 2 → (t.thread (1024 * tk + i)).stat = .waiting) ∧
          (v.toNat % 16 = 3 → (t.thread (1024 * tk + i)).stat = .parked))

/-! ### The host -/

/-- R410, R411, R414, R415, Table 25-2: a host access to a half-line that its decoder maps: outside its function's
granules a read is answered with all ones and poison and a write is dropped; in a device-bias page a flip to host bias
starts; else a read gets the home die's view and holds the half, and a write of lines with no tile stands at home. A
snoop's answer writes what the host held modified. Where the manual leaves a point open, log entries 7, 89 and 90 name
the model's choice. -/
def Obligations.HostMemory : Prop := ∀ (s : State) (n dpa : Nat) (bytes : List W8), s.hub.linkUp = true →
  let half := paOfDpa (dpa / 64 * 64)
  let pa := paOfDpa dpa
  let d := dieOfPa half
  let h := half / 64
  let reads : List (Instr × Half) := [(.hostReadShared n dpa, .s), (.hostReadOwn n dpa, .m)]
  let free : Prop := s.hostDecodes n dpa = true ∧ s.flipping (half / 4096) = false ∧ tget s.hub.snoops h = none
  let fits : Prop := s.hostDecodes n dpa = true ∧ s.flipping (pa / 4096) = false ∧ tget s.hub.snoops (pa / 64) = none ∧ bytes ≠ [] ∧ dpa % 64 + bytes.length ≤ 64
  let flips (t : State) (p : Nat) : Prop := t = { s with hub := { s.hub with flip := t.hub.flip, biasAuto := t.hub.biasAuto } } ∧
    ∃ f, t.hub.flip = some f ∧ f.toDevice = false ∧ f.pages = [p]
  (s.hostMay n dpa = false →
    (free → ∀ r ∈ reads, ∃ t, exec r.1 s = .next t ∧ t.out = s.out ++ [.hostData (dpa / 64 * 64) (List.replicate 64 0xFF) true] ∧ t.hub.halves = s.hub.halves ∧ t.mem = s.mem) ∧
    (fits → ∃ t, exec (.hostWrite n dpa bytes) s = .next t ∧ t.mem = s.mem ∧ t.out = s.out)) ∧
  (s.hostMay n dpa = true → s.hub.flip = none →
    (free → half / 4096 ∈ s.hub.devBias → ∀ r ∈ reads, ∃ t, exec r.1 s = .next t ∧ flips t (half / 4096)) ∧
    (fits → pa / 4096 ∈ s.hub.devBias → ∃ t, exec (.hostWrite n dpa bytes) s = .next t ∧ flips t (pa / 4096))) ∧
  (s.hostMay n dpa = true → s.mem.reduce = [] → Memory.wf s.mem = true →
    (free → half / 4096 ∉ s.hub.devBias → s.owned [lineOf half] = false → ∀ r ∈ reads, ∃ t, exec r.1 s = .next t ∧
      t.out = s.out ++ [.hostData (dpa / 64 * 64) ((upto 64).map (fun i => s.viewByte d (half + i))) (s.poisoned [lineOf half])] ∧
      tget t.hub.halves h = some r.2 ∧ t.mem = { s.mem with backing := t.mem.backing } ∧ t.threads = s.threads) ∧
    (fits → pa / 4096 ∉ s.hub.devBias → s.owned [lineOf pa] = false → s.pinned [lineOf pa] = false → s.queuesOpen (dieOfPa pa) = true →
      s.tilesOn (dieOfPa pa) pa bytes.length = [] →
      ∃ t, exec (.hostWrite n dpa bytes) s = .next t ∧ Stores s t (cellsAt pa bytes) 0 ∧ tget t.hub.halves (pa / 64) = none ∧ t.threads = s.threads) ∧
    ∀ inv, tget s.hub.snoops h = some inv →
      let done (t : State) : Prop := tget t.hub.snoops h = none ∧ tget t.hub.halves h = (if inv then none else some .s) ∧ t.threads = s.threads
      (∃ t, exec (.bisnpResponse dpa none) s = .next t ∧ done t ∧ t.mem = s.mem) ∧
      (bytes.length = 64 → tget s.hub.halves h ≠ some .m → ∃ t, exec (.bisnpResponse dpa (some bytes)) s = .next t ∧ done t ∧ t.mem = s.mem) ∧
      (bytes.length = 64 → tget s.hub.halves h = some .m → s.queuesOpen d = true → s.tilesOn d half 64 = [] →
        s.owned [lineOf half] = false → s.pinned [lineOf half] = false →
        ∃ t, exec (.bisnpResponse dpa (some bytes)) s = .next t ∧ done t ∧ Stores s t (cellsAt half bytes) 0))

/-- R416, R131, R409: the oldest request of a die's host channel is answered: a load's register takes the half-line's
bytes, an atomic's the old value, the new one going back to the host; a decode error parks the lane with code 6, and a
link that goes down parks it with code 14. Where the manual leaves a point open, log entries 13 and 92 name the
model's choice. -/
def Obligations.HostWindow : Prop := ∀ (s : State) (d g k r : Nat) (a : Acc) (rest : List Nat) (data : List W8) (v : Res) (own : Bool), (s.die d).hostChan = g :: rest →
    Stands s g a → a.owner = .thread k → (tget s.threads k).isSome = true → (a.kind = .store → a.page.cc ≠ 3) → a.block = false →
  let rd (x : Nat) : W8 := data.getD (x % 64) 0
  let awaits : Prop := a.dst = some r ∧ tget (s.thread k).pend r = some g ∧ a.wide = false ∧ (s.thread k).stat ≠ .exited
  let stands : Prop := (s.thread k).stat = .ready ∧ (s.thread k).sup = false
  let taken (t : State) : Prop := (t.die d).hostChan = rest ∧ tget t.accs g = none ∧ (∀ j, j ≠ k → (t.thread j).regs = (s.thread j).regs) ∧ t.mem = s.mem
  let parks (t : State) (kind : Nat) : Prop := tget t.accs g = none ∧ (t.thread k).stat = .parked ∧ ∃ p, (t.thread k).park = some p ∧ p.kind = kind ∧ p.gid = g ∧ p.pc = a.pc ∧ p.words = a.words
  (s.hub.linkUp = true →
    (a.kind = .load → awaits → data.length = 64 → a.loadValue rd [] = some (v, own) →
      ∃ t, exec (.hostGlobalObservation d data) s = .next t ∧ taken t ∧ tget (t.thread k).regs r = some (.live (BitVec.ofNat 32 v.1)) ∧ t.out = s.out) ∧
    (a.kind = .atomic → awaits → a.more = [] → data.length = 64 →
      ∃ t, exec (.hostGlobalObservation d data) s = .next t ∧ taken t ∧
        tget (t.thread k).regs r = some (.live (BitVec.ofNat 32 (readNat rd a.elem.pa (a.elem.width / 8)))) ∧
        t.out = s.out ++ [.host d "DirtyEvict" (a.va.toNat % 2 ^ 44 / 64 * 64) (bridgeBytes a data) false]) ∧
    (a.kind = .store → a.more = [] → ∃ t, exec (.hostGlobalObservation d []) s = .next t ∧ taken t ∧ t.out = s.out ∧ (t.thread k).regs = (s.thread k).regs) ∧
    (stands → ∃ t, exec (.hostDecodeError d) s = .next t ∧ (t.die d).hostChan = rest ∧ parks t 6) ∧
    (stands → rest = [] → d < nDies → (∀ e, e ≠ d → (s.die e).hostChan = []) →
      ∃ t, exec .hostLinkDown s = .next t ∧ t.hub.linkUp = false ∧ (∀ e, (t.die e).hostChan = []) ∧ parks t 14)) ∧
  (s.hub.linkUp = false → ∃ t, exec .hostLinkUp s = .next t ∧ t = { s with hub := { s.hub with linkUp := true } })

/-- R415: BIASCMD starts a flip of pages that lie in HDM, sets ERR for others, and is ignored while one is in
progress. A flip to device bias first has the host's halves invalidated; one to host bias ends when its pages are
drained, and their copies and sectors are gone. Where the manual leaves a point open, log entry 90 names the model's
choice. -/
def Obligations.BiasFlips : Prop := ∀ (s : State) (f : Flip),
  let a := s.hub.biasArg0.toNat
  let n := s.hub.biasArg1.toNat
  let inHdm : Prop := a % 4096 = 0 ∧ ∃ e ∈ s.hub.hdm, e.2.1 ≤ a ∧ a + 4096 * n ≤ e.2.1 + e.2.2
  let cmds : List (Instr × Bool) := [(.biasToHost, false), (.biasToDevice, true)]
  let mine (h : Nat) : Prop := h / 64 ∈ f.pages
  (s.hub.flip ≠ none → ∀ c ∈ cmds, exec c.1 s = .next s) ∧
  (s.hub.flip = none → ∀ c ∈ cmds, ∃ t, exec c.1 s = .next t ∧ t = { s with hub := t.hub } ∧ t.hub.devBias = s.hub.devBias ∧
    (inHdm → t.hub.biasErr = false ∧ ∃ x, t.hub.flip = some x ∧ x.toDevice = c.2 ∧ x.pages = (upto n).map (fun i => paOfDpa (a + 4096 * i) / 4096)) ∧
    (¬ inHdm → t.hub.biasErr = true ∧ t.hub.flip = none)) ∧
  (s.hub.flip = some f → f.toDevice = true →
    ((∀ e ∈ s.hub.halves, ¬ mine e.1) → (∀ e ∈ s.hub.snoops, ¬ mine e.1) →
      ∃ t, exec .biasFlipComplete s = .next t ∧ t = { s with hub := t.hub } ∧ t.hub.flip = none ∧ ∀ p, p ∈ t.hub.devBias ↔ p ∈ s.hub.devBias ∨ p ∈ f.pages) ∧
    ((∃ e ∈ s.hub.halves, mine e.1 ∧ tget s.hub.snoops e.1 = none) →
      ∃ t, exec .biasFlipComplete s = .next t ∧ t.hub.flip = some f ∧ t.mem = s.mem ∧ (∀ e ∈ s.hub.halves, mine e.1 → (tget t.hub.snoops e.1).isSome = true) ∧
        ∀ e ∈ s.hub.halves, mine e.1 → tget s.hub.snoops e.1 = none → .bisnp "BISnpInv" (dpaOf (64 * e.1)) ∈ t.out)) ∧
  (s.hub.flip = some f → f.toDevice = false → s.flipDrained f = true →
    ∃ t, exec .biasFlipComplete s = .next t ∧ t.mem = s.mem ∧ t.threads = s.threads ∧ t.hub.flip = none ∧ (∀ p, p ∈ t.hub.devBias ↔ p ∈ s.hub.devBias ∧ p ∉ f.pages) ∧
      (∀ e ∈ t.hub.halves, ¬ mine e.1) ∧ ∀ d, (∀ c ∈ (t.die d).copies, c.line / 32 ∉ f.pages) ∧ ∀ e ∈ (t.die d).sectors, e.1 / 4 ∉ f.pages)

/-- R408, R440: the DOE mailbox gives a CXL table, and the answers of SPDM: the version and the capabilities; outside
RMA the hash of a measurement with the caller's nonce, and the hub's share of a session, each signed with the alias
key. Where the manual leaves a point open, log entries 10 and 91 name the model's choice. -/
def Obligations.Attestation : Prop := ∀ (s : State) (i : Nat) (nonce share : List W8),
  let tells (j : Instr) (b : List W8) : Prop := exec j s = .next { s with out := s.out ++ [.doe b] }
  let signed (kind : Nat) (l : List (List W8)) : List W8 :=
    Config.spdmMessage kind (l ++ [Config.ecdsaSign s.hub.aliasKey (Config.sha384 (Config.spdmMessage kind l))])
  tells (.cxlTableAccess i) (Config.cxlTable i) ∧ tells .spdmGetVersion (Config.spdmMessage 0 []) ∧ tells .spdmGetCapabilities (Config.spdmMessage 1 []) ∧
  (s.hub.lcState ≠ 3 →
    (1 ≤ i → i ≤ 5 → tells (.spdmGetMeasurements i nonce) (signed 2 [nonce, natBytes i 1, Config.sha384 (s.measured i)])) ∧
    tells (.spdmGetMeasurements 0xFF nonce) (signed 2 (nonce :: [1, 2, 3, 4, 5].flatMap (fun j => [natBytes j 1, Config.sha384 (s.measured j)]))) ∧
    ∃ t e, exec (.spdmKeyExchange share) s = .next t ∧ t.hub.sessions = s.hub.sessions + 1 ∧ t.mem = s.mem ∧ t.threads = s.threads ∧
      t.out = s.out ++ [.doe (signed 3 [share, Config.ecdheShare e share])]) ∧
  (s.measured 1 = Config.bootRomImage ∧ s.measured 2 = s.hub.image)

/-! ### Resets, the mailbox and registers -/

/-- R431, R433 to R436, Table 26-5: at power-good, a CXL reset, a function-level reset of function 0 and a write of
DEVRST the device boots the first slot's image that it accepts: nothing runs, every register is at its reset value,
and memory is zero but for the hub's error ring; with no image it stops in recovery, and a scrapped device stops short
of service. A loss of power leaves nothing. R424: the reset of a virtual function, by VFRST or by FLR, ends with its
negotiation undone; one with nothing in progress has its queues off, its memory zero, and the memory of others as it
was. Where the manual leaves a point open, log entries 2, 4, 6 and 96 name the model's choice. -/
def Obligations.Resets : Prop :=
  (∀ (s : State) (val : W64),
    let boots : List Instr := [.powerGood, .cxlReset, .pf0Flr, .devrstWrite val]
    let able (i : Instr) : Prop := match i with | .powerGood => True | .devrstWrite v => s.ready = true ∧ v.getLsbD 0 = true | _ => s.hub.devStat ≠ 0
    let images := if s.hub.tryB then [s.hub.slotB, s.hub.slotA] else [s.hub.slotA, s.hub.slotB]
    let idle (t : State) : Prop := t.threads = [] ∧ t.waves = [] ∧ t.teams = [] ∧ t.launches = [] ∧ t.sheaves = [] ∧ t.accs = [] ∧ t.engines = [] ∧ t.streams = [] ∧
      t.vfs = [] ∧ t.chans = [] ∧ t.waits = [] ∧ t.execs = [] ∧ ∀ d, t.die d = { view := (t.die d).view }
    let inRing (x : Nat) : Prop := ringOkRegs s.hub.err.elBase.toNat s.hub.err.elSize.toNat = true ∧
      s.hub.err.elBase.toNat ≤ x ∧ x < s.hub.err.elBase.toNat + 32 * s.hub.err.elSize.toNat
    let wiped (t : State) : Prop := ∀ x, ¬ inRing x → memGet t.mem.home x = unwrittenByte
    (∀ i ∈ boots, able i →
      (∀ img, images.find? (imageOk s.hub.svn) = some img →
        ∃ t, exec i s = .next t ∧ idle t ∧ wiped t ∧ t.hub.image = img ∧ t.hub.lcState = s.hub.lcState ∧ t.hub.fatal = false ∧
          (if s.hub.lcState = 4 then t.hub.devStat = 4 else t.hub.devStat = 6 ∧ t.hub.linkUp = true ∧ t.hub.svn = max s.hub.svn (imageSvn img))) ∧
      (images.find? (imageOk s.hub.svn) = none → ∃ t, exec i s = .next t ∧ idle t ∧ t.hub.devStat = 0xF ∧ t.hub.image = [])) ∧
    (s.ready = false ∨ val.getLsbD 0 = false → exec (.devrstWrite val) s = .next s) ∧
    (∃ t, exec .powerLoss s = .next t ∧ idle t ∧ t.mem.home = [] ∧ t.hub.devStat = 0 ∧ t.hub.slotA = s.hub.slotA ∧ t.hub.slotB = s.hub.slotB ∧
      t.hub.lcState = s.hub.lcState ∧ t.hub.svn = s.hub.svn)) ∧
  (∀ (s : State) (v : Nat) (val : W64), v < 64 →
    (s.ready = false ∨ val.getLsbD 0 = false → exec (.vfrstWrite v val) s = .next s) ∧
    (s.ready = true → ∀ i ∈ ([.vfrstWrite v (val ||| 1), .vfFlr v] : List Instr),
      ∃ t, exec i s = .next t ∧ (t.vf v).negd = false ∧ (t.vf v).feat = [] ∧ (t.vf v).rstBusy = false ∧
        (s.vfTeams v = [] → (∀ e ∈ s.launches, e.2.vf ≠ v) → s.accs = [] → (∀ e ∈ s.engines, e.2.job = none ∧ e.2.chains = []) → s.inbound = [] →
          s.mem.reduce = [] → Memory.wf s.mem = true → (∀ d, (s.die d).inbox = []) →
          (∀ q, (t.queue v q).en = false) ∧ t.threads = s.threads ∧
          ∀ x, memGet t.mem.home x = if s.vfOwns v x then 0 else memGet s.mem.home x)))

/-- R436 to R439: LOAD_FW puts an accepted image into the slot that did not boot, which the next boot tries first, and
leaves the slots alone for another; LC_TRANSITION takes only the transitions of Table 26-7, the token where one is
due, and resets the device with its new state; other operations are refused. Where the manual leaves a point open, log
entries 6, 10 and 95 name the model's choice. -/
def Obligations.MailboxCommands : Prop := ∀ (s : State) (val : W64),
  let pa := val.toNat / 4096 * 4096
  let byte (i : Nat) : W8 := s.homeByte (pa + i)
  let word (i : Nat) : Nat := bytesNat [byte i, byte (i + 1), byte (i + 2), byte (i + 3)]
  let img := (upto (0x160 + word 12)).map byte
  let token := (upto 0x90).map (fun i => byte (16 + i))
  let new := word 0
  let old := s.hub.lcState
  let allowed : Prop := (old = 0 ∧ new = 1) ∨ (old = 1 ∧ new = 2) ∨ (old = 2 ∧ new = 3) ∨ (old ≠ 4 ∧ new = 4)
  let needs : Prop := new = 1 ∨ new = 3
  let ended (i : Instr) (err : W64) : Prop := ∃ t, exec i s = .next t ∧ t.hub.mbStat = err ∧ t.hub.mbCmd = val &&& ~~~ 0xFFC#64 ∧ t.hub.slotA = s.hub.slotA ∧ t.hub.slotB = s.hub.slotB ∧
    t.hub.lcState = old ∧ t.mem = s.mem ∧ t.threads = s.threads
  (val.toNat % 4 = 1 → s.ready = true ∨ s.hub.devStat = 0xF →
    (paOk pa = false → ended (.loadFw val) 6) ∧
    (paOk pa = true → paOk (pa + 0x160 + word 12) = true →
      (imageOk s.hub.svn img = false → ended (.loadFw val) 2) ∧
      (imageOk s.hub.svn img = true → ∃ t, exec (.loadFw val) s = .next t ∧ t.hub.mbStat = 0 ∧ t.hub.tryB = !s.hub.activeB ∧
        t.hub.slotA = (if s.hub.activeB then img else s.hub.slotA) ∧ t.hub.slotB = (if s.hub.activeB then s.hub.slotB else img) ∧
        t.mem = s.mem ∧ t.threads = s.threads))) ∧
  (val.toNat % 4 = 2 → s.ready = true →
    (paOk pa = false → ended (.lcTransition val) 6) ∧
    (paOk pa = true →
      (¬ allowed → ended (.lcTransition val) 4) ∧
      (allowed → needs → (word 4 ≠ 0x90 ∨ s.tokenOk new token = false) → ended (.lcTransition val) 2) ∧
      (allowed → ¬ needs → word 4 ≠ 0 → ended (.lcTransition val) 6) ∧
      (allowed → (needs → word 4 = 0x90 ∧ s.tokenOk new token = true) → (¬ needs → word 4 = 0) →
        ∃ t, exec (.lcTransition val) s = .next t ∧ t.hub.lcState = new ∧ t.threads = [] ∧ t.launches = [] ∧ t.accs = [] ∧ t.vfs = [] ∧
          t.hub.idKey = (if new = 1 then true else if new = 3 then false else s.hub.idKey)))) ∧
  (s.ready = true → val.toNat % 4 = 0 ∨ val.toNat % 4 = 3 → ended (.mbcmdBadOp val) 6) ∧
  (s.ready = false → s.hub.devStat ≠ 0xF → (val.toNat % 4 = 1 → exec (.loadFw val) s = .next s) ∧ (val.toNat % 4 = 2 → exec (.lcTransition val) s = .next s) ∧
    (val.toNat % 4 = 0 ∨ val.toNat % 4 = 3 → exec (.mbcmdBadOp val) s = .next s))

/-- R337, R417, R422, R423, R404, R432, R441, R370, R435: writes of registers with a rule of their own. Where the
manual leaves a point open, log entries 80, 103 and 110 name the model's choice. -/
def Obligations.RegisterRules : Prop := ∀ (s : State) (v q d st p : Nat) (val : W64), v < 64 → q < 8 → d < nDies → st < 4 → p < nPackages →
  let req (i : Nat) : W64 := tgetD (s.vf v).feat i 0
  let granted : Prop := (req 0).getLsbD 0 = true ∧ req 0 &&& ~~~ 0x3FF#64 = 0 ∧ ∀ i, 1 ≤ i → i < 8 → req i = 0
  let all : List Instr := [.negoWrite v val, .hqctlWrite v q val, .vfctlWrite v val, .fqtailWrite d val, .mgstatWrite d val, .fabrtWrite p val, .nmwdtWrite d st val, .pwrlimWrite val]
  let only (i : Instr) (f : State → Prop) : Prop := ∃ t, exec i s = .next t ∧ f t ∧ t.mem = s.mem ∧ t.threads = s.threads
  (s.ready = false → ∀ i ∈ all, exec i s = .next s) ∧
  (s.ready = true →
    (val.getLsbD 0 = true → granted → only (.negoWrite v val) (fun t => (t.vf v).negd = true ∧ (t.vf v).nerr = false ∧ ∀ i, i < 8 → tgetD (t.vf v).feat i 0 = req i)) ∧
    (val.getLsbD 0 = true → ¬ granted → only (.negoWrite v val) (fun t => (t.vf v).negd = false ∧ (t.vf v).nerr = true)) ∧
    ((s.queue v q).en = true → only (.hqctlWrite v q val) (fun t => t.queue v q = { s.queue v q with en := val.getLsbD 0 })) ∧
    ((s.queue v q).en = false → val.getLsbD 0 = false → only (.hqctlWrite v q val) (fun t =>
      t.queue v q = { s.queue v q with err := (s.queue v q).err && !val.getLsbD 1, asid := (val >>> 16) &&& 0xFFFF })) ∧
    ((s.queue v q).en = false → val.getLsbD 0 = true → (s.vf v).negd = false → only (.hqctlWrite v q val) (fun t => (t.queue v q).err = true ∧ (t.queue v q).ecode = 3)) ∧
    (∀ g e, let u := s.modQueue v q (fun h => { h with en := true, err := h.err && !val.getLsbD 1, asid := (val >>> 16) &&& 0xFFFF })
      (s.queue v q).en = false → val.getLsbD 0 = true → u.queueOk v (u.queue v q) = true → Quiet s → u.vaTarget (u.queue v q).asid.toNat (s.queue v q).tail.toNat = .ok (.pkg e) →
      (u.devRead e (u.queue v q).asid.toNat (s.queue v q).tail.toNat 8).1 = .ok g →
      ∃ t, exec (.hqctlWrite v q val) s = .next t ∧ (t.queue v q).en = true ∧ (t.queue v q).head = BitVec.ofNat 64 (at' g.bytes 0 8) ∧
        (t.queue v q).seen = (t.queue v q).head ∧ t.threads = s.threads) ∧
    only (.vfctlWrite v val) (fun t => (t.vf v).nfwd = val.getLsbD 1 ∧ (t.vf v).cenf = val.getLsbD 2 ∧
      (val.getLsbD 0 = false → (t.vf v).en = false) ∧ (val.getLsbD 0 = true → (s.vf v).en = true → (t.vf v).en = true) ∧
      (val.getLsbD 0 = true → (s.vf v).en = false → (t.vf v).en = !s.asidClash v ∧ (t.vf v).cfgErr = s.asidClash v)) ∧
    only (.fqtailWrite d val) (fun t => (t.die d).fqTail = val ∧ (t.die d).fqHead = (s.die d).fqHead ∧
      ((s.die d).fqHead ≠ val → (s.die d).fqCtl.getLsbD 1 = true → (t.die d).err.mgStat.getLsbD 0 = true)) ∧
    only (.mgstatWrite 4 val) (fun t => t.hub.err.mgStat = s.hub.err.mgStat &&& ~~~ val) ∧
    only (.mgstatWrite d val) (fun t => ∀ i, (t.die d).err.mgStat.getLsbD i =
      (((s.die d).err.mgStat.getLsbD i && !val.getLsbD i) || (decide (i = 0) && (s.die d).fqHead != (s.die d).fqTail && (s.die d).fqCtl.getLsbD 1))) ∧
    only (.fabrtWrite p val) (fun t => tget t.hub.fabRt p = some (val &&& 0x3FFFF) ∧ t.chans = s.chans) ∧
    only (.nmwdtWrite d st val) (fun t => ∃ r, tget (t.die d).nm st = some r ∧ r.nmWdt = BitVec.ofNat 64 (max 4096 (val.toNat % 2 ^ 32))) ∧
    only (.pwrlimWrite val) (fun t => t.hub.pwrLim = BitVec.ofNat 64 (min 3000 (max 1200 (val.toNat % 2 ^ 12)))))

/-- R3, R331, R368, R426, R435, Tables 17-7, 18-4, 20-6, 25-6, 26-3: every other register takes the written value at
its offset of BAR0, in its die's, its function's or the hub's block; a queue's registers stand still while it is
enabled; offsets that hold none, and every register before the device is ready, ignore the write. L2HID reads 1, a
read mask of guest ways that nothing has written reads 0xF, and a register of a die reads what was written; FQCTL
keeps EN and IE, and its OVF is cleared by 1, or set when the queue starts full with records waiting (R368). Where the
manual leaves a point open, log entry 104 names the model's choice. -/
def Obligations.RegistersTakeWrites : Prop := ∀ (s : State) (d v q k : Nat) (val : W64), d < nDies → v < 64 → q < 8 →
  let off (b o : Nat) : Instr := .registerWrite (b * 2 ^ 20 + o) val
  let queue (f : HostQueue) : State := s.modQueue v q (fun _ => f)
  let dies : List (Nat × State) := [(0x008, s.modDie d (fun x => { x with migCtl := val &&& 0xFFFF0003 })), (0x018, s.modDie d (fun x => { x with mtArg0 := val })),
    (0x020, s.modDie d (fun x => { x with mtArg1 := val })), (0x028, s.modDie d (fun x => { x with mtArg2 := val })), (0x038, s.modDie d (fun x => { x with astBase := val })),
    (0x040, s.modDie d (fun x => { x with migVf := val })), (0x800, s.modDie d (fun x => { x with schCtl := val &&& 0x0000FFFFFFFFFFFF })),
    (0x810, s.modDie d (fun x => { x with btArg0 := val })), (0x900, s.modDie d (fun x => { x with fqBase := val })), (0x908, s.modDie d (fun x => ({ x with fqSize := val } : Die).overflow)),
    (0x930, s.modDie d (fun x => { x with fqArg := val })), (0x948, s.modDie d (fun x => { x with dbgArg0 := val })), (0x958, s.modDie d (fun x => { x with dbgData := val })),
    (0x968, s.modDie d (fun x => { x with dbgVf := val })), (0xD00, s.modDie d (fun x => { x with err := { x.err with elBase := val } })),
    (0xD08, s.modDie d (fun x => { x with err := { x.err with elSize := val } })), (0xD18, s.modDie d (fun x => { x with err := { x.err with elTail := val } }))]
  let functions : List (Nat × State) := [(0x18, s.modVf v (fun x => { x with vfAsid := val &&& 0xFFFFFFFF })), (0x60, s.modVf v (fun x => { x with vfCol0 := val })),
    (0x68, s.modVf v (fun x => { x with vfCol1 := val })), (0x70, s.modVf v (fun x => { x with fabTag := val &&& 0x1FFFF }))]
  let tenancy : List (Nat × State) := [(0x9888, s.modHub (fun h => { h with biasArg0 := val })), (0x9890, s.modHub (fun h => { h with biasArg1 := val })),
    (0x98C0, s.modHub (fun h => { h with fabId := val &&& 0x7FF })), (0x98C8, s.modHub (fun h => { h with fabSize := val &&& 0xFFF }))]
  let queues : List (Nat × State) := [(0x00, queue { s.queue v q with base := val &&& 0x01FFFFFFFFFFFFFF }), (0x08, queue { s.queue v q with size := val &&& 0x1FFFF }),
    (0x10, queue { s.queue v q with tail := val &&& 0x01FFFFFFFFFFFFFF }), (0x18, queue { s.queue v q with cw := val &&& 0x01FFFFFFFFFFFFFF })]
  let takes (i : Instr) (t : State) : Prop := exec i s = .next (if s.ready then t else s)
  (∀ e ∈ dies, takes (off (2 + d) e.1) e.2) ∧ (∀ e ∈ functions, takes (off 1 (0x100 * v + e.1)) e.2) ∧ (∀ e ∈ tenancy, takes (off 1 e.1) e.2) ∧
  (∀ e ∈ queues, if (s.queue v q).en then exec (off 0 (0x8000 + 0x200 * v + 0x40 * q + e.1)) s = .next s
    else takes (off 0 (0x8000 + 0x200 * v + 0x40 * q + e.1)) e.2) ∧
  (k < 8 → takes (off 1 (0x100 * v + 0x80 + 8 * k)) (s.modVf v (fun x => { x with feat := tset x.feat k val }))) ∧
  (k < 64 → takes (off (2 + d) (0x1000 + 32 * k)) (s.modDie d (fun x => { x with
    vfs := tset x.vfs k { tgetD x.vfs k {} with tvec := val &&& 0x01FFFFFFFFFFFFFD } }))) ∧
  (k < 0x1000000 → k % 8 ≠ 0 ∨ 0x600000 ≤ k → exec (.registerWrite k val) s = .next s) ∧
  (s.ready = true → ∃ t, exec (off (2 + d) 0x920) s = .next t ∧ (t.die d).fqCtl.getLsbD 0 = val.getLsbD 0 ∧ (t.die d).fqCtl.getLsbD 1 = val.getLsbD 1 ∧
    (t.die d).fqCtl.getLsbD 2 = (((s.die d).fqCtl.getLsbD 2 && !val.getLsbD 2) ||
      (val.getLsbD 0 && !(s.die d).fqCtl.getLsbD 0 && (s.die d).fqFull && !(s.die d).faults.isEmpty))) ∧
  (let rd (t : State) (o : Nat) : W64 := t.regRead ((2 + d) * 2 ^ 20 + o)
   rd s 0 = 1 ∧ (tget (s.die d).gwm v = none → rd s (0x100 + 8 * v) = 0xF) ∧
   ∀ e ∈ dies, e.1 ∈ ([0x018, 0x020, 0x028, 0x038, 0x040, 0x810, 0x900, 0x908, 0x930, 0x948, 0x958, 0x968] : List Nat) → rd e.2 e.1 = val)

/-! ### The fabric and the fetch -/

/-- R130, R418, R419: the oldest access of an outbound channel leaves as a message of its type while its package has a
route, and parks its lane with code 2 where it has none; on an inbound channel a performed access is answered with its
value and its flags, and then the next request is issued at home or answered with the fault it meets. The places of an
answer's fields are the model's own (log entry 15). Where the manual leaves a point open, log entries 15 and 16 name
the model's choice. -/
def Obligations.ChannelsDeliver : Prop := ∀ (s : State) (core pkg g : Nat) (a : Acc) (rest : List Nat) (f : Flit) (fs : List Flit),
  let c := s.chan core pkg
  let key := chanKey core pkg
  (Stands s g a → c.q = g :: rest →
    (∀ p, s.usePort core pkg = some p →
      ∃ t, exec (.packageChannelDelivery false core pkg) s = .next t ∧ Sent s t a.flitType core pkg (s.tagOf (s.vfOfAcc a)) a.va.toNat a.ops a.flitData ∧
        t.chan core pkg = { q := rest, flight := c.flight ++ [g], port := some p, seq := c.seq + 1 } ∧ tget t.accs g = some { a with num := c.seq } ∧
        t.mem = s.mem ∧ t.threads = s.threads) ∧
    (∀ k, s.usePort core pkg = none → a.owner = .thread k → a.block = false → (tget s.threads k).isSome = true → (s.thread k).stat = .ready → (s.thread k).sup = false →
      ∃ t, exec (.packageChannelDelivery false core pkg) s = .next t ∧ (t.chan core pkg).q = rest ∧ (t.thread k).stat = .parked ∧
        (∃ p, (t.thread k).park = some p ∧ p.kind = 2 ∧ p.gid = g) ∧ t.mem = s.mem)) ∧
  (∀ tag, s.remoteAcc core pkg = some (a, tag) → a.applied = true →
    let reads := a.kind = .load ∨ a.kind = .atomic
    ∃ t, exec (.packageChannelDelivery true core pkg) s = .next t ∧ tget t.accs a.gid = none ∧ t.mem = s.mem ∧ t.threads = s.threads ∧
      ((a.kind = .load → a.op ≠ kHeaderInvalid) →
        Sent s t (if reads then 5 else 6) core pkg tag a.va.toNat (a.tileNo + a.ty * 2 ^ 32 + (if a.bad then 2 ^ 55 else 0))
          (if a.block then a.cells.map (·.2) else natBytes a.res.toNat 8 ++ natBytes a.flags.toNat 4))) ∧
  (s.remoteAcc core pkg = none → tgetD s.inbound key [] = f :: fs →
    ∃ t, exec (.packageChannelDelivery true core pkg) s = .next t ∧ tgetD t.inbound key [] = fs ∧ t.threads = s.threads ∧
      ((∃ b, b ∈ t.accs ∧ b.2.owner = .remote (fhdr f).src (fhdr f).core (fhdr f).tag ∧ b.2.tileNo = (fhdr f).seq ∧
          ((fhdr f).ops / 2 ^ 16 % 2 ^ 8 ≠ 0x89 → b.2.va = BitVec.ofNat 57 (fhdr f).va)) ∨ (s.usePort core pkg = none) ∨
        ∃ p x, .flit p x ∈ t.out ∧ (fhdr x).ops / 2 ^ 56 ≠ 0))

/-- R418, R419, R430: a request for a function of this package waits for its turn in its channel; any other is refused
with type 7, as collective data is where no function takes it. Where the manual leaves a point open, log entries 15
and 16 name the model's choice. -/
def Obligations.RequestsQueue : Prop := ∀ (s : State) (f : Flit),
  let h := fhdr f
  let key := chanKey h.core h.src
  let kinds : List (Nat × Instr) := [(1, .fabricRead f), (2, .fabricWrite f), (3, .fabricAtomic f), (4, .fabricRed f)]
  let refused (i : Instr) (kind : Nat) : Prop := ∃ t, exec i s = .next t ∧ Sent s t 7 h.core h.src h.tag h.va (h.seq + kind * 2 ^ 56) [] ∧ t.mem = s.mem ∧
    t.accs = s.accs ∧ t.inbound = s.inbound ∧ t.coll = s.coll
  (∀ e ∈ kinds, flitOk f e.1 = true →
    (s.fabricVf h = none → refused e.2 2) ∧
    ∀ v, s.fabricVf h = some v → ∃ t, exec e.2 s = .next t ∧ t = { s with inbound := t.inbound } ∧ tget t.inbound key = some (tgetD s.inbound key [] ++ [f]) ∧
      ∀ k, k ≠ key → tget t.inbound k = tget s.inbound k) ∧
  (flitOk f 0x20 = true →
    (s.fabricVf h = none → refused (.fabricCollectiveData f) 2) ∧
    ∀ v, s.fabricVf h = some v → (s.feature v 7 = false → refused (.fabricCollectiveData f) 0) ∧
      (s.feature v 7 = true → ∃ t m, exec (.fabricCollectiveData f) s = .next t ∧ t = { s with coll := s.coll ++ [m] } ∧
        m.grp = BitVec.ofNat 64 h.va ∧ m.data = f.data ∧ m.turn = h.ops / 2 ^ 13 % 2 ^ 19 ∧ m.rank = h.ops % 2 ^ 13 ∧ m.chunk = h.ops / 2 ^ 32 % 2 ^ 32)) ∧
  (flitReserved h.type = true → ∃ t, exec (.fabricReservedFlit f) s = .next t ∧ t = { s with hub := { s.hub with fabErr := s.hub.fabErr + 1 } })

/-- R130, R224, R354, R355, R419, R421: an answer gives the access in flight its value in the type that its page gave
it, or ends it, or parks its lane with the fault that it carries; a value of 64 bits for a register that is no pair
raises `RESERVED_FIELD`; a refusal parks the lane with code 2. A barrier's arrivals, at the domain node of the
admitting die, and its release, and the abort of a collective, do their part here. The places of an answer's fields
and the nodes' entries are the model's own (log entries 15, 119). Where the manual leaves a point open, log entries
15, 94 and 100 name the model's choice. -/
def Obligations.AnswersArrive : Prop := ∀ (s : State) (f : Flit) (a : Acc) (k r : Nat) (v : Res) (own : Bool),
  let h := fhdr f
  let kind := h.ops / 2 ^ 56 % 2 ^ 8
  let fl (t : State) : Prop := (t.chan h.core h.src).flight = (s.chan h.core h.src).flight.filter (· ≠ a.gid) ∧ tget t.accs a.gid = none
  let parks (i : Instr) (n : Nat) : Prop := ∃ t, exec i s = .next t ∧ fl t ∧ (t.thread k).stat = .parked ∧ t.mem = s.mem ∧
    ∃ p, (t.thread k).park = some p ∧ p.kind = n ∧ p.gid = a.gid ∧ p.pc = a.pc
  let awaits : Prop := a.dst = some r ∧ tget (s.thread k).pend r = some a.gid ∧ (s.thread k).stat ≠ .exited
  let ty := h.ops / 2 ^ 32 % 2 ^ 5
  let wide : Prop := fmtWidth ty = 64
  let data (x : Nat) : W8 := f.data.getD (x - a.va.toNat) 0
  let stands : Prop := (s.thread k).stat = .ready ∧ (s.thread k).sup = false
  (s.flightOf h = some a → Stands s a.gid a → a.owner = .thread k → (tget s.threads k).isSome = true → (a.kind = .store → a.page.cc ≠ 3) → a.block = false →
    (flitOk f 5 = true → kind = 0 → a.kind = .load → awaits → ({ a with ty := ty, elem := { a.elem with width := fmtWidth ty } } : Acc).loadValue data [] = some (v, own) →
      (¬ wide → ∃ t, exec (.fabricDataResponse f) s = .next t ∧ fl t ∧ tget (t.thread k).regs r = some (.live (BitVec.ofNat 32 v.1)) ∧ t.mem = s.mem) ∧
      (wide → r % 2 = 0 → ∃ t, exec (.fabricDataResponse f) s = .next t ∧ fl t ∧ tget (t.thread k).regs r = some (.live (lo32 (BitVec.ofNat 64 v.1))) ∧
        tget (t.thread k).regs (r + 1) = some (.live (hi32 (BitVec.ofNat 64 v.1))) ∧ t.mem = s.mem)) ∧
    (flitOk f 5 = true → kind = 0 → a.kind = .load → awaits → wide → r % 2 = 1 → stands → bitAt (s.trapRegs (tkOf k)).tvec.toNat 0 = false →
      ∃ t, exec (.fabricDataResponse f) s = .next t ∧ fl t ∧ (t.thread k).stat = .parked ∧ ∃ p, (t.thread k).park = some p ∧ p.kind = tReservedField ∧ p.pc = a.pc) ∧
    (flitOk f 6 = true → kind = 0 → a.kind = .store → a.more = [] → ∃ t, exec (.fabricAcknowledgement f) s = .next t ∧ fl t ∧ t.mem = s.mem) ∧
    (flitOk f 5 = true → kind ≠ 0 → kind ≠ 255 → stands → parks (.fabricDataResponse f) kind) ∧
    (flitOk f 6 = true → kind ≠ 0 → kind ≠ 255 → stands → parks (.fabricAcknowledgement f) kind) ∧
    (flitOk f 7 = true → stands → parks (.fabricRefusal f) 2)) ∧
  (flitOk f 0x10 = true → ∃ t, exec (.fabricBarrierArrival f) s = .next t ∧ t = { s with bars := t.bars, dies := t.dies } ∧
    (s.launches = [] → t.dies = s.dies) ∧
    (∀ e l, s.launches = [(e, l)] → l.num = h.ops % 2 ^ 16 → l.stage = .admitted → l.teamLevel < h.ops / 2 ^ 16 % 2 ^ 3 → 5 ≤ l.dom (h.ops / 2 ^ 16 % 2 ^ 3) →
      l.gid (h.ops / 2 ^ 16 % 2 ^ 3) (h.ops / 2 ^ 19 % 2 ^ 8) (h.ops / 2 ^ 28 % 2 ^ 36) = BitVec.ofNat 64 h.ops → s.teams = [] → (s.die l.adie).bt = [] → (s.die l.adie).btOut = [] →
      h.src ∉ tgetD s.bars h.ops [] → ∃ y, t.btFind l.adie (BitVec.ofNat 64 h.ops) 2 = some y ∧ y.arrived = y.expected - 1 ∧ y.expected = 2 + (tgetD s.bars h.ops []).length) ∧ h.src ∈ tgetD t.bars h.ops [] ∧
    (∀ x, x ∈ tgetD t.bars h.ops [] ↔ x = h.src ∨ x ∈ tgetD s.bars h.ops []) ∧ ∀ x, x ≠ h.ops → tget t.bars x = tget s.bars x) ∧
  (flitOk f 0x11 = true →
    ((∀ w ∈ s.waits, s.waitGid w ≠ some (BitVec.ofNat 64 h.ops)) → exec (.fabricBarrierRelease f) s = .next s) ∧
    ∀ i w t, s.waits[i]? = some w → s.waitGid w = some (BitVec.ofNat 64 h.ops) → (∀ j x, j < i → s.waits[j]? = some x → s.waitGid x ≠ some (BitVec.ofNat 64 h.ops)) →
      exec (.barrierRelease i) s = .next t → exec (.fabricBarrierRelease f) s = .next t) ∧
  (flitOk f 0x21 = true → ∃ t, exec (.fabricCollectiveAbort f) s = .next t ∧ (∀ m ∈ t.coll, m.grp ≠ BitVec.ofNat 64 h.va) ∧ t.mem = s.mem ∧
    ∀ d, d < nDies → BitVec.ofNat 64 h.va ∈ (t.engine (collEng d)).aborted ∧
      ∀ j, (s.engine (collEng d)).job = some j → j.kind = 2 → flitGid j.grp = BitVec.ofNat 64 h.va → j.status = 0 → j.faulted = none →
        ∃ x, (t.engine (collEng d)).job = some x ∧ x.status = 3 ∧ x.flags = 1 ∧ x.entry = j.entry)

/-- R417, R419: a port that goes down ends every request in flight on its channels, whose lane parks with code 2, and
a channel with nothing in flight takes the port of its route. Where the manual leaves a point open, log entries 16 and
100 name the model's choice. -/
def Obligations.PortsAndRoutes : Prop := ∀ (s : State) (p core pkg : Nat),
  (p < 18 → p ∉ s.hub.portsDown →
    ((∀ e ∈ s.chans, e.2.port = some p → e.2.flight = []) →
      ∃ t, exec (.fabricPortDown p) s = .next t ∧ t.hub.portsDown = s.hub.portsDown ++ [p] ∧ t.accs = s.accs ∧ t.threads = s.threads ∧ t.mem = s.mem) ∧
    (∀ g a k, s.chans = [(chanKey core pkg, { port := some p, flight := [g] })] → Stands s g a → a.owner = .thread k → (tget s.threads k).isSome = true →
      (s.thread k).stat = .ready → (s.thread k).sup = false → (a.kind = .store → a.page.cc ≠ 3) →
      ∃ t, exec (.fabricPortDown p) s = .next t ∧ p ∈ t.hub.portsDown ∧ (t.chan core pkg).flight = [] ∧ tget t.accs g = none ∧ (t.thread k).stat = .parked ∧
        ∃ x, (t.thread k).park = some x ∧ x.kind = 2 ∧ x.gid = g)) ∧
  (core < nCores → (s.chan core pkg).flight = [] → (s.chan core pkg).port ≠ s.routePort core pkg →
    ∃ t, exec (.fabricRouteSwitch core pkg) s = .next t ∧ t = { s with chans := t.chans } ∧ t.chan core pkg = { s.chan core pkg with port := s.routePort core pkg })

/-- R105, R309, R381: the lines at a sheaf's PC are fetched anew from the view of its die, at a time that a relaxed
load may take; one parity error is corrected and leaves the sheaf as it was, a second raises `INST_POISON`, and a
translation that fails parks the threads with its fault. Where the manual leaves a point open, log entry 93 names the
model's choice. -/
def Obligations.FetchesAnew : Prop := ∀ (s : State) (k j bad back kind : Nat) (h : Sheaf) (p : Page) (w w2 : W32), s.sheaves[k]? = some h → h.tids = [j] → h.team = tkOf j →
    (tget s.threads j).isSome = true → (s.thread j).sup = false → h.trapped = [] →
  let va := h.pc.toNat
  let asid := s.asidOf j
  let d := dieOfCore h.core
  (∀ u, (s.bring k).fetchAt h true back = (.ok (w, w2), u) →
    (bad = 0 → ∃ t, exec (.instructionFetch ⟨k, back⟩ bad) s = .next t ∧ t.threads = s.threads ∧ t.front = some { h with refetch := 0 } ∧
      (s.mem.reduce = [] → isModifier w = false → (s.translate asid va false true).1 = .ok p → va % 4 = 0 → p.pa % lineBytes = 0 → p.va % lineBytes = 0 → p.va ≤ va →
        ∃ T, T ≤ (s.die d).clock ∧ (s.die d).clock - loadWindow ≤ T ∧ (back = 0 → T = (s.die d).clock) ∧
          w = wordOf ((upto 4).map (fun i => (s.die d).byte T (p.pa + (va - p.va) + i))))) ∧
    (bad = 1 → h.refetch = 0 → ∃ t, exec (.instructionFetch ⟨k, back⟩ bad) s = .next t ∧ t.threads = s.threads ∧ t.front = some { h with refetch := 1 }) ∧
    (bad = 1 → 1 ≤ h.refetch → bitAt (s.trapRegs (tkOf j)).tvec.toNat 0 = false → (s.thread j).stat = .inSheaf →
      ∃ t, exec (.instructionFetch ⟨k, back⟩ bad) s = .next t ∧ (t.thread j).stat = .parked ∧ ∃ x, (t.thread j).park = some x ∧ x.kind = tInstPoison ∧ x.pc = h.pc)) ∧
  ((s.translate asid va false true).1 = .error kind → (s.thread j).stat = .inSheaf →
    ∃ t, exec (.instructionFetch ⟨k, back⟩ bad) s = .next t ∧ (t.thread j).stat = .parked ∧ t.mem = s.mem ∧
      ∃ x, (t.thread j).park = some x ∧ x.kind = kind ∧ x.access = 4 ∧ x.pc = h.pc)

/-! ### The machine as a whole -/

/-- R433, R435, Tables 17-7, 18-6, 20-6, 23-4, 25-6, 26-3, 26-9: what reset leaves: memory reads zero and holds no
poison, nothing runs, and every register of a die, a function, a queue and the hub is at the value its table gives.
That reset is the machine after its boot, with DEVSTAT 6, is the model's reading (log entry 2). Where the manual
leaves a point open, log entries 2, 4, 6 and 8 name the model's choice. -/
def Obligations.ResetState : Prop :=  let r := State.reset
  (∀ x, memGet r.mem.home x = 0) ∧ r.mem.poison = [] ∧ Memory.wf r.mem = true ∧ r.threads = [] ∧ r.launches = [] ∧ r.teams = [] ∧ r.accs = [] ∧ r.hub.devStat = 6 ∧
  (∀ d, let x := r.die d
    x.clock = 0 ∧ x.n = [0, 0, 0, 0] ∧ x.h = 0 ∧ x.schCtl = 0x0000010000100000 ∧ x.migCtl = 0 ∧ x.mtStat = 0 ∧ x.mtArg0 = 0 ∧ x.mtArg1 = 0 ∧ x.mtArg2 = 0 ∧ x.astBase = 0 ∧ x.migVf = 0 ∧
    x.fqBase = 0 ∧ x.fqSize = 0 ∧ x.fqHead = 0 ∧ x.fqTail = 0 ∧ x.fqCtl = 0 ∧ x.fqStat = 0 ∧ x.dbgVf = 0 ∧ x.err.elBase = 0 ∧ x.err.elSize = 0 ∧ x.err.scrubInt = 86400 ∧
    x.err.mgStat = 0 ∧ x.err.mgEn = 0 ∧ x.bt = [] ∧ ∀ k, (tgetD x.nm k {}).nmCtl = 1 ∧ (tgetD x.nm k {}).nmWdt = 0x1000000 ∧ (tgetD x.vfs k {}).tvec = 0) ∧
  (∀ v, (r.vf v).en = false ∧ (r.vf v).negd = false ∧ (r.vf v).vfAsid = 0 ∧ (r.vf v).vfCol0 = 0xFFFFFFFFFFFFFFFF ∧ (r.vf v).vfCol1 = 0xFFFFFFFFFFFFFFFF ∧ (r.vf v).fabTag = 0 ∧
    ∀ q, (r.queue v q).en = false ∧ (r.queue v q).err = false ∧ (r.queue v q).base = 0) ∧
  (∀ c, (r.core c).age = 64 ∧ (r.core c).acc = [] ∧ (r.core c).sp = []) ∧
  r.hub.pwrLim = 3000 ∧ r.hub.thrCnt = 0 ∧ r.hub.mbStat = 0 ∧ r.hub.fabId = 0 ∧ r.hub.fabSize = 1 ∧ r.hub.got = [] ∧ r.hub.err.elSize = 0 ∧ r.hub.err.scrubInt = 86400

/-- R8, R105, R91: where a sheaf that has its turn neither stalls nor replays, and the bytes at its PC, in the cached
line or in the view of its die, decode to an instruction that its executor has and that need not wait, the step is the
execution of that instruction on the state after the fetch, whose threads and sheaf are as they were; a halt of a
debugger's step follows it, and a step that numbers more writes than an apply queue takes waits. A sheaf has its turn
while fewer than two have issued in the cycle, and no earlier-formed one of its core that can issue has yet to (R348).
Where the manual leaves a point open, log entries 1 and 114 name the model's choice. -/
def Obligations.StepRunsDecoded : Prop := ∀ (s : State) (r : List Turn) (k : Nat) (h : Sheaf) (p : Page) (i : Instr), s.ahead = .issue k :: r → s.sheaves[k]? = some h →
  let a : State := { s with agenda := r }
  let u := (a.bring k).noteIssue h
  let v := u.modCore h.core (fun c => { c with watch := 0 })
  let asid := s.asidOf (h.tids.headD 0)
  let va := h.pc.toNat
  let line := (tget s.icache (codeKey (fetchUnit h.core) asid (va / lineBytes))).getD
    ((upto lineBytes).map (fun i => s.viewByte (dieOfCore h.core) ((p.pa + (va - p.va)) / lineBytes * lineBytes + i)))
  let bytes := line.drop (va % lineBytes)
  let f := (v.fetchAt h false 0).2
  let done := (s.core h.core).issued
  (done.length < 2 ∧ h.formed ∉ done ∧ ∀ j x, s.sheaves[j]? = some x → x.core ≠ h.core ∨ h.formed ≤ x.formed ∨ x.formed ∈ done ∨ (a.bring j).idle x = true) →
    a.stuck h = false → u.stuck h = false → (∀ t ∈ h.active, u.detStalled t = false ∧ (s.thread t).replay = false) → s.mem.reduce = [] →
    (∀ d ∈ s.dies, ∀ m ∈ d.2.mtlb, 12 ≤ m.page.bits) →
    (s.translate asid va false true).1 = .ok p → va % lineBytes + 8 ≤ lineBytes → decodeBytes bytes = .instr i →
    s.denied h (if isModifier (wordOf bytes) then wordOf (bytes.drop 4) else wordOf bytes) = false → f.relStalled h i = [] → f.mustWait i = false →
  f.threads = s.threads ∧ f.waves = s.waves ∧ f.teams = s.teams ∧ f.front = some h ∧
  step s = (match exec i f with
    | .next t => if (t.endStep h (u.steppers h)).queuesFit then .next (t.endStep h (u.steppers h)) else .next a
    | o => o)

/-- R2, R91, R92, R95, R102 to R104, Tables 5-2 to 5-10: words written out from their layouts, one of each, decode to
the instructions that they stand for; an unassigned number and two modifier words are illegal, and a field that must
be 0 is reserved. -/
def Obligations.WordsDecode : Prop :=  decode 0x20060204 0 = .instr (.fadd none ⟨3, false, 1, false, 2, false⟩) ∧ decode 0x21010396 0 = .instr (.fmul none ⟨0, true, 1, true, 75, false⟩) ∧
  decode 0x7F87F400 0x30040E00 = .instr (.cvt (some ⟨false, 3, 31, 2, 0, 0, 0, 0, false⟩) ⟨2, false, 7, false, 0, false⟩) ∧
  decode 0x40041010 0 = .instr (.ld none ⟨2, false, 8, false, 16⟩) ∧
  decode 0x7FFE6008 0x4406940A = .instr (.atomAdd (some ⟨true, 31, 31, 0, 3, 0, 0, 4, false⟩) ⟨3, false, 74, false, 5, false⟩) ∧
  decode 0x900A6780 0 = .instr (.sli none ⟨5, 0x6780⟩) ∧ decode 0x00000000 0 = .instr (.add none ⟨0, false, 0, false, 0, false⟩) ∧
  decode 0x7FBFF000 0x54000000 = .instr (.nop (some ⟨false, 31, 31, 0, 0, 0, 0, 0, false⟩) ⟨⟩) ∧
  decode 0x000C050A 0 = .instr (.add none ⟨6, false, 2, true, 5, false⟩) ∧
  decode 0x120C050A 0 = .instr (.shl none ⟨6, false, 2, true, 5, false⟩) ∧
  decode 0x218C050A 0 = .instr (.fma none ⟨6, false, 2, true, 5, false⟩) ∧
  decode 0x300C0500 0 = .instr (.cvt none ⟨6, false, 2, true, 0, false⟩) ∧
  decode 0x410C05F4 0 = .instr (.ldsp none ⟨6, false, 2, true, 0xf4⟩) ∧
  decode 0x43000000 0 = .instr (.fence none ⟨⟩) ∧
  decode 0x50580015 0 = .instr (.bp none ⟨true, 3, 0x15⟩) ∧
  decode 0x51800015 0 = .instr (.call none ⟨0x15⟩) ∧
  decode 0x610C0602 0 = .instr (.vote none ⟨6, false, 3, false, 2⟩) ∧
  decode 0x710C050A 0 = .instr (.stkMul none ⟨6, false, 2, true, 5, false⟩) ∧
  decode 0x80126440 0 = .instr (.sadd none ⟨9, 0xc, 0x22⟩) ∧
  decode 0x86126440 0 = .instr (.scmp none ⟨9, 0xc, 0x22⟩) ∧
  decode 0x871260F4 0 = .instr (.sld none ⟨9, 0xc, 0xf4⟩) ∧
  decode 0x90920035 0 = .instr (.sliH1 none ⟨9, 0x35⟩) ∧
  decode 0xA20E0015 0 = .instr (.uloop none ⟨7, 0x15⟩) ∧
  decode 0xB1AA3220 0 = .instr (.mma none ⟨5, 2, 0xc, 0x22, 0⟩) ∧
  decode 0xC0191060 0 = .instr (.tfill none ⟨0xc, 0x22, 3, 0⟩) ∧
  decode 0xD000002B 0 = .instr (.bar none ⟨0, 0, 0x2b⟩) ∧
  decode 0xD21910FF 0 = .instr (.wlpop none ⟨0xc, 0x22, 0xff⟩) ∧
  decode 0xF11805E0 0 = .instr (.csrr none ⟨0xc, 0x2f⟩) ∧
  decode 0xF2980020 0 = .instr (.getclk none ⟨0xc, 1⟩) ∧
  decode 0x43800000 0 = .illegal ∧ decode 0xFFFFFFFF 0 = .illegal ∧ decode 0x7FBFF000 0x7FBFF000 = .illegal ∧ decode 0x7F800000 0x54000000 = .reserved ∧ decode 0x7FBFF400 0x54000000 = .reserved

/-- R91, R92, R108, Tables 5-2 to 5-10: the decoder reads back every well-formed instruction from its own bytes, each
operand at every value. -/
def Obligations.DecodeEncode : Prop := ∀ (i : Instr), i.enc.isSome = true → i.wellFormed = true → decodeBytes ((encode i).flatMap wordBytes) = .instr i

/-- R91, R105: a word, or a pair, that decodes to an instruction is the one encoding of it. -/
def Obligations.WordsAreUnique : Prop := ∀ (w w2 : W32) (i : Instr), decode w w2 = .instr i → i.wellFormed = true ∧ encode i = if isModifier w then [w, w2] else [w]

/-- R33, R323: every step keeps memory, its backing copy and every die's view in their one canonical form, and every
translation held to a page of 4 KiB or more, whatever turn is taken. Where the manual leaves a point open, log entry 4
names the model's choice. -/
def Obligations.StepKeepsMemory : Prop := ∀ (s t : State),
  let Inv (x : State) : Prop := Memory.wf x.mem = true ∧ ∀ d ∈ x.dies, memWf d.2.view = true ∧ ∀ m ∈ d.2.mtlb, 12 ≤ m.page.bits
  Inv s → step s = .next t → Inv t
end

