-- ==== Sys2Proof/Laws/State.lean ====
section
/-! SUPPORT. What each update of the state leaves in each field of it. -/

namespace Sys2Proof.Machine

@[simp] theorem modThread_agenda (s : State) (k : Nat) (f : Thread → Thread) : (s.modThread k f).agenda = s.agenda := rfl
@[simp] theorem modThread_free (s : State) (k : Nat) (f : Thread → Thread) : (s.modThread k f).free = s.free := rfl
@[simp] theorem modThread_next (s : State) (k : Nat) (f : Thread → Thread) : (s.modThread k f).next = s.next := rfl
@[simp] theorem modThread_mem (s : State) (k : Nat) (f : Thread → Thread) : (s.modThread k f).mem = s.mem := rfl
@[simp] theorem modThread_dies (s : State) (k : Nat) (f : Thread → Thread) : (s.modThread k f).dies = s.dies := rfl
@[simp] theorem modThread_execs (s : State) (k : Nat) (f : Thread → Thread) : (s.modThread k f).execs = s.execs := rfl
@[simp] theorem modThread_sheaves (s : State) (k : Nat) (f : Thread → Thread) : (s.modThread k f).sheaves = s.sheaves := rfl
@[simp] theorem modThread_teams (s : State) (k : Nat) (f : Thread → Thread) : (s.modThread k f).teams = s.teams := rfl
@[simp] theorem modThread_waves (s : State) (k : Nat) (f : Thread → Thread) : (s.modThread k f).waves = s.waves := rfl
@[simp] theorem modThread_threads (s : State) (k : Nat) (f : Thread → Thread) : (s.modThread k f).threads = tmap s.threads k f := rfl
@[simp] theorem modThread_accs (s : State) (k : Nat) (f : Thread → Thread) : (s.modThread k f).accs = s.accs := rfl
@[simp] theorem modThread_launches (s : State) (k : Nat) (f : Thread → Thread) : (s.modThread k f).launches = s.launches := rfl
@[simp] theorem modThread_waits (s : State) (k : Nat) (f : Thread → Thread) : (s.modThread k f).waits = s.waits := rfl
@[simp] theorem modThread_bars (s : State) (k : Nat) (f : Thread → Thread) : (s.modThread k f).bars = s.bars := rfl
@[simp] theorem modThread_ringLoads (s : State) (k : Nat) (f : Thread → Thread) : (s.modThread k f).ringLoads = s.ringLoads := rfl
@[simp] theorem modThread_stationLoads (s : State) (k : Nat) (f : Thread → Thread) : (s.modThread k f).stationLoads = s.stationLoads := rfl
@[simp] theorem modThread_engines (s : State) (k : Nat) (f : Thread → Thread) : (s.modThread k f).engines = s.engines := rfl
@[simp] theorem modThread_streams (s : State) (k : Nat) (f : Thread → Thread) : (s.modThread k f).streams = s.streams := rfl
@[simp] theorem modThread_coll (s : State) (k : Nat) (f : Thread → Thread) : (s.modThread k f).coll = s.coll := rfl
@[simp] theorem modThread_vfs (s : State) (k : Nat) (f : Thread → Thread) : (s.modThread k f).vfs = s.vfs := rfl
@[simp] theorem modThread_hub (s : State) (k : Nat) (f : Thread → Thread) : (s.modThread k f).hub = s.hub := rfl
@[simp] theorem modThread_chans (s : State) (k : Nat) (f : Thread → Thread) : (s.modThread k f).chans = s.chans := rfl
@[simp] theorem modThread_inbound (s : State) (k : Nat) (f : Thread → Thread) : (s.modThread k f).inbound = s.inbound := rfl
@[simp] theorem modThread_out (s : State) (k : Nat) (f : Thread → Thread) : (s.modThread k f).out = s.out := rfl
@[simp] theorem modThread_icache (s : State) (k : Nat) (f : Thread → Thread) : (s.modThread k f).icache = s.icache := rfl

@[simp] theorem modThreads_agenda (s : State) (ks : List Nat) (f : Nat → Thread → Thread) : (s.modThreads ks f).agenda = s.agenda := rfl
@[simp] theorem modThreads_free (s : State) (ks : List Nat) (f : Nat → Thread → Thread) : (s.modThreads ks f).free = s.free := rfl
@[simp] theorem modThreads_next (s : State) (ks : List Nat) (f : Nat → Thread → Thread) : (s.modThreads ks f).next = s.next := rfl
@[simp] theorem modThreads_mem (s : State) (ks : List Nat) (f : Nat → Thread → Thread) : (s.modThreads ks f).mem = s.mem := rfl
@[simp] theorem modThreads_dies (s : State) (ks : List Nat) (f : Nat → Thread → Thread) : (s.modThreads ks f).dies = s.dies := rfl
@[simp] theorem modThreads_execs (s : State) (ks : List Nat) (f : Nat → Thread → Thread) : (s.modThreads ks f).execs = s.execs := rfl
@[simp] theorem modThreads_sheaves (s : State) (ks : List Nat) (f : Nat → Thread → Thread) : (s.modThreads ks f).sheaves = s.sheaves := rfl
@[simp] theorem modThreads_teams (s : State) (ks : List Nat) (f : Nat → Thread → Thread) : (s.modThreads ks f).teams = s.teams := rfl
@[simp] theorem modThreads_waves (s : State) (ks : List Nat) (f : Nat → Thread → Thread) : (s.modThreads ks f).waves = s.waves := rfl
@[simp] theorem modThreads_threads (s : State) (ks : List Nat) (f : Nat → Thread → Thread) : (s.modThreads ks f).threads = tmapOn s.threads ks f := rfl
@[simp] theorem modThreads_accs (s : State) (ks : List Nat) (f : Nat → Thread → Thread) : (s.modThreads ks f).accs = s.accs := rfl
@[simp] theorem modThreads_launches (s : State) (ks : List Nat) (f : Nat → Thread → Thread) : (s.modThreads ks f).launches = s.launches := rfl
@[simp] theorem modThreads_waits (s : State) (ks : List Nat) (f : Nat → Thread → Thread) : (s.modThreads ks f).waits = s.waits := rfl
@[simp] theorem modThreads_bars (s : State) (ks : List Nat) (f : Nat → Thread → Thread) : (s.modThreads ks f).bars = s.bars := rfl
@[simp] theorem modThreads_ringLoads (s : State) (ks : List Nat) (f : Nat → Thread → Thread) : (s.modThreads ks f).ringLoads = s.ringLoads := rfl
@[simp] theorem modThreads_stationLoads (s : State) (ks : List Nat) (f : Nat → Thread → Thread) : (s.modThreads ks f).stationLoads = s.stationLoads := rfl
@[simp] theorem modThreads_engines (s : State) (ks : List Nat) (f : Nat → Thread → Thread) : (s.modThreads ks f).engines = s.engines := rfl
@[simp] theorem modThreads_streams (s : State) (ks : List Nat) (f : Nat → Thread → Thread) : (s.modThreads ks f).streams = s.streams := rfl
@[simp] theorem modThreads_coll (s : State) (ks : List Nat) (f : Nat → Thread → Thread) : (s.modThreads ks f).coll = s.coll := rfl
@[simp] theorem modThreads_vfs (s : State) (ks : List Nat) (f : Nat → Thread → Thread) : (s.modThreads ks f).vfs = s.vfs := rfl
@[simp] theorem modThreads_hub (s : State) (ks : List Nat) (f : Nat → Thread → Thread) : (s.modThreads ks f).hub = s.hub := rfl
@[simp] theorem modThreads_chans (s : State) (ks : List Nat) (f : Nat → Thread → Thread) : (s.modThreads ks f).chans = s.chans := rfl
@[simp] theorem modThreads_inbound (s : State) (ks : List Nat) (f : Nat → Thread → Thread) : (s.modThreads ks f).inbound = s.inbound := rfl
@[simp] theorem modThreads_out (s : State) (ks : List Nat) (f : Nat → Thread → Thread) : (s.modThreads ks f).out = s.out := rfl
@[simp] theorem modThreads_icache (s : State) (ks : List Nat) (f : Nat → Thread → Thread) : (s.modThreads ks f).icache = s.icache := rfl

@[simp] theorem modWave_agenda (s : State) (k : Nat) (f : Wave → Wave) : (s.modWave k f).agenda = s.agenda := rfl
@[simp] theorem modWave_free (s : State) (k : Nat) (f : Wave → Wave) : (s.modWave k f).free = s.free := rfl
@[simp] theorem modWave_next (s : State) (k : Nat) (f : Wave → Wave) : (s.modWave k f).next = s.next := rfl
@[simp] theorem modWave_mem (s : State) (k : Nat) (f : Wave → Wave) : (s.modWave k f).mem = s.mem := rfl
@[simp] theorem modWave_dies (s : State) (k : Nat) (f : Wave → Wave) : (s.modWave k f).dies = s.dies := rfl
@[simp] theorem modWave_execs (s : State) (k : Nat) (f : Wave → Wave) : (s.modWave k f).execs = s.execs := rfl
@[simp] theorem modWave_sheaves (s : State) (k : Nat) (f : Wave → Wave) : (s.modWave k f).sheaves = s.sheaves := rfl
@[simp] theorem modWave_teams (s : State) (k : Nat) (f : Wave → Wave) : (s.modWave k f).teams = s.teams := rfl
@[simp] theorem modWave_waves (s : State) (k : Nat) (f : Wave → Wave) : (s.modWave k f).waves = tmap s.waves k f := rfl
@[simp] theorem modWave_threads (s : State) (k : Nat) (f : Wave → Wave) : (s.modWave k f).threads = s.threads := rfl
@[simp] theorem modWave_accs (s : State) (k : Nat) (f : Wave → Wave) : (s.modWave k f).accs = s.accs := rfl
@[simp] theorem modWave_launches (s : State) (k : Nat) (f : Wave → Wave) : (s.modWave k f).launches = s.launches := rfl
@[simp] theorem modWave_waits (s : State) (k : Nat) (f : Wave → Wave) : (s.modWave k f).waits = s.waits := rfl
@[simp] theorem modWave_bars (s : State) (k : Nat) (f : Wave → Wave) : (s.modWave k f).bars = s.bars := rfl
@[simp] theorem modWave_ringLoads (s : State) (k : Nat) (f : Wave → Wave) : (s.modWave k f).ringLoads = s.ringLoads := rfl
@[simp] theorem modWave_stationLoads (s : State) (k : Nat) (f : Wave → Wave) : (s.modWave k f).stationLoads = s.stationLoads := rfl
@[simp] theorem modWave_engines (s : State) (k : Nat) (f : Wave → Wave) : (s.modWave k f).engines = s.engines := rfl
@[simp] theorem modWave_streams (s : State) (k : Nat) (f : Wave → Wave) : (s.modWave k f).streams = s.streams := rfl
@[simp] theorem modWave_coll (s : State) (k : Nat) (f : Wave → Wave) : (s.modWave k f).coll = s.coll := rfl
@[simp] theorem modWave_vfs (s : State) (k : Nat) (f : Wave → Wave) : (s.modWave k f).vfs = s.vfs := rfl
@[simp] theorem modWave_hub (s : State) (k : Nat) (f : Wave → Wave) : (s.modWave k f).hub = s.hub := rfl
@[simp] theorem modWave_chans (s : State) (k : Nat) (f : Wave → Wave) : (s.modWave k f).chans = s.chans := rfl
@[simp] theorem modWave_inbound (s : State) (k : Nat) (f : Wave → Wave) : (s.modWave k f).inbound = s.inbound := rfl
@[simp] theorem modWave_out (s : State) (k : Nat) (f : Wave → Wave) : (s.modWave k f).out = s.out := rfl
@[simp] theorem modWave_icache (s : State) (k : Nat) (f : Wave → Wave) : (s.modWave k f).icache = s.icache := rfl

@[simp] theorem modTeam_agenda (s : State) (k : Nat) (f : Team → Team) : (s.modTeam k f).agenda = s.agenda := rfl
@[simp] theorem modTeam_free (s : State) (k : Nat) (f : Team → Team) : (s.modTeam k f).free = s.free := rfl
@[simp] theorem modTeam_next (s : State) (k : Nat) (f : Team → Team) : (s.modTeam k f).next = s.next := rfl
@[simp] theorem modTeam_mem (s : State) (k : Nat) (f : Team → Team) : (s.modTeam k f).mem = s.mem := rfl
@[simp] theorem modTeam_dies (s : State) (k : Nat) (f : Team → Team) : (s.modTeam k f).dies = s.dies := rfl
@[simp] theorem modTeam_execs (s : State) (k : Nat) (f : Team → Team) : (s.modTeam k f).execs = s.execs := rfl
@[simp] theorem modTeam_sheaves (s : State) (k : Nat) (f : Team → Team) : (s.modTeam k f).sheaves = s.sheaves := rfl
@[simp] theorem modTeam_teams (s : State) (k : Nat) (f : Team → Team) : (s.modTeam k f).teams = tmap s.teams k f := rfl
@[simp] theorem modTeam_waves (s : State) (k : Nat) (f : Team → Team) : (s.modTeam k f).waves = s.waves := rfl
@[simp] theorem modTeam_threads (s : State) (k : Nat) (f : Team → Team) : (s.modTeam k f).threads = s.threads := rfl
@[simp] theorem modTeam_accs (s : State) (k : Nat) (f : Team → Team) : (s.modTeam k f).accs = s.accs := rfl
@[simp] theorem modTeam_launches (s : State) (k : Nat) (f : Team → Team) : (s.modTeam k f).launches = s.launches := rfl
@[simp] theorem modTeam_waits (s : State) (k : Nat) (f : Team → Team) : (s.modTeam k f).waits = s.waits := rfl
@[simp] theorem modTeam_bars (s : State) (k : Nat) (f : Team → Team) : (s.modTeam k f).bars = s.bars := rfl
@[simp] theorem modTeam_ringLoads (s : State) (k : Nat) (f : Team → Team) : (s.modTeam k f).ringLoads = s.ringLoads := rfl
@[simp] theorem modTeam_stationLoads (s : State) (k : Nat) (f : Team → Team) : (s.modTeam k f).stationLoads = s.stationLoads := rfl
@[simp] theorem modTeam_engines (s : State) (k : Nat) (f : Team → Team) : (s.modTeam k f).engines = s.engines := rfl
@[simp] theorem modTeam_streams (s : State) (k : Nat) (f : Team → Team) : (s.modTeam k f).streams = s.streams := rfl
@[simp] theorem modTeam_coll (s : State) (k : Nat) (f : Team → Team) : (s.modTeam k f).coll = s.coll := rfl
@[simp] theorem modTeam_vfs (s : State) (k : Nat) (f : Team → Team) : (s.modTeam k f).vfs = s.vfs := rfl
@[simp] theorem modTeam_hub (s : State) (k : Nat) (f : Team → Team) : (s.modTeam k f).hub = s.hub := rfl
@[simp] theorem modTeam_chans (s : State) (k : Nat) (f : Team → Team) : (s.modTeam k f).chans = s.chans := rfl
@[simp] theorem modTeam_inbound (s : State) (k : Nat) (f : Team → Team) : (s.modTeam k f).inbound = s.inbound := rfl
@[simp] theorem modTeam_out (s : State) (k : Nat) (f : Team → Team) : (s.modTeam k f).out = s.out := rfl
@[simp] theorem modTeam_icache (s : State) (k : Nat) (f : Team → Team) : (s.modTeam k f).icache = s.icache := rfl

@[simp] theorem modCore_agenda (s : State) (k : Nat) (f : Core → Core) : (s.modCore k f).agenda = s.agenda := rfl
@[simp] theorem modCore_free (s : State) (k : Nat) (f : Core → Core) : (s.modCore k f).free = s.free := rfl
@[simp] theorem modCore_next (s : State) (k : Nat) (f : Core → Core) : (s.modCore k f).next = s.next := rfl
@[simp] theorem modCore_mem (s : State) (k : Nat) (f : Core → Core) : (s.modCore k f).mem = s.mem := rfl
@[simp] theorem modCore_dies (s : State) (k : Nat) (f : Core → Core) : (s.modCore k f).dies = s.dies := rfl
@[simp] theorem modCore_execs (s : State) (k : Nat) (f : Core → Core) : (s.modCore k f).execs = tset s.execs k (f (s.core k)) := rfl
@[simp] theorem modCore_sheaves (s : State) (k : Nat) (f : Core → Core) : (s.modCore k f).sheaves = s.sheaves := rfl
@[simp] theorem modCore_teams (s : State) (k : Nat) (f : Core → Core) : (s.modCore k f).teams = s.teams := rfl
@[simp] theorem modCore_waves (s : State) (k : Nat) (f : Core → Core) : (s.modCore k f).waves = s.waves := rfl
@[simp] theorem modCore_threads (s : State) (k : Nat) (f : Core → Core) : (s.modCore k f).threads = s.threads := rfl
@[simp] theorem modCore_accs (s : State) (k : Nat) (f : Core → Core) : (s.modCore k f).accs = s.accs := rfl
@[simp] theorem modCore_launches (s : State) (k : Nat) (f : Core → Core) : (s.modCore k f).launches = s.launches := rfl
@[simp] theorem modCore_waits (s : State) (k : Nat) (f : Core → Core) : (s.modCore k f).waits = s.waits := rfl
@[simp] theorem modCore_bars (s : State) (k : Nat) (f : Core → Core) : (s.modCore k f).bars = s.bars := rfl
@[simp] theorem modCore_ringLoads (s : State) (k : Nat) (f : Core → Core) : (s.modCore k f).ringLoads = s.ringLoads := rfl
@[simp] theorem modCore_stationLoads (s : State) (k : Nat) (f : Core → Core) : (s.modCore k f).stationLoads = s.stationLoads := rfl
@[simp] theorem modCore_engines (s : State) (k : Nat) (f : Core → Core) : (s.modCore k f).engines = s.engines := rfl
@[simp] theorem modCore_streams (s : State) (k : Nat) (f : Core → Core) : (s.modCore k f).streams = s.streams := rfl
@[simp] theorem modCore_coll (s : State) (k : Nat) (f : Core → Core) : (s.modCore k f).coll = s.coll := rfl
@[simp] theorem modCore_vfs (s : State) (k : Nat) (f : Core → Core) : (s.modCore k f).vfs = s.vfs := rfl
@[simp] theorem modCore_hub (s : State) (k : Nat) (f : Core → Core) : (s.modCore k f).hub = s.hub := rfl
@[simp] theorem modCore_chans (s : State) (k : Nat) (f : Core → Core) : (s.modCore k f).chans = s.chans := rfl
@[simp] theorem modCore_inbound (s : State) (k : Nat) (f : Core → Core) : (s.modCore k f).inbound = s.inbound := rfl
@[simp] theorem modCore_out (s : State) (k : Nat) (f : Core → Core) : (s.modCore k f).out = s.out := rfl
@[simp] theorem modCore_icache (s : State) (k : Nat) (f : Core → Core) : (s.modCore k f).icache = s.icache := rfl

@[simp] theorem modDie_agenda (s : State) (k : Nat) (f : Die → Die) : (s.modDie k f).agenda = s.agenda := rfl
@[simp] theorem modDie_free (s : State) (k : Nat) (f : Die → Die) : (s.modDie k f).free = s.free := rfl
@[simp] theorem modDie_next (s : State) (k : Nat) (f : Die → Die) : (s.modDie k f).next = s.next := rfl
@[simp] theorem modDie_mem (s : State) (k : Nat) (f : Die → Die) : (s.modDie k f).mem = s.mem := rfl
@[simp] theorem modDie_dies (s : State) (k : Nat) (f : Die → Die) : (s.modDie k f).dies = tset s.dies k (f (s.die k)) := rfl
@[simp] theorem modDie_execs (s : State) (k : Nat) (f : Die → Die) : (s.modDie k f).execs = s.execs := rfl
@[simp] theorem modDie_sheaves (s : State) (k : Nat) (f : Die → Die) : (s.modDie k f).sheaves = s.sheaves := rfl
@[simp] theorem modDie_teams (s : State) (k : Nat) (f : Die → Die) : (s.modDie k f).teams = s.teams := rfl
@[simp] theorem modDie_waves (s : State) (k : Nat) (f : Die → Die) : (s.modDie k f).waves = s.waves := rfl
@[simp] theorem modDie_threads (s : State) (k : Nat) (f : Die → Die) : (s.modDie k f).threads = s.threads := rfl
@[simp] theorem modDie_accs (s : State) (k : Nat) (f : Die → Die) : (s.modDie k f).accs = s.accs := rfl
@[simp] theorem modDie_launches (s : State) (k : Nat) (f : Die → Die) : (s.modDie k f).launches = s.launches := rfl
@[simp] theorem modDie_waits (s : State) (k : Nat) (f : Die → Die) : (s.modDie k f).waits = s.waits := rfl
@[simp] theorem modDie_bars (s : State) (k : Nat) (f : Die → Die) : (s.modDie k f).bars = s.bars := rfl
@[simp] theorem modDie_ringLoads (s : State) (k : Nat) (f : Die → Die) : (s.modDie k f).ringLoads = s.ringLoads := rfl
@[simp] theorem modDie_stationLoads (s : State) (k : Nat) (f : Die → Die) : (s.modDie k f).stationLoads = s.stationLoads := rfl
@[simp] theorem modDie_engines (s : State) (k : Nat) (f : Die → Die) : (s.modDie k f).engines = s.engines := rfl
@[simp] theorem modDie_streams (s : State) (k : Nat) (f : Die → Die) : (s.modDie k f).streams = s.streams := rfl
@[simp] theorem modDie_coll (s : State) (k : Nat) (f : Die → Die) : (s.modDie k f).coll = s.coll := rfl
@[simp] theorem modDie_vfs (s : State) (k : Nat) (f : Die → Die) : (s.modDie k f).vfs = s.vfs := rfl
@[simp] theorem modDie_hub (s : State) (k : Nat) (f : Die → Die) : (s.modDie k f).hub = s.hub := rfl
@[simp] theorem modDie_chans (s : State) (k : Nat) (f : Die → Die) : (s.modDie k f).chans = s.chans := rfl
@[simp] theorem modDie_inbound (s : State) (k : Nat) (f : Die → Die) : (s.modDie k f).inbound = s.inbound := rfl
@[simp] theorem modDie_out (s : State) (k : Nat) (f : Die → Die) : (s.modDie k f).out = s.out := rfl
@[simp] theorem modDie_icache (s : State) (k : Nat) (f : Die → Die) : (s.modDie k f).icache = s.icache := rfl

@[simp] theorem modVf_agenda (s : State) (k : Nat) (f : Vf → Vf) : (s.modVf k f).agenda = s.agenda := rfl
@[simp] theorem modVf_free (s : State) (k : Nat) (f : Vf → Vf) : (s.modVf k f).free = s.free := rfl
@[simp] theorem modVf_next (s : State) (k : Nat) (f : Vf → Vf) : (s.modVf k f).next = s.next := rfl
@[simp] theorem modVf_mem (s : State) (k : Nat) (f : Vf → Vf) : (s.modVf k f).mem = s.mem := rfl
@[simp] theorem modVf_dies (s : State) (k : Nat) (f : Vf → Vf) : (s.modVf k f).dies = s.dies := rfl
@[simp] theorem modVf_execs (s : State) (k : Nat) (f : Vf → Vf) : (s.modVf k f).execs = s.execs := rfl
@[simp] theorem modVf_sheaves (s : State) (k : Nat) (f : Vf → Vf) : (s.modVf k f).sheaves = s.sheaves := rfl
@[simp] theorem modVf_teams (s : State) (k : Nat) (f : Vf → Vf) : (s.modVf k f).teams = s.teams := rfl
@[simp] theorem modVf_waves (s : State) (k : Nat) (f : Vf → Vf) : (s.modVf k f).waves = s.waves := rfl
@[simp] theorem modVf_threads (s : State) (k : Nat) (f : Vf → Vf) : (s.modVf k f).threads = s.threads := rfl
@[simp] theorem modVf_accs (s : State) (k : Nat) (f : Vf → Vf) : (s.modVf k f).accs = s.accs := rfl
@[simp] theorem modVf_launches (s : State) (k : Nat) (f : Vf → Vf) : (s.modVf k f).launches = s.launches := rfl
@[simp] theorem modVf_waits (s : State) (k : Nat) (f : Vf → Vf) : (s.modVf k f).waits = s.waits := rfl
@[simp] theorem modVf_bars (s : State) (k : Nat) (f : Vf → Vf) : (s.modVf k f).bars = s.bars := rfl
@[simp] theorem modVf_ringLoads (s : State) (k : Nat) (f : Vf → Vf) : (s.modVf k f).ringLoads = s.ringLoads := rfl
@[simp] theorem modVf_stationLoads (s : State) (k : Nat) (f : Vf → Vf) : (s.modVf k f).stationLoads = s.stationLoads := rfl
@[simp] theorem modVf_engines (s : State) (k : Nat) (f : Vf → Vf) : (s.modVf k f).engines = s.engines := rfl
@[simp] theorem modVf_streams (s : State) (k : Nat) (f : Vf → Vf) : (s.modVf k f).streams = s.streams := rfl
@[simp] theorem modVf_coll (s : State) (k : Nat) (f : Vf → Vf) : (s.modVf k f).coll = s.coll := rfl
@[simp] theorem modVf_vfs (s : State) (k : Nat) (f : Vf → Vf) : (s.modVf k f).vfs = tset s.vfs k (f (s.vf k)) := rfl
@[simp] theorem modVf_hub (s : State) (k : Nat) (f : Vf → Vf) : (s.modVf k f).hub = s.hub := rfl
@[simp] theorem modVf_chans (s : State) (k : Nat) (f : Vf → Vf) : (s.modVf k f).chans = s.chans := rfl
@[simp] theorem modVf_inbound (s : State) (k : Nat) (f : Vf → Vf) : (s.modVf k f).inbound = s.inbound := rfl
@[simp] theorem modVf_out (s : State) (k : Nat) (f : Vf → Vf) : (s.modVf k f).out = s.out := rfl
@[simp] theorem modVf_icache (s : State) (k : Nat) (f : Vf → Vf) : (s.modVf k f).icache = s.icache := rfl

@[simp] theorem modHub_agenda (s : State) (f : Hub → Hub) : (s.modHub f).agenda = s.agenda := rfl
@[simp] theorem modHub_free (s : State) (f : Hub → Hub) : (s.modHub f).free = s.free := rfl
@[simp] theorem modHub_next (s : State) (f : Hub → Hub) : (s.modHub f).next = s.next := rfl
@[simp] theorem modHub_mem (s : State) (f : Hub → Hub) : (s.modHub f).mem = s.mem := rfl
@[simp] theorem modHub_dies (s : State) (f : Hub → Hub) : (s.modHub f).dies = s.dies := rfl
@[simp] theorem modHub_execs (s : State) (f : Hub → Hub) : (s.modHub f).execs = s.execs := rfl
@[simp] theorem modHub_sheaves (s : State) (f : Hub → Hub) : (s.modHub f).sheaves = s.sheaves := rfl
@[simp] theorem modHub_teams (s : State) (f : Hub → Hub) : (s.modHub f).teams = s.teams := rfl
@[simp] theorem modHub_waves (s : State) (f : Hub → Hub) : (s.modHub f).waves = s.waves := rfl
@[simp] theorem modHub_threads (s : State) (f : Hub → Hub) : (s.modHub f).threads = s.threads := rfl
@[simp] theorem modHub_accs (s : State) (f : Hub → Hub) : (s.modHub f).accs = s.accs := rfl
@[simp] theorem modHub_launches (s : State) (f : Hub → Hub) : (s.modHub f).launches = s.launches := rfl
@[simp] theorem modHub_waits (s : State) (f : Hub → Hub) : (s.modHub f).waits = s.waits := rfl
@[simp] theorem modHub_bars (s : State) (f : Hub → Hub) : (s.modHub f).bars = s.bars := rfl
@[simp] theorem modHub_ringLoads (s : State) (f : Hub → Hub) : (s.modHub f).ringLoads = s.ringLoads := rfl
@[simp] theorem modHub_stationLoads (s : State) (f : Hub → Hub) : (s.modHub f).stationLoads = s.stationLoads := rfl
@[simp] theorem modHub_engines (s : State) (f : Hub → Hub) : (s.modHub f).engines = s.engines := rfl
@[simp] theorem modHub_streams (s : State) (f : Hub → Hub) : (s.modHub f).streams = s.streams := rfl
@[simp] theorem modHub_coll (s : State) (f : Hub → Hub) : (s.modHub f).coll = s.coll := rfl
@[simp] theorem modHub_vfs (s : State) (f : Hub → Hub) : (s.modHub f).vfs = s.vfs := rfl
@[simp] theorem modHub_hub (s : State) (f : Hub → Hub) : (s.modHub f).hub = f s.hub := rfl
@[simp] theorem modHub_chans (s : State) (f : Hub → Hub) : (s.modHub f).chans = s.chans := rfl
@[simp] theorem modHub_inbound (s : State) (f : Hub → Hub) : (s.modHub f).inbound = s.inbound := rfl
@[simp] theorem modHub_out (s : State) (f : Hub → Hub) : (s.modHub f).out = s.out := rfl
@[simp] theorem modHub_icache (s : State) (f : Hub → Hub) : (s.modHub f).icache = s.icache := rfl

@[simp] theorem modMem_agenda (s : State) (f : Mem → Mem) : (s.modMem f).agenda = s.agenda := rfl
@[simp] theorem modMem_free (s : State) (f : Mem → Mem) : (s.modMem f).free = s.free := rfl
@[simp] theorem modMem_next (s : State) (f : Mem → Mem) : (s.modMem f).next = s.next := rfl
@[simp] theorem modMem_mem (s : State) (f : Mem → Mem) : (s.modMem f).mem = f s.mem := rfl
@[simp] theorem modMem_dies (s : State) (f : Mem → Mem) : (s.modMem f).dies = s.dies := rfl
@[simp] theorem modMem_execs (s : State) (f : Mem → Mem) : (s.modMem f).execs = s.execs := rfl
@[simp] theorem modMem_sheaves (s : State) (f : Mem → Mem) : (s.modMem f).sheaves = s.sheaves := rfl
@[simp] theorem modMem_teams (s : State) (f : Mem → Mem) : (s.modMem f).teams = s.teams := rfl
@[simp] theorem modMem_waves (s : State) (f : Mem → Mem) : (s.modMem f).waves = s.waves := rfl
@[simp] theorem modMem_threads (s : State) (f : Mem → Mem) : (s.modMem f).threads = s.threads := rfl
@[simp] theorem modMem_accs (s : State) (f : Mem → Mem) : (s.modMem f).accs = s.accs := rfl
@[simp] theorem modMem_launches (s : State) (f : Mem → Mem) : (s.modMem f).launches = s.launches := rfl
@[simp] theorem modMem_waits (s : State) (f : Mem → Mem) : (s.modMem f).waits = s.waits := rfl
@[simp] theorem modMem_bars (s : State) (f : Mem → Mem) : (s.modMem f).bars = s.bars := rfl
@[simp] theorem modMem_ringLoads (s : State) (f : Mem → Mem) : (s.modMem f).ringLoads = s.ringLoads := rfl
@[simp] theorem modMem_stationLoads (s : State) (f : Mem → Mem) : (s.modMem f).stationLoads = s.stationLoads := rfl
@[simp] theorem modMem_engines (s : State) (f : Mem → Mem) : (s.modMem f).engines = s.engines := rfl
@[simp] theorem modMem_streams (s : State) (f : Mem → Mem) : (s.modMem f).streams = s.streams := rfl
@[simp] theorem modMem_coll (s : State) (f : Mem → Mem) : (s.modMem f).coll = s.coll := rfl
@[simp] theorem modMem_vfs (s : State) (f : Mem → Mem) : (s.modMem f).vfs = s.vfs := rfl
@[simp] theorem modMem_hub (s : State) (f : Mem → Mem) : (s.modMem f).hub = s.hub := rfl
@[simp] theorem modMem_chans (s : State) (f : Mem → Mem) : (s.modMem f).chans = s.chans := rfl
@[simp] theorem modMem_inbound (s : State) (f : Mem → Mem) : (s.modMem f).inbound = s.inbound := rfl
@[simp] theorem modMem_out (s : State) (f : Mem → Mem) : (s.modMem f).out = s.out := rfl
@[simp] theorem modMem_icache (s : State) (f : Mem → Mem) : (s.modMem f).icache = s.icache := rfl

@[simp] theorem modLaunch_agenda (s : State) (k : Nat) (f : Launch → Launch) : (s.modLaunch k f).agenda = s.agenda := rfl
@[simp] theorem modLaunch_free (s : State) (k : Nat) (f : Launch → Launch) : (s.modLaunch k f).free = s.free := rfl
@[simp] theorem modLaunch_next (s : State) (k : Nat) (f : Launch → Launch) : (s.modLaunch k f).next = s.next := rfl
@[simp] theorem modLaunch_mem (s : State) (k : Nat) (f : Launch → Launch) : (s.modLaunch k f).mem = s.mem := rfl
@[simp] theorem modLaunch_dies (s : State) (k : Nat) (f : Launch → Launch) : (s.modLaunch k f).dies = s.dies := rfl
@[simp] theorem modLaunch_execs (s : State) (k : Nat) (f : Launch → Launch) : (s.modLaunch k f).execs = s.execs := rfl
@[simp] theorem modLaunch_sheaves (s : State) (k : Nat) (f : Launch → Launch) : (s.modLaunch k f).sheaves = s.sheaves := rfl
@[simp] theorem modLaunch_teams (s : State) (k : Nat) (f : Launch → Launch) : (s.modLaunch k f).teams = s.teams := rfl
@[simp] theorem modLaunch_waves (s : State) (k : Nat) (f : Launch → Launch) : (s.modLaunch k f).waves = s.waves := rfl
@[simp] theorem modLaunch_threads (s : State) (k : Nat) (f : Launch → Launch) : (s.modLaunch k f).threads = s.threads := rfl
@[simp] theorem modLaunch_accs (s : State) (k : Nat) (f : Launch → Launch) : (s.modLaunch k f).accs = s.accs := rfl
@[simp] theorem modLaunch_launches (s : State) (k : Nat) (f : Launch → Launch) : (s.modLaunch k f).launches = tmap s.launches k f := rfl
@[simp] theorem modLaunch_waits (s : State) (k : Nat) (f : Launch → Launch) : (s.modLaunch k f).waits = s.waits := rfl
@[simp] theorem modLaunch_bars (s : State) (k : Nat) (f : Launch → Launch) : (s.modLaunch k f).bars = s.bars := rfl
@[simp] theorem modLaunch_ringLoads (s : State) (k : Nat) (f : Launch → Launch) : (s.modLaunch k f).ringLoads = s.ringLoads := rfl
@[simp] theorem modLaunch_stationLoads (s : State) (k : Nat) (f : Launch → Launch) : (s.modLaunch k f).stationLoads = s.stationLoads := rfl
@[simp] theorem modLaunch_engines (s : State) (k : Nat) (f : Launch → Launch) : (s.modLaunch k f).engines = s.engines := rfl
@[simp] theorem modLaunch_streams (s : State) (k : Nat) (f : Launch → Launch) : (s.modLaunch k f).streams = s.streams := rfl
@[simp] theorem modLaunch_coll (s : State) (k : Nat) (f : Launch → Launch) : (s.modLaunch k f).coll = s.coll := rfl
@[simp] theorem modLaunch_vfs (s : State) (k : Nat) (f : Launch → Launch) : (s.modLaunch k f).vfs = s.vfs := rfl
@[simp] theorem modLaunch_hub (s : State) (k : Nat) (f : Launch → Launch) : (s.modLaunch k f).hub = s.hub := rfl
@[simp] theorem modLaunch_chans (s : State) (k : Nat) (f : Launch → Launch) : (s.modLaunch k f).chans = s.chans := rfl
@[simp] theorem modLaunch_inbound (s : State) (k : Nat) (f : Launch → Launch) : (s.modLaunch k f).inbound = s.inbound := rfl
@[simp] theorem modLaunch_out (s : State) (k : Nat) (f : Launch → Launch) : (s.modLaunch k f).out = s.out := rfl
@[simp] theorem modLaunch_icache (s : State) (k : Nat) (f : Launch → Launch) : (s.modLaunch k f).icache = s.icache := rfl

@[simp] theorem modAcc_agenda (s : State) (k : Nat) (f : Acc → Acc) : (s.modAcc k f).agenda = s.agenda := rfl
@[simp] theorem modAcc_free (s : State) (k : Nat) (f : Acc → Acc) : (s.modAcc k f).free = s.free := rfl
@[simp] theorem modAcc_next (s : State) (k : Nat) (f : Acc → Acc) : (s.modAcc k f).next = s.next := rfl
@[simp] theorem modAcc_mem (s : State) (k : Nat) (f : Acc → Acc) : (s.modAcc k f).mem = s.mem := rfl
@[simp] theorem modAcc_dies (s : State) (k : Nat) (f : Acc → Acc) : (s.modAcc k f).dies = s.dies := rfl
@[simp] theorem modAcc_execs (s : State) (k : Nat) (f : Acc → Acc) : (s.modAcc k f).execs = s.execs := rfl
@[simp] theorem modAcc_sheaves (s : State) (k : Nat) (f : Acc → Acc) : (s.modAcc k f).sheaves = s.sheaves := rfl
@[simp] theorem modAcc_teams (s : State) (k : Nat) (f : Acc → Acc) : (s.modAcc k f).teams = s.teams := rfl
@[simp] theorem modAcc_waves (s : State) (k : Nat) (f : Acc → Acc) : (s.modAcc k f).waves = s.waves := rfl
@[simp] theorem modAcc_threads (s : State) (k : Nat) (f : Acc → Acc) : (s.modAcc k f).threads = s.threads := rfl
@[simp] theorem modAcc_accs (s : State) (k : Nat) (f : Acc → Acc) : (s.modAcc k f).accs = tmap s.accs k f := rfl
@[simp] theorem modAcc_launches (s : State) (k : Nat) (f : Acc → Acc) : (s.modAcc k f).launches = s.launches := rfl
@[simp] theorem modAcc_waits (s : State) (k : Nat) (f : Acc → Acc) : (s.modAcc k f).waits = s.waits := rfl
@[simp] theorem modAcc_bars (s : State) (k : Nat) (f : Acc → Acc) : (s.modAcc k f).bars = s.bars := rfl
@[simp] theorem modAcc_ringLoads (s : State) (k : Nat) (f : Acc → Acc) : (s.modAcc k f).ringLoads = s.ringLoads := rfl
@[simp] theorem modAcc_stationLoads (s : State) (k : Nat) (f : Acc → Acc) : (s.modAcc k f).stationLoads = s.stationLoads := rfl
@[simp] theorem modAcc_engines (s : State) (k : Nat) (f : Acc → Acc) : (s.modAcc k f).engines = s.engines := rfl
@[simp] theorem modAcc_streams (s : State) (k : Nat) (f : Acc → Acc) : (s.modAcc k f).streams = s.streams := rfl
@[simp] theorem modAcc_coll (s : State) (k : Nat) (f : Acc → Acc) : (s.modAcc k f).coll = s.coll := rfl
@[simp] theorem modAcc_vfs (s : State) (k : Nat) (f : Acc → Acc) : (s.modAcc k f).vfs = s.vfs := rfl
@[simp] theorem modAcc_hub (s : State) (k : Nat) (f : Acc → Acc) : (s.modAcc k f).hub = s.hub := rfl
@[simp] theorem modAcc_chans (s : State) (k : Nat) (f : Acc → Acc) : (s.modAcc k f).chans = s.chans := rfl
@[simp] theorem modAcc_inbound (s : State) (k : Nat) (f : Acc → Acc) : (s.modAcc k f).inbound = s.inbound := rfl
@[simp] theorem modAcc_out (s : State) (k : Nat) (f : Acc → Acc) : (s.modAcc k f).out = s.out := rfl
@[simp] theorem modAcc_icache (s : State) (k : Nat) (f : Acc → Acc) : (s.modAcc k f).icache = s.icache := rfl

@[simp] theorem modEngine_agenda (s : State) (k : Nat) (f : Engine → Engine) : (s.modEngine k f).agenda = s.agenda := rfl
@[simp] theorem modEngine_free (s : State) (k : Nat) (f : Engine → Engine) : (s.modEngine k f).free = s.free := rfl
@[simp] theorem modEngine_next (s : State) (k : Nat) (f : Engine → Engine) : (s.modEngine k f).next = s.next := rfl
@[simp] theorem modEngine_mem (s : State) (k : Nat) (f : Engine → Engine) : (s.modEngine k f).mem = s.mem := rfl
@[simp] theorem modEngine_dies (s : State) (k : Nat) (f : Engine → Engine) : (s.modEngine k f).dies = s.dies := rfl
@[simp] theorem modEngine_execs (s : State) (k : Nat) (f : Engine → Engine) : (s.modEngine k f).execs = s.execs := rfl
@[simp] theorem modEngine_sheaves (s : State) (k : Nat) (f : Engine → Engine) : (s.modEngine k f).sheaves = s.sheaves := rfl
@[simp] theorem modEngine_teams (s : State) (k : Nat) (f : Engine → Engine) : (s.modEngine k f).teams = s.teams := rfl
@[simp] theorem modEngine_waves (s : State) (k : Nat) (f : Engine → Engine) : (s.modEngine k f).waves = s.waves := rfl
@[simp] theorem modEngine_threads (s : State) (k : Nat) (f : Engine → Engine) : (s.modEngine k f).threads = s.threads := rfl
@[simp] theorem modEngine_accs (s : State) (k : Nat) (f : Engine → Engine) : (s.modEngine k f).accs = s.accs := rfl
@[simp] theorem modEngine_launches (s : State) (k : Nat) (f : Engine → Engine) : (s.modEngine k f).launches = s.launches := rfl
@[simp] theorem modEngine_waits (s : State) (k : Nat) (f : Engine → Engine) : (s.modEngine k f).waits = s.waits := rfl
@[simp] theorem modEngine_bars (s : State) (k : Nat) (f : Engine → Engine) : (s.modEngine k f).bars = s.bars := rfl
@[simp] theorem modEngine_ringLoads (s : State) (k : Nat) (f : Engine → Engine) : (s.modEngine k f).ringLoads = s.ringLoads := rfl
@[simp] theorem modEngine_stationLoads (s : State) (k : Nat) (f : Engine → Engine) : (s.modEngine k f).stationLoads = s.stationLoads := rfl
@[simp] theorem modEngine_engines (s : State) (k : Nat) (f : Engine → Engine) : (s.modEngine k f).engines = tset s.engines k (f (s.engine k)) := rfl
@[simp] theorem modEngine_streams (s : State) (k : Nat) (f : Engine → Engine) : (s.modEngine k f).streams = s.streams := rfl
@[simp] theorem modEngine_coll (s : State) (k : Nat) (f : Engine → Engine) : (s.modEngine k f).coll = s.coll := rfl
@[simp] theorem modEngine_vfs (s : State) (k : Nat) (f : Engine → Engine) : (s.modEngine k f).vfs = s.vfs := rfl
@[simp] theorem modEngine_hub (s : State) (k : Nat) (f : Engine → Engine) : (s.modEngine k f).hub = s.hub := rfl
@[simp] theorem modEngine_chans (s : State) (k : Nat) (f : Engine → Engine) : (s.modEngine k f).chans = s.chans := rfl
@[simp] theorem modEngine_inbound (s : State) (k : Nat) (f : Engine → Engine) : (s.modEngine k f).inbound = s.inbound := rfl
@[simp] theorem modEngine_out (s : State) (k : Nat) (f : Engine → Engine) : (s.modEngine k f).out = s.out := rfl
@[simp] theorem modEngine_icache (s : State) (k : Nat) (f : Engine → Engine) : (s.modEngine k f).icache = s.icache := rfl

@[simp] theorem modStreams_agenda (s : State) (f : Stream → Stream) : (s.modStreams f).agenda = s.agenda := rfl
@[simp] theorem modStreams_free (s : State) (f : Stream → Stream) : (s.modStreams f).free = s.free := rfl
@[simp] theorem modStreams_next (s : State) (f : Stream → Stream) : (s.modStreams f).next = s.next := rfl
@[simp] theorem modStreams_mem (s : State) (f : Stream → Stream) : (s.modStreams f).mem = s.mem := rfl
@[simp] theorem modStreams_dies (s : State) (f : Stream → Stream) : (s.modStreams f).dies = s.dies := rfl
@[simp] theorem modStreams_execs (s : State) (f : Stream → Stream) : (s.modStreams f).execs = s.execs := rfl
@[simp] theorem modStreams_sheaves (s : State) (f : Stream → Stream) : (s.modStreams f).sheaves = s.sheaves := rfl
@[simp] theorem modStreams_teams (s : State) (f : Stream → Stream) : (s.modStreams f).teams = s.teams := rfl
@[simp] theorem modStreams_waves (s : State) (f : Stream → Stream) : (s.modStreams f).waves = tmapAll s.waves (fun _ w => { w with uq := f w.uq }) := rfl
@[simp] theorem modStreams_threads (s : State) (f : Stream → Stream) : (s.modStreams f).threads = tmapAll s.threads (fun _ t => { t with q := f t.q }) := rfl
@[simp] theorem modStreams_accs (s : State) (f : Stream → Stream) : (s.modStreams f).accs = s.accs := rfl
@[simp] theorem modStreams_launches (s : State) (f : Stream → Stream) : (s.modStreams f).launches = s.launches := rfl
@[simp] theorem modStreams_waits (s : State) (f : Stream → Stream) : (s.modStreams f).waits = s.waits := rfl
@[simp] theorem modStreams_bars (s : State) (f : Stream → Stream) : (s.modStreams f).bars = s.bars := rfl
@[simp] theorem modStreams_ringLoads (s : State) (f : Stream → Stream) : (s.modStreams f).ringLoads = s.ringLoads := rfl
@[simp] theorem modStreams_stationLoads (s : State) (f : Stream → Stream) : (s.modStreams f).stationLoads = s.stationLoads := rfl
@[simp] theorem modStreams_engines (s : State) (f : Stream → Stream) : (s.modStreams f).engines = s.engines := rfl
@[simp] theorem modStreams_streams (s : State) (f : Stream → Stream) : (s.modStreams f).streams = s.streams := rfl
@[simp] theorem modStreams_coll (s : State) (f : Stream → Stream) : (s.modStreams f).coll = s.coll := rfl
@[simp] theorem modStreams_vfs (s : State) (f : Stream → Stream) : (s.modStreams f).vfs = s.vfs := rfl
@[simp] theorem modStreams_hub (s : State) (f : Stream → Stream) : (s.modStreams f).hub = s.hub := rfl
@[simp] theorem modStreams_chans (s : State) (f : Stream → Stream) : (s.modStreams f).chans = s.chans := rfl
@[simp] theorem modStreams_inbound (s : State) (f : Stream → Stream) : (s.modStreams f).inbound = s.inbound := rfl
@[simp] theorem modStreams_out (s : State) (f : Stream → Stream) : (s.modStreams f).out = s.out := rfl
@[simp] theorem modStreams_icache (s : State) (f : Stream → Stream) : (s.modStreams f).icache = s.icache := rfl

@[simp] theorem dropFront_agenda (s : State) : s.dropFront.agenda = s.agenda := rfl
@[simp] theorem dropFront_free (s : State) : s.dropFront.free = s.free := rfl
@[simp] theorem dropFront_next (s : State) : s.dropFront.next = s.next := rfl
@[simp] theorem dropFront_mem (s : State) : s.dropFront.mem = s.mem := rfl
@[simp] theorem dropFront_dies (s : State) : s.dropFront.dies = s.dies := rfl
@[simp] theorem dropFront_execs (s : State) : s.dropFront.execs = s.execs := rfl
@[simp] theorem dropFront_sheaves (s : State) : s.dropFront.sheaves = s.sheaves.drop 1 := rfl
@[simp] theorem dropFront_teams (s : State) : s.dropFront.teams = s.teams := rfl
@[simp] theorem dropFront_waves (s : State) : s.dropFront.waves = s.waves := rfl
@[simp] theorem dropFront_threads (s : State) : s.dropFront.threads = s.threads := rfl
@[simp] theorem dropFront_accs (s : State) : s.dropFront.accs = s.accs := rfl
@[simp] theorem dropFront_launches (s : State) : s.dropFront.launches = s.launches := rfl
@[simp] theorem dropFront_waits (s : State) : s.dropFront.waits = s.waits := rfl
@[simp] theorem dropFront_bars (s : State) : s.dropFront.bars = s.bars := rfl
@[simp] theorem dropFront_ringLoads (s : State) : s.dropFront.ringLoads = s.ringLoads := rfl
@[simp] theorem dropFront_stationLoads (s : State) : s.dropFront.stationLoads = s.stationLoads := rfl
@[simp] theorem dropFront_engines (s : State) : s.dropFront.engines = s.engines := rfl
@[simp] theorem dropFront_streams (s : State) : s.dropFront.streams = s.streams := rfl
@[simp] theorem dropFront_coll (s : State) : s.dropFront.coll = s.coll := rfl
@[simp] theorem dropFront_vfs (s : State) : s.dropFront.vfs = s.vfs := rfl
@[simp] theorem dropFront_hub (s : State) : s.dropFront.hub = s.hub := rfl
@[simp] theorem dropFront_chans (s : State) : s.dropFront.chans = s.chans := rfl
@[simp] theorem dropFront_inbound (s : State) : s.dropFront.inbound = s.inbound := rfl
@[simp] theorem dropFront_out (s : State) : s.dropFront.out = s.out := rfl
@[simp] theorem dropFront_icache (s : State) : s.dropFront.icache = s.icache := rfl

@[simp] theorem fresh_value (s : State) : s.fresh.1 = s.next := rfl
@[simp] theorem fresh_agenda (s : State) : s.fresh.2.agenda = s.agenda := rfl
@[simp] theorem fresh_free (s : State) : s.fresh.2.free = s.free := rfl
@[simp] theorem fresh_next (s : State) : s.fresh.2.next = s.next + 1 := rfl
@[simp] theorem fresh_mem (s : State) : s.fresh.2.mem = s.mem := rfl
@[simp] theorem fresh_dies (s : State) : s.fresh.2.dies = s.dies := rfl
@[simp] theorem fresh_execs (s : State) : s.fresh.2.execs = s.execs := rfl
@[simp] theorem fresh_sheaves (s : State) : s.fresh.2.sheaves = s.sheaves := rfl
@[simp] theorem fresh_teams (s : State) : s.fresh.2.teams = s.teams := rfl
@[simp] theorem fresh_waves (s : State) : s.fresh.2.waves = s.waves := rfl
@[simp] theorem fresh_threads (s : State) : s.fresh.2.threads = s.threads := rfl
@[simp] theorem fresh_accs (s : State) : s.fresh.2.accs = s.accs := rfl
@[simp] theorem fresh_launches (s : State) : s.fresh.2.launches = s.launches := rfl
@[simp] theorem fresh_waits (s : State) : s.fresh.2.waits = s.waits := rfl
@[simp] theorem fresh_bars (s : State) : s.fresh.2.bars = s.bars := rfl
@[simp] theorem fresh_ringLoads (s : State) : s.fresh.2.ringLoads = s.ringLoads := rfl
@[simp] theorem fresh_stationLoads (s : State) : s.fresh.2.stationLoads = s.stationLoads := rfl
@[simp] theorem fresh_engines (s : State) : s.fresh.2.engines = s.engines := rfl
@[simp] theorem fresh_streams (s : State) : s.fresh.2.streams = s.streams := rfl
@[simp] theorem fresh_coll (s : State) : s.fresh.2.coll = s.coll := rfl
@[simp] theorem fresh_vfs (s : State) : s.fresh.2.vfs = s.vfs := rfl
@[simp] theorem fresh_hub (s : State) : s.fresh.2.hub = s.hub := rfl
@[simp] theorem fresh_chans (s : State) : s.fresh.2.chans = s.chans := rfl
@[simp] theorem fresh_inbound (s : State) : s.fresh.2.inbound = s.inbound := rfl
@[simp] theorem fresh_out (s : State) : s.fresh.2.out = s.out := rfl
@[simp] theorem fresh_icache (s : State) : s.fresh.2.icache = s.icache := rfl

@[simp] theorem takeFree_value (s : State) : s.takeFree.1 = Config.freeValue s.free := rfl
@[simp] theorem takeFree_agenda (s : State) : s.takeFree.2.agenda = s.agenda := rfl
@[simp] theorem takeFree_free (s : State) : s.takeFree.2.free = s.free + 1 := rfl
@[simp] theorem takeFree_next (s : State) : s.takeFree.2.next = s.next := rfl
@[simp] theorem takeFree_mem (s : State) : s.takeFree.2.mem = s.mem := rfl
@[simp] theorem takeFree_dies (s : State) : s.takeFree.2.dies = s.dies := rfl
@[simp] theorem takeFree_execs (s : State) : s.takeFree.2.execs = s.execs := rfl
@[simp] theorem takeFree_sheaves (s : State) : s.takeFree.2.sheaves = s.sheaves := rfl
@[simp] theorem takeFree_teams (s : State) : s.takeFree.2.teams = s.teams := rfl
@[simp] theorem takeFree_waves (s : State) : s.takeFree.2.waves = s.waves := rfl
@[simp] theorem takeFree_threads (s : State) : s.takeFree.2.threads = s.threads := rfl
@[simp] theorem takeFree_accs (s : State) : s.takeFree.2.accs = s.accs := rfl
@[simp] theorem takeFree_launches (s : State) : s.takeFree.2.launches = s.launches := rfl
@[simp] theorem takeFree_waits (s : State) : s.takeFree.2.waits = s.waits := rfl
@[simp] theorem takeFree_bars (s : State) : s.takeFree.2.bars = s.bars := rfl
@[simp] theorem takeFree_ringLoads (s : State) : s.takeFree.2.ringLoads = s.ringLoads := rfl
@[simp] theorem takeFree_stationLoads (s : State) : s.takeFree.2.stationLoads = s.stationLoads := rfl
@[simp] theorem takeFree_engines (s : State) : s.takeFree.2.engines = s.engines := rfl
@[simp] theorem takeFree_streams (s : State) : s.takeFree.2.streams = s.streams := rfl
@[simp] theorem takeFree_coll (s : State) : s.takeFree.2.coll = s.coll := rfl
@[simp] theorem takeFree_vfs (s : State) : s.takeFree.2.vfs = s.vfs := rfl
@[simp] theorem takeFree_hub (s : State) : s.takeFree.2.hub = s.hub := rfl
@[simp] theorem takeFree_chans (s : State) : s.takeFree.2.chans = s.chans := rfl
@[simp] theorem takeFree_inbound (s : State) : s.takeFree.2.inbound = s.inbound := rfl
@[simp] theorem takeFree_out (s : State) : s.takeFree.2.out = s.out := rfl
@[simp] theorem takeFree_icache (s : State) : s.takeFree.2.icache = s.icache := rfl

@[simp] theorem setFront_agenda (s : State) (h : Sheaf) : (s.setFront h).agenda = s.agenda := by
  unfold State.setFront; split <;> rfl
@[simp] theorem setFront_free (s : State) (h : Sheaf) : (s.setFront h).free = s.free := by
  unfold State.setFront; split <;> rfl
@[simp] theorem setFront_next (s : State) (h : Sheaf) : (s.setFront h).next = s.next := by
  unfold State.setFront; split <;> rfl
@[simp] theorem setFront_mem (s : State) (h : Sheaf) : (s.setFront h).mem = s.mem := by
  unfold State.setFront; split <;> rfl
@[simp] theorem setFront_dies (s : State) (h : Sheaf) : (s.setFront h).dies = s.dies := by
  unfold State.setFront; split <;> rfl
@[simp] theorem setFront_execs (s : State) (h : Sheaf) : (s.setFront h).execs = s.execs := by
  unfold State.setFront; split <;> rfl
@[simp] theorem setFront_teams (s : State) (h : Sheaf) : (s.setFront h).teams = s.teams := by
  unfold State.setFront; split <;> rfl
@[simp] theorem setFront_waves (s : State) (h : Sheaf) : (s.setFront h).waves = s.waves := by
  unfold State.setFront; split <;> rfl
@[simp] theorem setFront_threads (s : State) (h : Sheaf) : (s.setFront h).threads = s.threads := by
  unfold State.setFront; split <;> rfl
@[simp] theorem setFront_accs (s : State) (h : Sheaf) : (s.setFront h).accs = s.accs := by
  unfold State.setFront; split <;> rfl
@[simp] theorem setFront_launches (s : State) (h : Sheaf) : (s.setFront h).launches = s.launches := by
  unfold State.setFront; split <;> rfl
@[simp] theorem setFront_waits (s : State) (h : Sheaf) : (s.setFront h).waits = s.waits := by
  unfold State.setFront; split <;> rfl
@[simp] theorem setFront_bars (s : State) (h : Sheaf) : (s.setFront h).bars = s.bars := by
  unfold State.setFront; split <;> rfl
@[simp] theorem setFront_ringLoads (s : State) (h : Sheaf) : (s.setFront h).ringLoads = s.ringLoads := by
  unfold State.setFront; split <;> rfl
@[simp] theorem setFront_stationLoads (s : State) (h : Sheaf) : (s.setFront h).stationLoads = s.stationLoads := by
  unfold State.setFront; split <;> rfl
@[simp] theorem setFront_engines (s : State) (h : Sheaf) : (s.setFront h).engines = s.engines := by
  unfold State.setFront; split <;> rfl
@[simp] theorem setFront_streams (s : State) (h : Sheaf) : (s.setFront h).streams = s.streams := by
  unfold State.setFront; split <;> rfl
@[simp] theorem setFront_coll (s : State) (h : Sheaf) : (s.setFront h).coll = s.coll := by
  unfold State.setFront; split <;> rfl
@[simp] theorem setFront_vfs (s : State) (h : Sheaf) : (s.setFront h).vfs = s.vfs := by
  unfold State.setFront; split <;> rfl
@[simp] theorem setFront_hub (s : State) (h : Sheaf) : (s.setFront h).hub = s.hub := by
  unfold State.setFront; split <;> rfl
@[simp] theorem setFront_chans (s : State) (h : Sheaf) : (s.setFront h).chans = s.chans := by
  unfold State.setFront; split <;> rfl
@[simp] theorem setFront_inbound (s : State) (h : Sheaf) : (s.setFront h).inbound = s.inbound := by
  unfold State.setFront; split <;> rfl
@[simp] theorem setFront_out (s : State) (h : Sheaf) : (s.setFront h).out = s.out := by
  unfold State.setFront; split <;> rfl
@[simp] theorem setFront_icache (s : State) (h : Sheaf) : (s.setFront h).icache = s.icache := by
  unfold State.setFront; split <;> rfl

end Sys2Proof.Machine
end

