-- ==== Sys2Proof/Laws/Tables.lean ====
section
/-! SUPPORT. What the operations on tables do, read by key. -/

namespace Sys2Proof.Machine

theorem tget_tset_self {α : Type} (t : Tbl α) (k : Nat) (v : α) : tget (tset t k v) k = some v := by
  induction t with
  | nil => simp [tset, tget]
  | cons e r ih =>
    obtain ⟨i, w⟩ := e
    simp only [tset]
    split
    · simp [tget]
    · split
      · simp [tget]
      · rename_i h _; simp [tget, h, ih]

theorem tget_tset_other {α : Type} (t : Tbl α) (k j : Nat) (v : α) (h : j ≠ k) : tget (tset t k v) j = tget t j := by
  induction t with
  | nil => simp [tset, tget, Ne.symm h]
  | cons e r ih =>
    obtain ⟨i, w⟩ := e
    simp only [tset]
    split
    · rename_i hi; simp [tget, hi, Ne.symm h]
    · split
      · simp [tget, Ne.symm h]
      · simp [tget, ih]

theorem tget_tmap_self {α : Type} (t : Tbl α) (k : Nat) (f : α → α) : tget (tmap t k f) k = (tget t k).map f := by
  induction t with
  | nil => rfl
  | cons e r ih =>
    obtain ⟨i, w⟩ := e
    simp only [tmap, tget]
    split
    · rename_i h; simp [tget, h]
    · rename_i h; simp [tget, h, ih]

theorem tget_tmap_other {α : Type} (t : Tbl α) (k j : Nat) (f : α → α) (h : j ≠ k) : tget (tmap t k f) j = tget t j := by
  induction t with
  | nil => rfl
  | cons e r ih =>
    obtain ⟨i, w⟩ := e
    simp only [tmap]
    split
    · rename_i hi; simp [tget, hi, Ne.symm h]
    · simp [tget, ih]

theorem tget_tmapOn {α : Type} (t : Tbl α) (ks : List Nat) (f : Nat → α → α) (k : Nat) :
    tget (tmapOn t ks f) k = (tget t k).map (fun v => if ks.contains k then f k v else v) := by
  induction t with
  | nil => rfl
  | cons e r ih =>
    obtain ⟨i, w⟩ := e
    simp only [tmapOn, List.map_cons] at ih ⊢
    by_cases h : i = k
    · subst h; simp only [tget]; split <;> simp_all
    · split <;> simp [tget, h] <;> simpa using ih

theorem tget_tmapAll {α : Type} (t : Tbl α) (f : Nat → α → α) (k : Nat) :
    tget (tmapAll t f) k = (tget t k).map (f k) := by
  induction t with
  | nil => rfl
  | cons e r ih =>
    obtain ⟨i, w⟩ := e
    simp only [tmapAll, List.map_cons] at ih ⊢
    by_cases h : i = k
    · subst h; simp [tget]
    · simp [tget, h, ih]

theorem tget_tdel_self {α : Type} (t : Tbl α) (k : Nat) : tget (tdel t k) k = none := by
  induction t with
  | nil => rfl
  | cons e r ih =>
    obtain ⟨i, w⟩ := e
    by_cases h : i = k
    · subst h; simpa [tdel] using ih
    · have : tdel ((i, w) :: r) k = (i, w) :: tdel r k := by simp [tdel, h]
      rw [this]; simp [tget, h, ih]

theorem tget_tdel_other {α : Type} (t : Tbl α) (k j : Nat) (hj : j ≠ k) : tget (tdel t k) j = tget t j := by
  induction t with
  | nil => rfl
  | cons e r ih =>
    obtain ⟨i, w⟩ := e
    by_cases h : i = k
    · subst h
      have : tdel ((i, w) :: r) i = tdel r i := by simp [tdel]
      rw [this, ih]; simp [tget, Ne.symm hj]
    · have : tdel ((i, w) :: r) k = (i, w) :: tdel r k := by simp [tdel, h]
      rw [this]; simp [tget, ih]

/-- The threads, waves, teams, executors, dies, functions and engines, read after a change of one of them. -/
theorem thread_modThread_self (s : State) (k : Nat) (f : Thread → Thread) (h : (tget s.threads k).isSome) :
    (s.modThread k f).thread k = f (s.thread k) := by
  obtain ⟨v, hv⟩ := Option.isSome_iff_exists.mp h
  simp [State.thread, State.modThread, tgetD, tget_tmap_self, hv]

theorem thread_modThread_other (s : State) (k j : Nat) (f : Thread → Thread) (h : j ≠ k) :
    (s.modThread k f).thread j = s.thread j := by
  simp [State.thread, State.modThread, tgetD, tget_tmap_other _ _ _ _ h]

theorem wave_modWave_self (s : State) (k : Nat) (f : Wave → Wave) (h : (tget s.waves k).isSome) :
    (s.modWave k f).wave k = f (s.wave k) := by
  obtain ⟨v, hv⟩ := Option.isSome_iff_exists.mp h
  simp [State.wave, State.modWave, tgetD, tget_tmap_self, hv]

theorem wave_modWave_other (s : State) (k j : Nat) (f : Wave → Wave) (h : j ≠ k) :
    (s.modWave k f).wave j = s.wave j := by
  simp [State.wave, State.modWave, tgetD, tget_tmap_other _ _ _ _ h]

theorem core_modCore_self (s : State) (k : Nat) (f : Core → Core) : (s.modCore k f).core k = f (s.core k) := by
  simp [State.core, State.modCore, tgetD, tget_tset_self]

theorem core_modCore_other (s : State) (k j : Nat) (f : Core → Core) (h : j ≠ k) :
    (s.modCore k f).core j = s.core j := by
  simp [State.core, State.modCore, tgetD, tget_tset_other _ _ _ _ h]

theorem die_modDie_self (s : State) (k : Nat) (f : Die → Die) : (s.modDie k f).die k = f (s.die k) := by
  simp [State.die, State.modDie, tgetD, tget_tset_self]

theorem die_modDie_other (s : State) (k j : Nat) (f : Die → Die) (h : j ≠ k) : (s.modDie k f).die j = s.die j := by
  simp [State.die, State.modDie, tgetD, tget_tset_other _ _ _ _ h]

theorem vf_modVf_self (s : State) (k : Nat) (f : Vf → Vf) : (s.modVf k f).vf k = f (s.vf k) := by
  simp [State.vf, State.modVf, tgetD, tget_tset_self]

theorem vf_modVf_other (s : State) (k j : Nat) (f : Vf → Vf) (h : j ≠ k) : (s.modVf k f).vf j = s.vf j := by
  simp [State.vf, State.modVf, tgetD, tget_tset_other _ _ _ _ h]

theorem engine_modEngine_self (s : State) (k : Nat) (f : Engine → Engine) :
    (s.modEngine k f).engine k = f (s.engine k) := by
  simp [State.engine, State.modEngine, tgetD, tget_tset_self]

theorem engine_modEngine_other (s : State) (k j : Nat) (f : Engine → Engine) (h : j ≠ k) :
    (s.modEngine k f).engine j = s.engine j := by
  simp [State.engine, State.modEngine, tgetD, tget_tset_other _ _ _ _ h]

/-- A change of some threads keeps which threads there are. -/
theorem keys_modThread (s : State) (k : Nat) (f : Thread → Thread) : keys (s.modThread k f).threads = keys s.threads := by
  have h : ∀ t : Tbl Thread, keys (tmap t k f) = keys t := by
    intro t
    induction t with
    | nil => rfl
    | cons e r ih =>
      obtain ⟨i, w⟩ := e
      simp only [tmap]
      split <;> simp_all [keys]
  exact h s.threads

end Sys2Proof.Machine
end

