-- ==== Sys2Proof/Laws/Cache.lean ====
section
/-! SUPPORT. Caches decide no value (07 R116): what a request at home, an eviction and a wake can change, and the colours of frames
(17 R314). -/

namespace Sys2Proof.Machine

/-- A frame's number fixes its colour (17 R314). -/
theorem colourOf_frame (pa : Nat) : colourOf pa = colourOf (pa / 65536 * 65536) := by
  have h1 : pa / 65536 * 65536 / 2 ^ 17 = pa / 2 ^ 17 := by omega
  have h2 : pa / 65536 * 65536 / 2 ^ 24 = pa / 2 ^ 24 := by omega
  simp only [colourOf, bits, h1, h2]

/-- Lines of frames of different colours lie in different home sets, whatever slice they lie in (17 R314). -/
theorem homeSet_ne (x y : Nat) (h : colourOf (x * lineBytes) ≠ colourOf (y * lineBytes)) : homeSet x ≠ homeSet y := h

/-- What a change of caches leaves of a die. -/
def Die.SameButCaches (d d' : Die) : Prop :=
  d' = { d with sectors := d'.sectors, asleep := d'.asleep, copies := d'.copies, mtlb := d'.mtlb }

/-- What a change of caches leaves of the state: the backing values of scratch lines, and the caches, may differ. -/
def State.SameButCaches (s t : State) : Prop :=
  t = { s with dies := t.dies, mem := { s.mem with backing := t.mem.backing } } ∧ ∀ e, (s.die e).SameButCaches (t.die e)

theorem sameButCaches_refl (s : State) : s.SameButCaches s := ⟨rfl, fun _ => rfl⟩

theorem die_sameButCaches_trans {a b c : Die} (h : a.SameButCaches b) (k : b.SameButCaches c) : a.SameButCaches c := by
  unfold Die.SameButCaches at h k ⊢
  rw [k, h]

theorem sameButCaches_trans {a b c : State} (h : a.SameButCaches b) (k : b.SameButCaches c) : a.SameButCaches c := by
  refine ⟨?_, fun e => die_sameButCaches_trans (h.2 e) (k.2 e)⟩
  rw [k.1, h.1]

/-- A die changed in its caches. -/
theorem modDie_sameButCaches (s : State) (d : Nat) (f : Die → Die) (hf : ∀ x : Die, x.SameButCaches (f x)) : s.SameButCaches (s.modDie d f) := by
  refine ⟨rfl, fun e => ?_⟩
  by_cases he : e = d
  · subst he
    have : (s.modDie e f).die e = f (s.die e) := by simp [State.die, State.modDie, tgetD, tget_tset_self]
    rw [this]; exact hf _
  · have : (s.modDie d f).die e = s.die e := by simp [State.die, State.modDie, tgetD, tget_tset_other _ _ _ _ he]
    rw [this]; exact rfl

theorem foldl_sameButCaches {α : Type} (f : State → α → State) (h : ∀ (s : State) (x : α), s.SameButCaches (f s x)) (l : List α) (s : State) :
    s.SameButCaches (l.foldl f s) := by
  induction l generalizing s with
  | nil => exact sameButCaches_refl s
  | cons x r ih => exact sameButCaches_trans (h s x) (ih (f s x))

/-- Backing values changed. -/
theorem modMem_sameButCaches (s : State) (f : Mem → List Host.Cell) : s.SameButCaches (s.modMem (fun m => { m with backing := f m })) :=
  ⟨rfl, fun _ => rfl⟩

/-- An eviction writes back at most. -/
theorem evictSector_sameButCaches (s : State) (d k : Nat) : s.SameButCaches (s.evictSector d k) := by
  unfold State.evictSector
  split
  · exact sameButCaches_refl s
  · dsimp only
    refine sameButCaches_trans ?_ (modDie_sameButCaches _ _ _ (by intro x; rfl))
    split
    · exact foldl_sameButCaches _ (fun s _ => modMem_sameButCaches s _) _ _
    · exact sameButCaches_refl s

/-- Room made in a set evicts at most. -/
theorem makeRoom_sameButCaches (n : Nat) (s : State) (d slice set : Nat) : s.SameButCaches (s.makeRoom d slice set n) := by
  induction n generalizing s with
  | zero => exact sameButCaches_refl s
  | succ n ih =>
    unfold State.makeRoom
    dsimp only
    split
    · exact sameButCaches_refl s
    · split
      · exact sameButCaches_trans (evictSector_sameButCaches s d _) (ih _)
      · exact sameButCaches_refl s

/-- A wake drops or marks copies and writes back at most. -/
theorem wakeUnit_sameButCaches (s : State) (d unit : Nat) : s.SameButCaches (s.wakeUnit d unit) := by
  unfold State.wakeUnit
  split
  · exact sameButCaches_refl s
  · dsimp only
    refine sameButCaches_trans (modDie_sameButCaches s d (fun x => { x with asleep := tdel x.asleep unit }) (fun _ => rfl)) ?_
    split
    · exact modDie_sameButCaches _ _ _ (by intro x; rfl)
    · exact sameButCaches_trans (modDie_sameButCaches _ d (fun x => { x with copies := x.copies.filter (fun c => c.unit ≠ unit) }) (fun _ => rfl))
        (foldl_sameButCaches _ (fun s k => evictSector_sameButCaches s d k) _ _)

/-- A request at home changes the caches only. -/
theorem homeRequest_sameButCaches (s : State) (d cluster : Nat) (cols : Bool) (line : Nat) :
    s.SameButCaches (s.homeRequest d cluster cols line) := by
  unfold State.homeRequest
  split
  · exact sameButCaches_refl s
  dsimp only
  refine sameButCaches_trans ?_ (modDie_sameButCaches _ _ _ (by intro x; rfl))
  split
  · exact wakeUnit_sameButCaches _ _ _
  · exact sameButCaches_trans (wakeUnit_sameButCaches _ _ _) (makeRoom_sameButCaches _ _ _ _ _)

/-- And so do several. -/
theorem homeRequests_sameButCaches (s : State) (d cluster : Nat) (cols : Bool) (lines : List Nat) :
    s.SameButCaches (s.homeRequests d cluster cols lines) :=
  foldl_sameButCaches _ (fun s l => homeRequest_sameButCaches s d cluster cols l) _ _

end Sys2Proof.Machine
end

