-- ==== Sys2Proof/Laws/Fragments.lean ====
section
/-! SUPPORT. Fragments of a sheaf (01 R11): which they are, and what an instruction that runs once for each of them does. -/

namespace Sys2Proof.Machine

theorem mem_dedup (l : List Nat) (x : Nat) : x ∈ dedup l ↔ x ∈ l := by
  have h : ∀ (l a : List Nat), x ∈ l.foldl (fun a x => if a.contains x then a else a ++ [x]) a ↔ x ∈ a ∨ x ∈ l := by
    intro l
    induction l with
    | nil => intro a; simp
    | cons y r ih =>
      intro a
      simp only [List.foldl_cons, ih]
      split
      · rename_i hc
        have hc : y ∈ a := by simpa using hc
        constructor
        · rintro (h | h)
          · exact .inl h
          · exact .inr (List.mem_cons_of_mem _ h)
        · rintro (h | h)
          · exact .inl h
          · rcases List.mem_cons.mp h with e | h
            · exact .inl (e ▸ hc)
            · exact .inr h
      · simp [or_assoc]
  simpa [dedup] using h l []

theorem nodup_dedup (l : List Nat) : (dedup l).Nodup := by
  have h : ∀ (l a : List Nat), a.Nodup → (l.foldl (fun a x => if a.contains x then a else a ++ [x]) a).Nodup := by
    intro l
    induction l with
    | nil => intro a ha; exact ha
    | cons y r ih =>
      intro a ha
      simp only [List.foldl_cons]
      refine ih _ ?_
      split
      · exact ha
      · rename_i hc
        have hc : y ∉ a := by simpa using hc
        exact List.nodup_append.mpr ⟨ha, by simp, by
          intro u hu v hv e
          simp at hv
          exact hc (by rw [← hv, ← e]; exact hu)⟩
  exact h l [] List.nodup_nil

theorem mem_insNat (x y : Nat) (l : List Nat) : y ∈ insNat x l ↔ y = x ∨ y ∈ l := by
  induction l with
  | nil => simp [insNat]
  | cons a r ih =>
    unfold insNat
    split
    · simp
    · simp [ih, or_left_comm]

theorem mem_sortNat (l : List Nat) (y : Nat) : y ∈ sortNat l ↔ y ∈ l := by
  have h : ∀ (l a : List Nat), y ∈ l.foldl (fun a x => insNat x a) a ↔ y ∈ a ∨ y ∈ l := by
    intro l
    induction l with
    | nil => intro a; simp
    | cons x r ih =>
      intro a
      simp only [List.foldl_cons, ih, mem_insNat, List.mem_cons, or_assoc, or_left_comm]
  simpa [sortNat] using h l []

/-- A fragment is the threads of one wave; its first thread is one of them. -/
theorem byWave_spec (ts : List Nat) (fr : List Nat) (h : fr ∈ byWave ts) :
    fr.headD 0 ∈ fr ∧ fr = sortNat (ts.filter (fun t => wkOf t = wkOf (fr.headD 0))) := by
  obtain ⟨w, hw, rfl⟩ := List.mem_map.mp h
  obtain ⟨k, hk, hkw⟩ := List.mem_map.mp ((mem_dedup _ _).mp hw)
  have hm : k ∈ sortNat (ts.filter (fun t => wkOf t = w)) := (mem_sortNat _ _).mpr (List.mem_filter.mpr ⟨hk, by simpa using hkw⟩)
  have hh : (sortNat (ts.filter (fun t => wkOf t = w))).headD 0 ∈ sortNat (ts.filter (fun t => wkOf t = w)) := by
    cases hf : sortNat (ts.filter (fun t => wkOf t = w)) with
    | nil => rw [hf] at hm; exact absurd hm List.not_mem_nil
    | cons a r => simp
  have hw : wkOf ((sortNat (ts.filter (fun t => wkOf t = w))).headD 0) = w := by
    simpa using (List.mem_filter.mp ((mem_sortNat _ _).mp hh)).2
  exact ⟨hh, by simp only [hw]⟩

theorem byWave_mem (ts : List Nat) (fr : List Nat) (h : fr ∈ byWave ts) (k : Nat) (hk : k ∈ fr) :
    k ∈ ts ∧ wkOf k = wkOf (fr.headD 0) := by
  have h2 := (byWave_spec ts fr h).2
  rw [h2] at hk
  obtain ⟨h3, h4⟩ := List.mem_filter.mp ((mem_sortNat _ _).mp hk)
  exact ⟨h3, by simpa using h4⟩

/-- The first thread of the fragment of a wave is of that wave. -/
theorem byWave_head (ts : List Nat) (w : Nat) (hw : w ∈ dedup (ts.map wkOf)) :
    wkOf ((sortNat (ts.filter (fun t => wkOf t = w))).headD 0) = w := by
  have h := byWave_spec ts _ (List.mem_map.mpr ⟨w, hw, rfl⟩)
  simpa using (List.mem_filter.mp ((mem_sortNat _ _).mp h.1)).2

/-- The waves of the fragments are different. -/
theorem byWave_waves (ts : List Nat) : (byWave ts).map (fun fr => wkOf (fr.headD 0)) = dedup (ts.map wkOf) := by
  simp only [byWave, List.map_map]
  conv => rhs; rw [← List.map_id (dedup (ts.map wkOf))]
  exact List.map_congr_left (fun w hw => byWave_head ts w hw)

theorem byWave_ne_nil (ts : List Nat) (h : ts ≠ []) : byWave ts ≠ [] := by
  cases ts with
  | nil => exact absurd rfl h
  | cons a r =>
    intro e
    have : wkOf a ∈ dedup ((a :: r).map wkOf) := (mem_dedup _ _).mpr (by simp)
    simp only [byWave, List.map_eq_nil_iff] at e
    rw [e] at this
    exact absurd this List.not_mem_nil

/-- Every thread is of some fragment. -/
theorem byWave_covers (ts : List Nat) (k : Nat) (h : k ∈ ts) : ∃ fr ∈ byWave ts, k ∈ fr ∧ wkOf (fr.headD 0) = wkOf k := by
  have hw : wkOf k ∈ dedup (ts.map wkOf) := (mem_dedup _ _).mpr (List.mem_map.mpr ⟨k, h, rfl⟩)
  exact ⟨_, List.mem_map.mpr ⟨_, hw, rfl⟩, (mem_sortNat _ _).mpr (List.mem_filter.mpr ⟨h, by simp⟩), byWave_head ts _ hw⟩

/-- A uniform instruction whose body changes one state into another and names one next PC for every fragment. -/
theorem uniOp_next (s : State) (h : Sheaf) (p : Nat) (m : Option ModW) (f : Fields) (ill : Bool) (e : RunEnd)
    (body : Sheaf → W64 → List Nat → State → State × Option Va) (g : List Nat → State → State) (v : Va)
    (hf : s.front = some h)
    (hb : ∀ fr s, body h (wordsOf p m f) fr s = (g fr s, some v)) :
    s.uniOp p m f ill e body = .next
      ((h.fragments.foldl (fun s fr => g fr (if ill then s.modThreads fr (fun _ t => t.flag fILLMOD) else s)) s).afterGroups
        h e (h.fragments.map (fun fr => (fr, some v)))) := by
  simp only [State.uniOp, hf, hb]
  have : ∀ (frs : List (List Nat)) (s : State) (o : List (List Nat × Option Va)),
      frs.foldl (fun x fr => (g fr (if ill = true then x.1.modThreads fr (fun _ t => t.flag fILLMOD) else x.1), x.2 ++ [(fr, some v)])) (s, o) =
      (frs.foldl (fun s fr => g fr (if ill then s.modThreads fr (fun _ t => t.flag fILLMOD) else s)) s,
        o ++ frs.map (fun fr => (fr, some v))) := by
    intro frs
    induction frs with
    | nil => intro s o; simp
    | cons a r ih => intro s o; simp only [List.foldl_cons, ih]; simp
  rw [this]
  simp

/-- All groups go on at one PC. -/
theorem afterGroups_same (s : State) (h : Sheaf) (e : RunEnd) (frs : List (List Nat)) (v : Va) (hne : frs ≠ []) :
    s.afterGroups h e (frs.map (fun fr => (fr, some v))) =
      (match e with
        | .cont => s.contSheaf { h with pc := v }
        | .run => s.closeRun { h with pc := v }
        | .sheaf => s.endSheaf { h with pc := v } (fun _ => v)) := by
  cases frs with
  | nil => exact absurd rfl hne
  | cons a r =>
    simp only [List.map_cons, State.afterGroups]
    exact (if_pos (by simp)).trans (by cases e <;> rfl)

/-- The sheaf goes on inside its run. -/
theorem contSheaf_active (s : State) (h : Sheaf) (ha : h.active ≠ []) : s.contSheaf h = s.setFront { h with inRun := true, refetch := 0 } := by
  unfold State.contSheaf
  rw [if_neg]
  simpa using ha

theorem setFront_eq (s : State) (h : Sheaf) : s.setFront h = { s with sheaves := (s.setFront h).sheaves } := by
  unfold State.setFront; cases hu : s.sheaves <;> rfl

theorem setFront_front (s : State) (h : Sheaf) (x : Sheaf) (hf : s.front = some x) : (s.setFront h).front = some h := by
  unfold State.front at *; unfold State.setFront
  cases hu : s.sheaves with
  | nil => rw [hu] at hf; simp at hf
  | cons a r => rfl

theorem setFront_drop (s : State) (h : Sheaf) : (s.setFront h).sheaves.drop 1 = s.sheaves.drop 1 := by
  unfold State.setFront; cases hu : s.sheaves <;> simp [hu]

/-- A fold over fragments that changes each one's wave, and flags its threads. -/
theorem waveFold (frs : List (List Nat)) (ill : Bool) (eff : Nat → Wave → Wave) (s : State) :
    frs.foldl (fun s fr => (if ill then s.modThreads fr (fun _ t => t.flag fILLMOD) else s).modWave (wkOf (fr.headD 0)) (eff (fr.headD 0))) s =
      { s with waves := frs.foldl (fun w fr => tmap w (wkOf (fr.headD 0)) (eff (fr.headD 0))) s.waves,
               threads := frs.foldl (fun t fr => if ill then tmapOn t fr (fun _ t => t.flag fILLMOD) else t) s.threads } := by
  induction frs generalizing s with
  | nil => rfl
  | cons a r ih =>
    simp only [List.foldl_cons]
    rw [ih]
    cases ill <;> rfl

theorem waveFold_other (frs : List (List Nat)) (eff : Nat → Wave → Wave) (w : Tbl Wave) (k : Nat)
    (h : ∀ fr ∈ frs, wkOf (fr.headD 0) ≠ k) :
    tget (frs.foldl (fun w fr => tmap w (wkOf (fr.headD 0)) (eff (fr.headD 0))) w) k = tget w k := by
  induction frs generalizing w with
  | nil => rfl
  | cons a r ih =>
    simp only [List.foldl_cons]
    rw [ih _ (fun fr hfr => h fr (List.mem_cons_of_mem _ hfr)),
      tget_tmap_other _ _ _ _ (Ne.symm (h a List.mem_cons_self))]

theorem waveFold_self (frs : List (List Nat)) (eff : Nat → Wave → Wave) (w : Tbl Wave)
    (hn : (frs.map (fun fr => wkOf (fr.headD 0))).Nodup) (fr : List Nat) (hfr : fr ∈ frs) :
    tget (frs.foldl (fun w fr => tmap w (wkOf (fr.headD 0)) (eff (fr.headD 0))) w) (wkOf (fr.headD 0)) =
      (tget w (wkOf (fr.headD 0))).map (eff (fr.headD 0)) := by
  induction frs generalizing w with
  | nil => exact absurd hfr List.not_mem_nil
  | cons a r ih =>
    simp only [List.map_cons, List.nodup_cons] at hn
    simp only [List.foldl_cons]
    rcases List.mem_cons.mp hfr with e | h
    · subst e
      rw [waveFold_other _ _ _ _ (fun x hx e => hn.1 (List.mem_map.mpr ⟨x, hx, e⟩)), tget_tmap_self]
    · rw [ih _ hn.2 h, tget_tmap_other]
      intro e
      exact hn.1 (List.mem_map.mpr ⟨fr, h, e⟩)

theorem flagFold_other (frs : List (List Nat)) (ill : Bool) (t : Tbl Thread) (k : Nat) (h : ∀ fr ∈ frs, k ∉ fr) :
    tget (frs.foldl (fun t fr => if ill then tmapOn t fr (fun _ t => t.flag fILLMOD) else t) t) k = tget t k := by
  induction frs generalizing t with
  | nil => rfl
  | cons a r ih =>
    simp only [List.foldl_cons]
    rw [ih _ (fun fr hfr => h fr (List.mem_cons_of_mem _ hfr))]
    cases ill
    · rfl
    · have := h a List.mem_cons_self
      cases ht : tget t k <;> simp [tget_tmapOn, ht, this]

theorem flag_flag (t : Thread) (f : W32) : (t.flag f).flag f = t.flag f := by
  simp [Thread.flag, BitVec.or_assoc]

theorem flagFold_self (frs : List (List Nat)) (ill : Bool) (t : Tbl Thread) (k : Nat) (h : ∃ fr ∈ frs, k ∈ fr) :
    tget (frs.foldl (fun t fr => if ill then tmapOn t fr (fun _ t => t.flag fILLMOD) else t) t) k =
      (tget t k).map (fun t => if ill then t.flag fILLMOD else t) := by
  induction frs generalizing t with
  | nil => obtain ⟨_, h, _⟩ := h; exact absurd h List.not_mem_nil
  | cons a r ih =>
    simp only [List.foldl_cons]
    by_cases hr : ∃ fr ∈ r, k ∈ fr
    · rw [ih _ hr]
      cases ill
      · rfl
      · by_cases hk : k ∈ a <;> cases ht : tget t k <;> simp [tget_tmapOn, ht, hk, flag_flag]
    · obtain ⟨fr, hfr, hk⟩ := h
      have ha : k ∈ a := by
        rcases List.mem_cons.mp hfr with e | h
        · exact e ▸ hk
        · exact absurd ⟨fr, h, hk⟩ hr
      rw [flagFold_other _ _ _ _ (fun x hx hkx => hr ⟨x, hx, hkx⟩)]
      cases ill
      · simp
      · cases ht : tget t k <;> simp [tget_tmapOn, ht, ha]

/-- The effect of a uniform instruction whose body changes its fragment's wave only. -/
theorem uniEffect_of_body (i : Instr) (p : Nat) (m : Option ModW) (f : Fields) (ill : Bool)
    (body : Sheaf → W64 → List Nat → State → State × Option Va) (eff : State → Nat → Wave → Wave)
    (hi : ∀ s, exec i s = State.uniOp s p m f ill .cont body)
    (hb : ∀ (h : Sheaf) (s u : State) (fr : List Nat), s.front = some h → fr ∈ h.fragments →
      (∀ k ∈ h.active, (tget s.waves (wkOf k)).isSome = true) →
      u.wave (wkOf (fr.headD 0)) = s.wave (wkOf (fr.headD 0)) → u.thread (fr.headD 0) = (if ill then (s.thread (fr.headD 0)).flag fILLMOD else s.thread (fr.headD 0)) →
      u = { s with waves := u.waves, threads := u.threads } →
      body h (wordsOf p m f) fr u = (u.modWave (wkOf (fr.headD 0)) (eff s (fr.headD 0)), some (afterPc h.pc (wordsOf p m f)))) :
    Claims.UniEffect i (wordsOf p m f) ill eff := by
  intro s h hs hw
  obtain ⟨hf, ha, hn, hp⟩ := hs
  have hcov := byWave_covers h.active
  have hspec := fun fr => byWave_spec h.active fr
  have hwn : (h.fragments.map (fun fr => wkOf (fr.headD 0))).Nodup := by
    rw [Sheaf.fragments, byWave_waves]; exact nodup_dedup _
  -- the run of the fragments
  have hrun : ∀ (frs : List (List Nat)) (u : State) (o : List (List Nat × Option Va)),
      (∀ fr ∈ frs, fr ∈ h.fragments) → (frs.map (fun fr => wkOf (fr.headD 0))).Nodup →
      (∀ fr ∈ frs, u.wave (wkOf (fr.headD 0)) = s.wave (wkOf (fr.headD 0)) ∧
        ∀ k ∈ fr, tget u.threads k = tget s.threads k) →
      u = { s with waves := u.waves, threads := u.threads } →
      frs.foldl (fun x fr =>
        let y := body h (wordsOf p m f) fr (if ill = true then x.1.modThreads fr (fun _ t => t.flag fILLMOD) else x.1)
        (y.1, x.2 ++ [(fr, y.2)])) (u, o) =
      (frs.foldl (fun s' fr => (if ill then s'.modThreads fr (fun _ t => t.flag fILLMOD) else s').modWave (wkOf (fr.headD 0)) (eff s (fr.headD 0))) u,
        o ++ frs.map (fun fr => (fr, some (afterPc h.pc (wordsOf p m f))))) := by
    intro frs
    induction frs with
    | nil => intro u o _ _ _ _; simp
    | cons a r ih =>
      intro u o hm hnd hu hshape
      simp only [List.foldl_cons]
      have ham := hm a List.mem_cons_self
      obtain ⟨hhd, hfil⟩ := hspec a ham
      have h1 : (if ill = true then u.modThreads a (fun _ t => t.flag fILLMOD) else u).wave (wkOf (a.headD 0)) = s.wave (wkOf (a.headD 0)) := by
        rw [← (hu a List.mem_cons_self).1]; cases ill <;> rfl
      have h2 : (if ill = true then u.modThreads a (fun _ t => t.flag fILLMOD) else u).thread (a.headD 0) = (if ill then (s.thread (a.headD 0)).flag fILLMOD else s.thread (a.headD 0)) := by
        have h3 := (hu a List.mem_cons_self).2 _ hhd
        cases ill
        · show (tget u.threads (a.headD 0)).getD {} = (tget s.threads (a.headD 0)).getD {}
          rw [h3]
        · have hact : a.headD 0 ∈ h.active := (byWave_mem _ _ ham _ hhd).1
          obtain ⟨v, hv⟩ := Option.isSome_iff_exists.mp (hp _ hact)
          rw [hv] at h3
          simp only [if_true, State.thread, State.modThreads, tgetD, tget_tmapOn, h3, hv]
          rw [Option.map_some, if_pos (by simpa using hhd)]
          rfl
      have h3 : (if ill = true then u.modThreads a (fun _ t => t.flag fILLMOD) else u) =
          { s with waves := (if ill = true then u.modThreads a (fun _ t => t.flag fILLMOD) else u).waves,
                   threads := (if ill = true then u.modThreads a (fun _ t => t.flag fILLMOD) else u).threads } := by
        cases ill
        · exact hshape
        · simp only [if_true]; rw [State.modThreads, hshape]
      rw [hb h s _ a hf ham hw h1 h2 h3]
      simp only [List.map_cons, List.nodup_cons] at hnd
      rw [ih _ _ (fun fr hfr => hm fr (List.mem_cons_of_mem _ hfr)) hnd.2]
      · simp
      · intro fr hfr
        have hne : wkOf (fr.headD 0) ≠ wkOf (a.headD 0) := by
          intro e; exact hnd.1 (List.mem_map.mpr ⟨fr, hfr, e⟩)
        have h5 := hu fr (List.mem_cons_of_mem _ hfr)
        refine ⟨?_, ?_⟩
        · rw [wave_modWave_other _ _ _ _ hne, ← h5.1]
          cases ill <;> rfl
        · intro k hk
          rw [← h5.2 k hk]
          have hkw : wkOf k = wkOf (fr.headD 0) := (byWave_mem _ _ (hm fr (List.mem_cons_of_mem _ hfr)) _ hk).2
          cases ill
          · rfl
          · have hc : k ∉ a := fun hc => hne (by rw [← hkw]; exact (byWave_mem _ _ ham _ hc).2)
            show tget (tmapOn u.threads a (fun _ t => t.flag fILLMOD)) k = _
            cases ht : tget u.threads k <;> simp [tget_tmapOn, ht, hc]
      · cases ill
        · rw [hshape]; rfl
        · rw [hshape]; rfl
  have hne := byWave_ne_nil _ ha
  refine ⟨((h.fragments.foldl (fun s' fr => (if ill then s'.modThreads fr (fun _ t => t.flag fILLMOD) else s').modWave (wkOf (fr.headD 0)) (eff s (fr.headD 0))) s).setFront
      (Claims.after h (wordsOf p m f) h.latch)), ?_, ?_, ?_, ?_, ?_, ?_, ?_⟩
  · rw [hi]
    simp only [State.uniOp, hf]
    have := hrun h.fragments s [] (fun _ h => h) hwn (fun fr _ => ⟨rfl, fun _ _ => rfl⟩) rfl
    simp only [] at this
    rw [this]
    simp only [List.nil_append]
    have := afterGroups_same (h.fragments.foldl (fun s' fr => (if ill then s'.modThreads fr (fun _ t => t.flag fILLMOD) else s').modWave (wkOf (fr.headD 0)) (eff s (fr.headD 0))) s) h .cont h.fragments (afterPc h.pc (wordsOf p m f)) hne
    rw [this]
    simp only []
    rw [contSheaf_active _ _ (by exact ha)]
    rfl
  · exact setFront_front _ _ h (by rw [waveFold]; exact hf)
  · intro fr hfr
    rw [setFront_eq]
    rw [waveFold]
    simp only [State.wave, tgetD]
    rw [waveFold_self _ _ _ hwn _ hfr]
    have hact : fr.headD 0 ∈ h.active := (byWave_mem _ _ hfr _ (hspec fr hfr).1).1
    obtain ⟨v, hv⟩ := Option.isSome_iff_exists.mp (hw _ hact)
    rw [hv]; rfl
  · intro wk hk
    rw [setFront_eq, waveFold]
    simp only [State.wave, tgetD]
    rw [waveFold_other]
    intro fr hfr e
    have hact : fr.headD 0 ∈ h.active := (byWave_mem _ _ hfr _ (hspec fr hfr).1).1
    exact hk _ hact e
  · intro k hk
    rw [setFront_eq, waveFold]
    simp only [State.thread, tgetD]
    obtain ⟨fr, hfr, hkf, _⟩ := hcov k hk
    have := flagFold_self h.fragments ill s.threads k ⟨fr, hfr, hkf⟩
    rw [this]
    obtain ⟨v, hv⟩ := Option.isSome_iff_exists.mp (hp _ hk)
    rw [hv]; cases ill <;> rfl
  · intro k hk
    rw [setFront_eq, waveFold]
    simp only [State.thread, tgetD]
    rw [flagFold_other]
    intro fr hfr hkf
    exact hk (byWave_mem _ _ hfr _ hkf).1
  · refine ⟨?_, ?_⟩
    · rw [setFront_eq, waveFold]
    · rw [setFront_drop, waveFold]

end Sys2Proof.Machine
end

