-- ==== Sys2Proof/Laws/Memory.lean ====
section
/-! SUPPORT. Memory: what a write leaves, and that every memory operation keeps the canonical form. -/

namespace Sys2Proof.Machine

theorem memGet_below (m : List Host.Cell) (lo a : Nat) (h : memWfFrom lo m = true) (ha : a < lo) :
    memGet m a = unwrittenByte := by
  induction m generalizing lo with
  | nil => rfl
  | cons e r ih =>
    obtain ⟨i, b⟩ := e
    simp only [memWfFrom, Bool.and_eq_true, decide_eq_true_eq] at h
    have : i ≠ a := by omega
    simp only [memGet, this, if_false]
    exact ih (i + 1) h.2 (by omega)

theorem memWfFrom_mono (m : List Host.Cell) (lo lo' : Nat) (h : memWfFrom lo m = true) (hl : lo' ≤ lo) :
    memWfFrom lo' m = true := by
  cases m with
  | nil => rfl
  | cons e r =>
    obtain ⟨i, b⟩ := e
    simp only [memWfFrom, Bool.and_eq_true, decide_eq_true_eq] at h ⊢
    exact ⟨⟨by omega, h.1.2⟩, h.2⟩

/-- A byte read where it was written. -/
theorem memGet_memSet_self (m : List Host.Cell) (lo a : Nat) (b : W8) (h : memWfFrom lo m = true) :
    memGet (memSet m a b) a = b := by
  induction m generalizing lo with
  | nil => simp only [memSet]; split <;> simp_all [memGet]
  | cons e r ih =>
    obtain ⟨i, c⟩ := e
    have h' := h
    simp only [memWfFrom, Bool.and_eq_true, decide_eq_true_eq] at h
    simp only [memSet]
    split
    · rename_i hi; subst hi
      split
      · rename_i hb; rw [hb]; exact memGet_below r (i + 1) i h.2 (by omega)
      · simp [memGet]
    · split
      · split
        · rename_i hlt hb
          rw [hb]
          exact memGet_below _ i a (memWfFrom_mono _ _ _ (by simp [memWfFrom, h.1.2, h.2]) (Nat.le_refl _)) hlt
        · simp [memGet]
      · rename_i hne _
        simp only [memGet, hne, if_false]
        exact ih (i + 1) h.2

/-- A byte read elsewhere. -/
theorem memGet_memSet_other (m : List Host.Cell) (a a' : Nat) (b : W8) (hne : a' ≠ a) :
    memGet (memSet m a b) a' = memGet m a' := by
  induction m with
  | nil => simp only [memSet]; split <;> simp [memGet, Ne.symm hne]
  | cons e r ih =>
    obtain ⟨i, c⟩ := e
    simp only [memSet]
    split
    · rename_i hi; subst hi
      split <;> simp [memGet, Ne.symm hne]
    · split
      · split <;> simp [memGet, Ne.symm hne]
      · simp [memGet, ih]

theorem memSet_wfFrom (m : List Host.Cell) (lo a : Nat) (b : W8) (h : memWfFrom lo m = true) (ha : lo ≤ a) :
    memWfFrom lo (memSet m a b) = true := by
  induction m generalizing lo with
  | nil => simp only [memSet]; split <;> simp_all [memWfFrom]
  | cons e r ih =>
    obtain ⟨i, c⟩ := e
    simp only [memWfFrom, Bool.and_eq_true, decide_eq_true_eq] at h
    simp only [memSet]
    split
    · rename_i hi; subst hi
      split
      · exact memWfFrom_mono _ _ _ h.2 (by omega)
      · rename_i hb; simp [memWfFrom, ha, hb, h.2]
    · split
      · rename_i hlt
        split
        · simp [memWfFrom, h]
        · rename_i hb
          simp only [memWfFrom, Bool.and_eq_true, decide_eq_true_eq]
          exact ⟨⟨ha, by simpa using hb⟩, ⟨by omega, h.1.2⟩, h.2⟩
      · simp only [memWfFrom, Bool.and_eq_true, decide_eq_true_eq]
        exact ⟨h.1, ih (i + 1) h.2 (by omega)⟩

/-- A write keeps the canonical form. -/
theorem memSet_wf (m : List Host.Cell) (a : Nat) (b : W8) (h : memWf m = true) : memWf (memSet m a b) = true :=
  memSet_wfFrom m 0 a b h (Nat.zero_le a)

/-- Writes keep the canonical form. -/
theorem memSetAll_wf (c m : List Host.Cell) (h : memWf m = true) : memWf (memSetAll m c) = true := by
  induction c generalizing m with
  | nil => exact h
  | cons e r ih => exact ih _ (memSet_wf m e.1 e.2 h)

/-- Writes leave every address that they do not name. -/
theorem memGet_memSetAll_other (c m : List Host.Cell) (a : Nat) (h : ∀ e ∈ c, e.1 ≠ a) :
    memGet (memSetAll m c) a = memGet m a := by
  induction c generalizing m with
  | nil => rfl
  | cons e r ih =>
    have := ih (memSet m e.1 e.2) (fun x hx => h x (List.mem_cons_of_mem _ hx))
    simp only [memSetAll, List.foldl_cons] at this ⊢
    rw [this, memGet_memSet_other _ _ _ _ (Ne.symm (h e List.mem_cons_self))]

/-- The empty memory is canonical. -/
theorem memWf_nil : memWf [] = true := rfl

/-- The memory of reset is canonical. -/
theorem reset_wf : Memory.wf State.reset.mem = true := rfl

/-- Two canonical memories that read alike are one list. -/
theorem memWfFrom_ext (m m' : List Host.Cell) (lo lo' : Nat) (h : memWfFrom lo m = true) (h' : memWfFrom lo' m' = true)
    (hg : ∀ a, memGet m a = memGet m' a) : m = m' := by
  induction m generalizing m' lo lo' with
  | nil =>
    cases m' with
    | nil => rfl
    | cons e r =>
      obtain ⟨i, b⟩ := e
      simp only [memWfFrom, Bool.and_eq_true, decide_eq_true_eq] at h'
      have := hg i
      simp [memGet] at this
      exact absurd this.symm h'.1.2
  | cons e r ih =>
    obtain ⟨i, b⟩ := e
    have hm := h
    simp only [memWfFrom, Bool.and_eq_true, decide_eq_true_eq] at h
    cases m' with
    | nil =>
      have := hg i
      simp [memGet] at this
      exact absurd this h.1.2
    | cons e' r' =>
      obtain ⟨j, c⟩ := e'
      have hm' := h'
      simp only [memWfFrom, Bool.and_eq_true, decide_eq_true_eq] at h'
      have hij : i = j := by
        rcases Nat.lt_trichotomy i j with hlt | heq | hgt
        · have h1 := hg i
          have h2 : memGet ((j, c) :: r') i = unwrittenByte :=
            memGet_below _ j i (by simp [memWfFrom, h'.1.2, h'.2]) hlt
          rw [h2] at h1
          simp [memGet] at h1
          exact absurd h1 h.1.2
        · exact heq
        · have h1 := hg j
          have h2 : memGet ((i, b) :: r) j = unwrittenByte :=
            memGet_below _ i j (by simp [memWfFrom, h.1.2, h.2]) hgt
          rw [h2] at h1
          simp [memGet] at h1
          exact absurd h1.symm h'.1.2
      subst hij
      have hb : b = c := by simpa [memGet] using hg i
      subst hb
      have : r = r' := ih r' (i + 1) (i + 1) h.2 h'.2 (fun a => by
        by_cases ha : a < i + 1
        · rw [memGet_below r (i + 1) a h.2 ha, memGet_below r' (i + 1) a h'.2 ha]
        · have := hg a
          have hne : i ≠ a := by omega
          simpa [memGet, hne] using this)
      rw [this]

end Sys2Proof.Machine
end

