-- ==== Sys2Proof/Laws/Frame.lean ====
section
/-! SUPPORT. What a write of a context frame does to memory (20 R370, R372). -/

namespace Sys2Proof.Machine

/-- A byte that some cell writes, and that every cell of its address writes alike. -/
theorem memGet_memSetAll_of (c m : List Host.Cell) (a : Nat) (v : W8) (h : memWf m = true) (hv : ∀ e ∈ c, e.1 = a → e.2 = v)
    (hm : ∃ e ∈ c, e.1 = a) : memGet (memSetAll m c) a = v := by
  induction c generalizing m with
  | nil => obtain ⟨_, he, _⟩ := hm; cases he
  | cons e r ih =>
    have hw := memSet_wf m e.1 e.2 h
    have hr : ∀ x ∈ r, x.1 = a → x.2 = v := fun x hx => hv x (List.mem_cons_of_mem _ hx)
    by_cases hs : ∃ x ∈ r, x.1 = a
    · exact ih _ hw hr hs
    · have hn : ∀ x ∈ r, x.1 ≠ a := fun x hx he => hs ⟨x, hx, he⟩
      show memGet (memSetAll (memSet m e.1 e.2) r) a = v
      rw [memGet_memSetAll_other r _ a hn]
      obtain ⟨x, hx, hxa⟩ := hm
      rcases List.mem_cons.1 hx with rfl | hx
      · rw [← hxa, memGet_memSet_self m 0 _ _ h]; exact hv _ (List.mem_cons_self ..) hxa
      · exact absurd hxa (hn x hx)

/-- What the write of a team's frame does: a byte of a written offset is that of the frame, and every other byte stands. -/
theorem writeFrame_byte (s : State) (tk b a : Nat) (os : List Nat) (v : W64) (hf : s.framePa tk = some b) (h : memWf s.mem.home = true) :
    memGet (s.writeFrame tk os v).mem.home a = if b ≤ a ∧ a - b ∈ os then s.frameByte tk (a - b) v else memGet s.mem.home a := by
  simp only [State.writeFrame, hf, State.putBytes]
  split
  · rename_i hc
    refine memGet_memSetAll_of _ _ _ _ h (fun e he ha => ?_) ⟨(b + (a - b), s.frameByte tk (a - b) v), List.mem_map.2 ⟨a - b, hc.2, rfl⟩, by
      show b + (a - b) = a; omega⟩
    obtain ⟨o, _, rfl⟩ := List.mem_map.1 he
    have : o = a - b := by simp only at ha; omega
    rw [this]
  · rename_i hc
    refine memGet_memSetAll_other _ _ _ (fun e he ha => hc ?_)
    obtain ⟨o, ho, rfl⟩ := List.mem_map.1 he
    have : a - b = o := by simp only at ha; omega
    exact ⟨by simp only at ha; omega, this ▸ ho⟩

/-- A team without a frame writes nothing. -/
theorem writeFrame_none (s : State) (tk : Nat) (os : List Nat) (v : W64) (h : s.framePa tk = none) : s.writeFrame tk os v = s := by
  simp only [State.writeFrame, h]

/-- A frame's write changes the home value of bytes, and the views and the logs of the dies. -/
theorem putBytes_frame (s : State) (c : List Host.Cell) :
    s.putBytes c = { s with mem := { s.mem with home := (s.putBytes c).mem.home }, dies := (s.putBytes c).dies } := rfl

/-- It keeps the canonical form of memory. -/
theorem putBytes_wf (s : State) (c : List Host.Cell) (h : Memory.wf s.mem = true) : Memory.wf (s.putBytes c).mem = true := by
  simp only [Memory.wf, Bool.and_eq_true] at h ⊢
  exact ⟨memSetAll_wf c _ h.1, h.2⟩

/-- It keeps the canonical form of a die's view. -/
theorem putBytes_view_wf (d : Die) (c : List Host.Cell) (h : memWf d.view = true) : memWf (d.putBytes c).view = true :=
  memSetAll_wf c _ h

/-- It keeps the translations of a die. -/
theorem putBytes_mtlb (d : Die) (c : List Host.Cell) : (d.putBytes c).mtlb = d.mtlb := rfl

end Sys2Proof.Machine
end

