-- ==== Sys2Proof/Laws/Lanes.lean ====
section
/-! SUPPORT. What a lane instruction does (08 R143): the lanes it runs, the threads it leaves, the chain it shifts. -/

namespace Sys2Proof.Machine

@[simp] theorem putLanes_nil (s : State) : s.putLanes [] = s := rfl

theorem putLanes_cons (s : State) (l : Lane) (r : List Lane) :
    s.putLanes (l :: r) = (s.modThread l.tid (fun _ => l.final)).putLanes r := rfl

/-- Lanes stored back change threads only. -/
theorem putLanes_eq (ls : List Lane) (s : State) : s.putLanes ls = { s with threads := (s.putLanes ls).threads } := by
  induction ls generalizing s with
  | nil => rfl
  | cons l r ih =>
    rw [putLanes_cons, ih]
    rfl

theorem putLanes_isSome (ls : List Lane) (s : State) (k : Nat) :
    (tget (s.putLanes ls).threads k).isSome = (tget s.threads k).isSome := by
  induction ls generalizing s with
  | nil => rfl
  | cons l r ih =>
    rw [putLanes_cons, ih]
    by_cases h : k = l.tid
    · subst h; simp [tget_tmap_self]
    · simp [tget_tmap_other _ _ _ _ h]

/-- A thread of no lane is as it was. -/
theorem putLanes_thread_other (ls : List Lane) (s : State) (k : Nat) (h : ∀ l ∈ ls, l.tid ≠ k) :
    (s.putLanes ls).thread k = s.thread k := by
  induction ls generalizing s with
  | nil => rfl
  | cons l r ih =>
    rw [putLanes_cons, ih _ (fun x hx => h x (List.mem_cons_of_mem _ hx)),
      thread_modThread_other _ _ _ _ (Ne.symm (h l List.mem_cons_self))]

/-- The thread of a lane is what the lane ended with. -/
theorem putLanes_thread (ls : List Lane) (s : State) (l : Lane) (hl : l ∈ ls) (hn : (ls.map (·.tid)).Nodup)
    (hs : (tget s.threads l.tid).isSome) : (s.putLanes ls).thread l.tid = l.final := by
  induction ls generalizing s with
  | nil => exact absurd hl List.not_mem_nil
  | cons x r ih =>
    rw [putLanes_cons]
    simp only [List.map_cons, List.nodup_cons] at hn
    rcases List.mem_cons.mp hl with h | h
    · subst h
      rw [putLanes_thread_other _ _ _ (fun y hy he => hn.1 (List.mem_map.mpr ⟨y, hy, he⟩)),
        thread_modThread_self _ _ _ hs]
    · refine ih _ h hn.2 ?_
      by_cases he : l.tid = x.tid
      · simp [he, tget_tmap_self]; rw [← he]; exact hs
      · simpa [tget_tmap_other _ _ _ _ he] using hs

/-- No lane traps: no trap is added. -/
theorem trapsOf_none (ls : List Lane) (pc : Va) (w : W64) (h : ∀ l ∈ ls, l.trap = none) : trapsOf ls pc w = [] := by
  induction ls with
  | nil => rfl
  | cons l r ih =>
    have h1 := h l List.mem_cons_self
    have h2 := ih (fun x hx => h x (List.mem_cons_of_mem _ hx))
    simp only [trapsOf] at h2 ⊢
    simp [h1, h2]

/-- A lane without a trap ends as it stands. -/
theorem final_of_none (l : Lane) (h : l.trap = none) : l.final = l.t := by simp [Lane.final, h]

/-- A body that keeps the lane's number: its lanes are numbered as the active threads. -/
theorem lanes_tids (s : State) (h : Sheaf) (ill : Bool) (body : Lane → Lane) (hb : ∀ l, (body l).tid = l.tid) :
    (s.lanes h ill body).map (·.tid) = h.active := by
  have : ∀ xs : List Nat, (xs.map (fun t => body (s.lane h t ill))).map (·.tid) = xs := by
    intro xs
    induction xs with
    | nil => rfl
    | cons t r ih => simp only [List.map_cons, ih, hb]; rfl
  exact this h.active

/-- The row that a body's lanes enter in the chain. -/
def rowOf (s : State) (h : Sheaf) (ill : Bool) (body : Lane → Lane) : Tbl LatchVal :=
  h.active.map (fun t => let l := body (s.lane h t ill); (t, .val (if l.trap = none then l.out else 0)))

/-- A lane instruction in which some lane does not trap: the sheaf goes on at the next instruction, each active thread is
what its lane ended with, and nothing else changes. -/
theorem laneOp_next (s : State) (h : Sheaf) (p : Nat) (m : Option ModW) (f : Fields) (ill shift : Bool)
    (body : Lane → Lane) (hb : ∀ l, (body l).tid = l.tid) (hf : s.front = some h)
    (ht : ∃ t ∈ h.active, (body (s.lane h t ill)).trap = none) :
    s.laneOp p m f ill shift body = .next
      ((s.putLanes (s.lanes h ill body)).setFront
        { h with pc := afterPc h.pc (wordsOf p m f), inRun := true, refetch := 0,
                 latch := if shift then shiftLatch h.latch (rowOf s h ill body) else h.latch,
                 trapped := h.trapped ++ trapsOf (s.lanes h ill body) h.pc (wordsOf p m f) }) := by
  have hrow : (s.lanes h ill body).map (fun l => (l.tid, LatchVal.val (if l.trap.isSome then 0 else l.out)))
      = rowOf s h ill body := by
    simp only [rowOf, State.lanes, List.map_map]
    refine List.map_congr_left (fun t _ => ?_)
    simp only [Function.comp, hb]
    cases hx : (body (s.lane h t ill)).trap <;> simp [State.lane]
  obtain ⟨k, hk, hkt⟩ := ht
  have hact : ∀ x : Sheaf, x.tids = h.tids →
      x.trapped = h.trapped ++ trapsOf (s.lanes h ill body) h.pc (wordsOf p m f) → x.active.isEmpty = false := by
    intro x h1 h2
    have hm : k ∈ x.active := by
      have h0 := List.mem_filter.mp hk
      refine List.mem_filter.mpr ⟨h1 ▸ h0.1, ?_⟩
      rw [h2, List.any_append]
      have h3 : (trapsOf (s.lanes h ill body) h.pc (wordsOf p m f)).any (fun y => y.tid = k) = false := by
        rw [List.any_eq_false]
        intro y hy
        obtain ⟨l, hl, hy⟩ := List.mem_filterMap.mp hy
        obtain ⟨t, _, rfl⟩ := List.mem_map.mp hl
        cases hx : (body (s.lane h t ill)).trap with
        | none => rw [hx] at hy; exact absurd hy (by simp)
        | some c =>
          rw [hx] at hy
          have : y.tid = t := by
            have := Option.some.inj hy
            rw [← this]; exact hb _
          intro e
          have e : y.tid = k := by simpa using e
          rw [← e, this, hx] at hkt
          exact absurd hkt (by simp)
      rw [h3, Bool.or_false]
      exact h0.2
    cases hh : x.active with
    | nil => rw [hh] at hm; exact absurd hm List.not_mem_nil
    | cons a r => rfl
  simp only [State.laneOp, hf, State.runLanes, hrow]
  simp only [State.contSheaf]
  rw [if_neg (by rw [hact _ (by rfl) (by rfl)]; decide)]

end Sys2Proof.Machine
end

