-- ==== Sys2Proof/Laws/Operands.lean ====
section
/-! SUPPORT. Operands: a lane keeps its number through every read and write; values of 32-bit positions; and how the
effect of a lane instruction follows from its body. -/

namespace Sys2Proof.Machine

@[simp] theorem flag_tid (l : Lane) (f : W32) : (l.flag f).tid = l.tid := rfl

@[simp] theorem raise_tid (l : Lane) (c : Nat) (v : W64) : (l.raise c v).tid = l.tid := by
  unfold Lane.raise; split <;> rfl

@[simp] theorem rdReg_tid (l : Lane) (n : Nat) (lu : Bool) : (l.rdReg n lu).2.tid = l.tid := by
  unfold Lane.rdReg
  dsimp only
  repeat' split
  all_goals first | rfl | simp

@[simp] theorem rd_tid (l : Lane) (a : BitVec 7) (lu : Bool) (c w : Nat) : (l.rd a lu c w).2.tid = l.tid := by
  unfold Lane.rd
  dsimp only
  split
  · split <;> simp
  · split
    · split <;> simp
    · split <;> rfl

@[simp] theorem rdVd_tid (l : Lane) (vd : BitVec 6) (lu : Bool) (w : Nat) : (l.rdVd vd lu w).2.tid = l.tid :=
  rd_tid _ _ _ _ _

@[simp] theorem wr_tid (l : Lane) (vd : BitVec 6) (nw : Bool) (w : Nat) (v : W64) : (l.wr vd nw w v).tid = l.tid := rfl

@[simp] theorem wrNat_tid (l : Lane) (vd : BitVec 6) (nw : Bool) (w v : Nat) : (l.wrNat vd nw w v).tid = l.tid := rfl

/-- A write of a 32-bit position depends on the low half only. -/
theorem wr_low (l : Lane) (vd : BitVec 6) (nw : Bool) (w : Nat) (u v : W64) (hw : w ≠ 64) (h : lo32 u = lo32 v) :
    l.wr vd nw w u = l.wr vd nw w v := by
  unfold Lane.wr; simp [hw, h]

theorem constInt_lt (w code : Nat) (lo hi : Int) : constInt w code lo hi < 2 ^ w := by
  have h : ∀ v : Int, (v.emod ((2 ^ w : Nat) : Int)).toNat < 2 ^ w := by
    intro v
    have hp : (0 : Int) < ((2 ^ w : Nat) : Int) := by exact_mod_cast Nat.two_pow_pos w
    have h1 := Int.emod_lt_of_pos v hp
    have h2 := Int.emod_nonneg v (Int.ne_of_gt hp)
    have h3 : v.emod ((2 ^ w : Nat) : Int) = v % ((2 ^ w : Nat) : Int) := rfl
    omega
  exact h _

/-- A 32-bit position holds a 32-bit value, for a source that is no constant of a float format. -/
theorem rd_lt (l : Lane) (a : BitVec 7) (lu : Bool) (c : Nat) (hc : isFloat c = false) :
    (l.rd a lu c 32).1.toNat < 2 ^ 32 := by
  have h : ∀ x : W32, (x.setWidth 64 : W64).toNat < 2 ^ 32 := by
    intro x; rw [BitVec.toNat_setWidth]; omega
  unfold Lane.rd
  simp only [show (32 : Nat) ≠ 64 by decide, if_false]
  split
  · exact h _
  · split
    · split
      · exact h _
      · simp
    · split
      · exact h _
      · simp only [constant, hc, Bool.false_eq_true, if_false]
        rw [BitVec.toNat_ofNat]
        exact Nat.lt_of_le_of_lt (Nat.mod_le _ _) (constInt_lt _ _ _ _)

/-- The effect of a lane instruction from its body: where the body agrees with `eff` on every lane, and keeps its
lane's number. -/
theorem laneEffectAt_of_body (i : Instr) (p : Nat) (m : Option ModW) (f : Fields) (ill shift : Bool)
    (eff : State → Sheaf → Lane → Lane)
    (hi : ∀ s h, s.front = some h → exec i s = State.laneOp s p m f ill shift (eff s h))
    (hb : ∀ s h l, (eff s h l).tid = l.tid) : Claims.LaneEffectAt i (wordsOf p m f) ill shift eff := by
  intro s h hs ht
  obtain ⟨hf, -, hn, hp⟩ := hs
  refine ⟨_, (hi s h hf).trans (laneOp_next s h p m f ill shift (eff s h) (hb s h) hf ht), ?_, ?_, ?_, ?_⟩
  · have hne : s.sheaves ≠ [] := by intro e; simp [State.front, e] at hf
    have hsh : (s.putLanes (s.lanes h ill (eff s h))).sheaves = s.sheaves := by rw [putLanes_eq]
    unfold State.front State.setFront
    rw [hsh]
    cases hs : s.sheaves with
    | nil => exact absurd hs hne
    | cons x r => cases shift <;> rfl
  · intro k hk
    have hth : ∀ (u : State) (g : Sheaf) (k : Nat), (u.setFront g).thread k = u.thread k := by
      intro u g k; simp [State.thread]
    rw [hth]
    have hl : eff s h (s.lane h k ill) ∈ s.lanes h ill (eff s h) := List.mem_map.mpr ⟨k, hk, rfl⟩
    have htid : (eff s h (s.lane h k ill)).tid = k := hb s h _
    have := putLanes_thread (s.lanes h ill (eff s h)) s _ hl (by rw [lanes_tids _ _ _ _ (hb s h)]; exact hn) (by rw [htid]; exact hp k hk)
    rw [htid] at this
    exact this
  · intro k hk
    have hth : ∀ (u : State) (g : Sheaf) (k : Nat), (u.setFront g).thread k = u.thread k := by
      intro u g k; simp [State.thread]
    rw [hth]
    refine putLanes_thread_other _ _ _ (fun l hl => ?_)
    obtain ⟨t, ht1, rfl⟩ := List.mem_map.mp hl
    intro e
    have : (eff s h (s.lane h t ill)).tid = t := hb s h _
    rw [this] at e
    exact hk (e ▸ ht1)
  · have hne : s.sheaves ≠ [] := by intro e; simp [State.front, e] at hf
    have hq := putLanes_eq (s.lanes h ill (eff s h)) s
    refine ⟨?_, ?_⟩
    · have hset : ∀ (u : State) (g : Sheaf), u.setFront g = { u with sheaves := (u.setFront g).sheaves } := by
        intro u g; unfold State.setFront; cases hu : u.sheaves <;> rfl
      rw [hset]
      rw [hq]
    · have hsh : (s.putLanes (s.lanes h ill (eff s h))).sheaves = s.sheaves := by rw [hq]
      unfold State.setFront
      rw [hsh]
      cases hs : s.sheaves with
      | nil => exact absurd hs hne
      | cons x r => rfl

/-- A lane instruction from its body: where the body agrees with `eff` on every lane, and keeps its lane's number. -/
theorem laneEffect_of_body (i : Instr) (p : Nat) (m : Option ModW) (f : Fields) (ill shift : Bool) (body eff : Lane → Lane)
    (hi : ∀ s, exec i s = State.laneOp s p m f ill shift body) (hb : ∀ l, (body l).tid = l.tid)
    (he : ∀ l, body l = eff l) : Claims.LaneEffect i (wordsOf p m f) ill shift eff := by
  have : body = eff := funext he
  subst this
  exact laneEffectAt_of_body i p m f ill shift (fun _ _ => body) (fun s _ _ => hi s) (fun _ _ => hb)

end Sys2Proof.Machine
end

