-- ==== Sys2Proof/Laws/PerInstr.lean ====
section
/-! SUPPORT. What holds of every instruction as syntax, one lemma for each constructor: the decoding of its words answers the
instruction, where its fields are legal. -/

namespace Sys2Proof

theorem append_toNat {a b : Nat} (x : BitVec a) (y : BitVec b) : (x ++ y).toNat = x.toNat * 2 ^ b + y.toNat := by
  rw [BitVec.toNat_append, Nat.shiftLeft_eq, ← Nat.mul_comm, ← Nat.two_pow_add_eq_or_of_lt y.isLt]

theorem ofBool_nat (b : Bool) : (BitVec.ofBool b).toNat = b.toNat := by cases b <;> rfl

theorem packWord_toNat (p : Nat) (f : Fields) (h : p < 512) : (packWord p f).toNat = p * 2 ^ 23 + (packFields f).toNat := by
  refine (append_toNat (BitVec.ofNat 9 p) (packFields f)).trans ?_
  rw [BitVec.toNat_ofNat, Nat.mod_eq_of_lt (by omega)]

theorem fld_nat (w : W32) (lo n : Nat) : (fld w lo n).toNat = w.toNat / 2 ^ lo % 2 ^ n := by
  simp [fld, BitVec.extractLsb'_toNat, Nat.shiftRight_eq_div_pow]

theorem flag_nat (w : W32) (n : Nat) : flag w n = decide (w.toNat / 2 ^ n % 2 = 1) := by
  rw [flag, BitVec.getLsbD, Nat.testBit_eq_decide_div_mod_eq]

theorem primary_packWord (p : Nat) (f : Fields) (h : p < 512) : primary (packWord p f) = p := by
  have := (packFields f).isLt
  rw [primary, fld_nat, packWord_toNat p f h]
  omega

theorem fld_of {n : Nat} (w : W32) (lo : Nat) (x : BitVec n) (h : w.toNat / 2 ^ lo % 2 ^ n = x.toNat) : fld w lo n = x :=
  BitVec.eq_of_toNat_eq (by rw [fld_nat, h])

theorem flag_of (w : W32) (n : Nat) (b : Bool) (h : w.toNat / 2 ^ n % 2 = b.toNat) : flag w n = b := by
  rw [flag_nat, h]; cases b <;> rfl

/-! ### Each layout's fields read back -/

theorem pack_alu (f : Alu) : (packFields (.alu f)).toNat = (((((f.vd.toNat * 2 ^ 1 + f.nw.toNat) * 2 ^ 7 + f.a.toNat) * 2 ^ 1 + f.alu.toNat) * 2 ^ 7 + f.b.toNat) * 2 ^ 1 + f.blu.toNat) := by
  show (f.vd ++ BitVec.ofBool f.nw ++ f.a ++ BitVec.ofBool f.alu ++ f.b ++ BitVec.ofBool f.blu : BitVec (6 + 1 + 7 + 1 + 7 + 1)).toNat = _
  simp only [append_toNat, ofBool_nat]

theorem layout_alu (p : Nat) (h : p < 512) (f : Alu) (w : W32) (hw : w = packWord p (.alu f)) :
    fld w 17 6 = f.vd ∧ flag w 16 = f.nw ∧ fld w 9 7 = f.a ∧ flag w 8 = f.alu ∧ fld w 1 7 = f.b ∧ flag w 0 = f.blu := by
  have hn : w.toNat = p * 2 ^ 23 + (((((f.vd.toNat * 2 ^ 1 + f.nw.toNat) * 2 ^ 7 + f.a.toNat) * 2 ^ 1 + f.alu.toNat) * 2 ^ 7 + f.b.toNat) * 2 ^ 1 + f.blu.toNat) := by rw [hw, packWord_toNat p _ h, pack_alu]
  have h_vd := f.vd.isLt
  have h_nw := Bool.toNat_le f.nw
  have h_a := f.a.isLt
  have h_alu := Bool.toNat_le f.alu
  have h_b := f.b.isLt
  have h_blu := Bool.toNat_le f.blu
  exact ⟨fld_of w 17 _ (by rw [hn]; omega),
    flag_of w 16 _ (by rw [hn]; omega),
    fld_of w 9 _ (by rw [hn]; omega),
    flag_of w 8 _ (by rw [hn]; omega),
    fld_of w 1 _ (by rw [hn]; omega),
    flag_of w 0 _ (by rw [hn]; omega)⟩

theorem pack_aluI (f : AluI) : (packFields (.aluI f)).toNat = ((((f.vd.toNat * 2 ^ 1 + f.nw.toNat) * 2 ^ 7 + f.a.toNat) * 2 ^ 1 + f.alu.toNat) * 2 ^ 8 + f.imm.toNat) := by
  show (f.vd ++ BitVec.ofBool f.nw ++ f.a ++ BitVec.ofBool f.alu ++ f.imm : BitVec (6 + 1 + 7 + 1 + 8)).toNat = _
  simp only [append_toNat, ofBool_nat]

theorem layout_aluI (p : Nat) (h : p < 512) (f : AluI) (w : W32) (hw : w = packWord p (.aluI f)) :
    fld w 17 6 = f.vd ∧ flag w 16 = f.nw ∧ fld w 9 7 = f.a ∧ flag w 8 = f.alu ∧ fld w 0 8 = f.imm := by
  have hn : w.toNat = p * 2 ^ 23 + ((((f.vd.toNat * 2 ^ 1 + f.nw.toNat) * 2 ^ 7 + f.a.toNat) * 2 ^ 1 + f.alu.toNat) * 2 ^ 8 + f.imm.toNat) := by rw [hw, packWord_toNat p _ h, pack_aluI]
  have h_vd := f.vd.isLt
  have h_nw := Bool.toNat_le f.nw
  have h_a := f.a.isLt
  have h_alu := Bool.toNat_le f.alu
  have h_imm := f.imm.isLt
  exact ⟨fld_of w 17 _ (by rw [hn]; omega),
    flag_of w 16 _ (by rw [hn]; omega),
    fld_of w 9 _ (by rw [hn]; omega),
    flag_of w 8 _ (by rw [hn]; omega),
    fld_of w 0 _ (by rw [hn]; omega)⟩

theorem pack_mem (f : Mem) : (packFields (.mem f)).toNat = ((((f.vd.toNat * 2 ^ 1 + f.nw.toNat) * 2 ^ 7 + f.a.toNat) * 2 ^ 1 + f.alu.toNat) * 2 ^ 8 + f.d.toNat) := by
  show (f.vd ++ BitVec.ofBool f.nw ++ f.a ++ BitVec.ofBool f.alu ++ f.d : BitVec (6 + 1 + 7 + 1 + 8)).toNat = _
  simp only [append_toNat, ofBool_nat]

theorem layout_mem (p : Nat) (h : p < 512) (f : Mem) (w : W32) (hw : w = packWord p (.mem f)) :
    fld w 17 6 = f.vd ∧ flag w 16 = f.nw ∧ fld w 9 7 = f.a ∧ flag w 8 = f.alu ∧ fld w 0 8 = f.d := by
  have hn : w.toNat = p * 2 ^ 23 + ((((f.vd.toNat * 2 ^ 1 + f.nw.toNat) * 2 ^ 7 + f.a.toNat) * 2 ^ 1 + f.alu.toNat) * 2 ^ 8 + f.d.toNat) := by rw [hw, packWord_toNat p _ h, pack_mem]
  have h_vd := f.vd.isLt
  have h_nw := Bool.toNat_le f.nw
  have h_a := f.a.isLt
  have h_alu := Bool.toNat_le f.alu
  have h_d := f.d.isLt
  exact ⟨fld_of w 17 _ (by rw [hn]; omega),
    flag_of w 16 _ (by rw [hn]; omega),
    fld_of w 9 _ (by rw [hn]; omega),
    flag_of w 8 _ (by rw [hn]; omega),
    fld_of w 0 _ (by rw [hn]; omega)⟩

theorem pack_cCond (f : CCond) : (packFields (.cCond f)).toNat = ((f.n.toNat * 2 ^ 3 + f.p.toNat) * 2 ^ 19 + f.off.toNat) := by
  show (BitVec.ofBool f.n ++ f.p ++ f.off : BitVec (1 + 3 + 19)).toNat = _
  simp only [append_toNat, ofBool_nat]

theorem layout_cCond (p : Nat) (h : p < 512) (f : CCond) (w : W32) (hw : w = packWord p (.cCond f)) :
    flag w 22 = f.n ∧ fld w 19 3 = f.p ∧ fld w 0 19 = f.off := by
  have hn : w.toNat = p * 2 ^ 23 + ((f.n.toNat * 2 ^ 3 + f.p.toNat) * 2 ^ 19 + f.off.toNat) := by rw [hw, packWord_toNat p _ h, pack_cCond]
  have h_n := Bool.toNat_le f.n
  have h_p := f.p.isLt
  have h_off := f.off.isLt
  exact ⟨flag_of w 22 _ (by rw [hn]; omega),
    fld_of w 19 _ (by rw [hn]; omega),
    fld_of w 0 _ (by rw [hn]; omega)⟩

theorem pack_cFar (f : CFar) : (packFields (.cFar f)).toNat = f.off.toNat := by
  rfl

theorem layout_cFar (p : Nat) (h : p < 512) (f : CFar) (w : W32) (hw : w = packWord p (.cFar f)) :
    fld w 0 23 = f.off := by
  have hn : w.toNat = p * 2 ^ 23 + f.off.toNat := by rw [hw, packWord_toNat p _ h, pack_cFar]
  have h_off := f.off.isLt
  exact fld_of w 0 _ (by rw [hn]; omega)

theorem pack_cReg (f : CReg) : (packFields (.cReg f)).toNat = (((0 * 2 ^ 7 + f.a.toNat) * 2 ^ 1 + f.alu.toNat) * 2 ^ 8 + 0) := by
  show (0#7 ++ f.a ++ BitVec.ofBool f.alu ++ 0#8 : BitVec (7 + 7 + 1 + 8)).toNat = _
  simp only [append_toNat, ofBool_nat, BitVec.toNat_ofNat, Nat.zero_mod]

theorem layout_cReg (p : Nat) (h : p < 512) (f : CReg) (w : W32) (hw : w = packWord p (.cReg f)) :
    fld w 16 7 = 0 ∧ fld w 0 8 = 0 ∧ fld w 9 7 = f.a ∧ flag w 8 = f.alu := by
  have hn : w.toNat = p * 2 ^ 23 + (((0 * 2 ^ 7 + f.a.toNat) * 2 ^ 1 + f.alu.toNat) * 2 ^ 8 + 0) := by rw [hw, packWord_toNat p _ h, pack_cReg]
  have h_a := f.a.isLt
  have h_alu := Bool.toNat_le f.alu
  exact ⟨fld_of w 16 0 (by rw [hn]; show _ = 0; omega),
    fld_of w 0 0 (by rw [hn]; show _ = 0; omega),
    fld_of w 9 _ (by rw [hn]; omega),
    flag_of w 8 _ (by rw [hn]; omega)⟩

theorem pack_c0 (f : C0) : (packFields (.c0 f)).toNat = 0 := by
  rfl

theorem layout_c0 (p : Nat) (h : p < 512) (f : C0) (w : W32) (hw : w = packWord p (.c0 f)) :
    fld w 0 23 = 0 := by
  have hn : w.toNat = p * 2 ^ 23 + 0 := by rw [hw, packWord_toNat p _ h, pack_c0]
  exact fld_of w 0 0 (by rw [hn]; show _ = 0; omega)

theorem pack_sReg (f : SReg) : (packFields (.sReg f)).toNat = (((f.sd.toNat * 2 ^ 6 + f.sa.toNat) * 2 ^ 6 + f.sb.toNat) * 2 ^ 5 + 0) := by
  show (f.sd ++ f.sa ++ f.sb ++ 0#5 : BitVec (6 + 6 + 6 + 5)).toNat = _
  simp only [append_toNat, BitVec.toNat_ofNat, Nat.zero_mod]

theorem layout_sReg (p : Nat) (h : p < 512) (f : SReg) (w : W32) (hw : w = packWord p (.sReg f)) :
    fld w 0 5 = 0 ∧ fld w 17 6 = f.sd ∧ fld w 11 6 = f.sa ∧ fld w 5 6 = f.sb := by
  have hn : w.toNat = p * 2 ^ 23 + (((f.sd.toNat * 2 ^ 6 + f.sa.toNat) * 2 ^ 6 + f.sb.toNat) * 2 ^ 5 + 0) := by rw [hw, packWord_toNat p _ h, pack_sReg]
  have h_sd := f.sd.isLt
  have h_sa := f.sa.isLt
  have h_sb := f.sb.isLt
  exact ⟨fld_of w 0 0 (by rw [hn]; show _ = 0; omega),
    fld_of w 17 _ (by rw [hn]; omega),
    fld_of w 11 _ (by rw [hn]; omega),
    fld_of w 5 _ (by rw [hn]; omega)⟩

theorem pack_sMem (f : SMem) : (packFields (.sMem f)).toNat = ((f.sd.toNat * 2 ^ 6 + f.sa.toNat) * 2 ^ 11 + f.d.toNat) := by
  show (f.sd ++ f.sa ++ f.d : BitVec (6 + 6 + 11)).toNat = _
  simp only [append_toNat]

theorem layout_sMem (p : Nat) (h : p < 512) (f : SMem) (w : W32) (hw : w = packWord p (.sMem f)) :
    fld w 17 6 = f.sd ∧ fld w 11 6 = f.sa ∧ fld w 0 11 = f.d := by
  have hn : w.toNat = p * 2 ^ 23 + ((f.sd.toNat * 2 ^ 6 + f.sa.toNat) * 2 ^ 11 + f.d.toNat) := by rw [hw, packWord_toNat p _ h, pack_sMem]
  have h_sd := f.sd.isLt
  have h_sa := f.sa.isLt
  have h_d := f.d.isLt
  exact ⟨fld_of w 17 _ (by rw [hn]; omega),
    fld_of w 11 _ (by rw [hn]; omega),
    fld_of w 0 _ (by rw [hn]; omega)⟩

theorem pack_sImm (f : SImm) : (packFields (.sImm f)).toNat = ((f.sd.toNat * 2 ^ 1 + 0) * 2 ^ 16 + f.imm.toNat) := by
  show (f.sd ++ 0#1 ++ f.imm : BitVec (6 + 1 + 16)).toNat = _
  simp only [append_toNat, BitVec.toNat_ofNat, Nat.zero_mod]

theorem layout_sImm (p : Nat) (h : p < 512) (f : SImm) (w : W32) (hw : w = packWord p (.sImm f)) :
    fld w 16 1 = 0 ∧ fld w 17 6 = f.sd ∧ fld w 0 16 = f.imm := by
  have hn : w.toNat = p * 2 ^ 23 + ((f.sd.toNat * 2 ^ 1 + 0) * 2 ^ 16 + f.imm.toNat) := by rw [hw, packWord_toNat p _ h, pack_sImm]
  have h_sd := f.sd.isLt
  have h_imm := f.imm.isLt
  exact ⟨fld_of w 16 0 (by rw [hn]; show _ = 0; omega),
    fld_of w 17 _ (by rw [hn]; omega),
    fld_of w 0 _ (by rw [hn]; omega)⟩

theorem pack_uLoop (f : ULoop) : (packFields (.uLoop f)).toNat = (f.s.toNat * 2 ^ 17 + f.off.toNat) := by
  show (f.s ++ f.off : BitVec (6 + 17)).toNat = _
  simp only [append_toNat]

theorem layout_uLoop (p : Nat) (h : p < 512) (f : ULoop) (w : W32) (hw : w = packWord p (.uLoop f)) :
    fld w 17 6 = f.s ∧ fld w 0 17 = f.off := by
  have hn : w.toNat = p * 2 ^ 23 + (f.s.toNat * 2 ^ 17 + f.off.toNat) := by rw [hw, packWord_toNat p _ h, pack_uLoop]
  have h_s := f.s.isLt
  have h_off := f.off.isLt
  exact ⟨fld_of w 17 _ (by rw [hn]; omega),
    fld_of w 0 _ (by rw [hn]; omega)⟩

theorem pack_mx (f : Mx) : (packFields (.mx f)).toNat = ((((f.t.toNat * 2 ^ 3 + f.w.toNat) * 2 ^ 6 + f.sa.toNat) * 2 ^ 6 + f.sb.toNat) * 2 ^ 4 + f.m.toNat) := by
  show (f.t ++ f.w ++ f.sa ++ f.sb ++ f.m : BitVec (4 + 3 + 6 + 6 + 4)).toNat = _
  simp only [append_toNat]

theorem layout_mx (p : Nat) (h : p < 512) (f : Mx) (w : W32) (hw : w = packWord p (.mx f)) :
    fld w 19 4 = f.t ∧ fld w 16 3 = f.w ∧ fld w 10 6 = f.sa ∧ fld w 4 6 = f.sb ∧ fld w 0 4 = f.m := by
  have hn : w.toNat = p * 2 ^ 23 + ((((f.t.toNat * 2 ^ 3 + f.w.toNat) * 2 ^ 6 + f.sa.toNat) * 2 ^ 6 + f.sb.toNat) * 2 ^ 4 + f.m.toNat) := by rw [hw, packWord_toNat p _ h, pack_mx]
  have h_t := f.t.isLt
  have h_w := f.w.isLt
  have h_sa := f.sa.isLt
  have h_sb := f.sb.isLt
  have h_m := f.m.isLt
  exact ⟨fld_of w 19 _ (by rw [hn]; omega),
    fld_of w 16 _ (by rw [hn]; omega),
    fld_of w 10 _ (by rw [hn]; omega),
    fld_of w 4 _ (by rw [hn]; omega),
    fld_of w 0 _ (by rw [hn]; omega)⟩

theorem pack_th (f : Th) : (packFields (.th f)).toNat = (((f.sa.toNat * 2 ^ 6 + f.sb.toNat) * 2 ^ 6 + f.sc.toNat) * 2 ^ 5 + f.k.toNat) := by
  show (f.sa ++ f.sb ++ f.sc ++ f.k : BitVec (6 + 6 + 6 + 5)).toNat = _
  simp only [append_toNat]

theorem layout_th (p : Nat) (h : p < 512) (f : Th) (w : W32) (hw : w = packWord p (.th f)) :
    fld w 17 6 = f.sa ∧ fld w 11 6 = f.sb ∧ fld w 5 6 = f.sc ∧ fld w 0 5 = f.k := by
  have hn : w.toNat = p * 2 ^ 23 + (((f.sa.toNat * 2 ^ 6 + f.sb.toNat) * 2 ^ 6 + f.sc.toNat) * 2 ^ 5 + f.k.toNat) := by rw [hw, packWord_toNat p _ h, pack_th]
  have h_sa := f.sa.isLt
  have h_sb := f.sb.isLt
  have h_sc := f.sc.isLt
  have h_k := f.k.isLt
  exact ⟨fld_of w 17 _ (by rw [hn]; omega),
    fld_of w 11 _ (by rw [hn]; omega),
    fld_of w 5 _ (by rw [hn]; omega),
    fld_of w 0 _ (by rw [hn]; omega)⟩

theorem pack_sy (f : Sy) : (packFields (.sy f)).toNat = ((f.sa.toNat * 2 ^ 6 + f.sb.toNat) * 2 ^ 11 + f.imm.toNat) := by
  show (f.sa ++ f.sb ++ f.imm : BitVec (6 + 6 + 11)).toNat = _
  simp only [append_toNat]

theorem layout_sy (p : Nat) (h : p < 512) (f : Sy) (w : W32) (hw : w = packWord p (.sy f)) :
    fld w 17 6 = f.sa ∧ fld w 11 6 = f.sb ∧ fld w 0 11 = f.imm := by
  have hn : w.toNat = p * 2 ^ 23 + ((f.sa.toNat * 2 ^ 6 + f.sb.toNat) * 2 ^ 11 + f.imm.toNat) := by rw [hw, packWord_toNat p _ h, pack_sy]
  have h_sa := f.sa.isLt
  have h_sb := f.sb.isLt
  have h_imm := f.imm.isLt
  exact ⟨fld_of w 17 _ (by rw [hn]; omega),
    fld_of w 11 _ (by rw [hn]; omega),
    fld_of w 0 _ (by rw [hn]; omega)⟩

theorem pack_sys (f : Sys) : (packFields (.sys f)).toNat = ((f.sa.toNat * 2 ^ 12 + f.imm.toNat) * 2 ^ 5 + 0) := by
  show (f.sa ++ f.imm ++ 0#5 : BitVec (6 + 12 + 5)).toNat = _
  simp only [append_toNat, BitVec.toNat_ofNat, Nat.zero_mod]

theorem layout_sys (p : Nat) (h : p < 512) (f : Sys) (w : W32) (hw : w = packWord p (.sys f)) :
    fld w 0 5 = 0 ∧ fld w 17 6 = f.sa ∧ fld w 5 12 = f.imm := by
  have hn : w.toNat = p * 2 ^ 23 + ((f.sa.toNat * 2 ^ 12 + f.imm.toNat) * 2 ^ 5 + 0) := by rw [hw, packWord_toNat p _ h, pack_sys]
  have h_sa := f.sa.isLt
  have h_imm := f.imm.isLt
  exact ⟨fld_of w 0 0 (by rw [hn]; show _ = 0; omega),
    fld_of w 17 _ (by rw [hn]; omega),
    fld_of w 5 _ (by rw [hn]; omega)⟩

/-! ### The decoder reads the layout that its opcode number names -/

theorem unpack_alu (p : Nat) (hp : p < 512) (hs : ∀ w, unpackFields p w = some (.alu ⟨fld w 17 6, flag w 16, fld w 9 7, flag w 8, fld w 1 7, flag w 0⟩)) (f : Alu) :
    unpackFields p (packWord p (.alu f)) = some (.alu f) := by
  obtain ⟨h0, h1, h2, h3, h4, h5⟩ := layout_alu p hp f _ rfl
  rw [hs, h0, h1, h2, h3, h4, h5]

theorem unpack_aluI (p : Nat) (hp : p < 512) (hs : ∀ w, unpackFields p w = some (.aluI ⟨fld w 17 6, flag w 16, fld w 9 7, flag w 8, fld w 0 8⟩)) (f : AluI) :
    unpackFields p (packWord p (.aluI f)) = some (.aluI f) := by
  obtain ⟨h0, h1, h2, h3, h4⟩ := layout_aluI p hp f _ rfl
  rw [hs, h0, h1, h2, h3, h4]

theorem unpack_mem (p : Nat) (hp : p < 512) (hs : ∀ w, unpackFields p w = some (.mem ⟨fld w 17 6, flag w 16, fld w 9 7, flag w 8, fld w 0 8⟩)) (f : Mem) :
    unpackFields p (packWord p (.mem f)) = some (.mem f) := by
  obtain ⟨h0, h1, h2, h3, h4⟩ := layout_mem p hp f _ rfl
  rw [hs, h0, h1, h2, h3, h4]

theorem unpack_cCond (p : Nat) (hp : p < 512) (hs : ∀ w, unpackFields p w = some (.cCond ⟨flag w 22, fld w 19 3, fld w 0 19⟩)) (f : CCond) :
    unpackFields p (packWord p (.cCond f)) = some (.cCond f) := by
  obtain ⟨h0, h1, h2⟩ := layout_cCond p hp f _ rfl
  rw [hs, h0, h1, h2]

theorem unpack_cFar (p : Nat) (hp : p < 512) (hs : ∀ w, unpackFields p w = some (.cFar ⟨fld w 0 23⟩)) (f : CFar) :
    unpackFields p (packWord p (.cFar f)) = some (.cFar f) := by
  obtain h0 := layout_cFar p hp f _ rfl
  rw [hs, h0]

theorem unpack_cReg (p : Nat) (hp : p < 512) (hs : ∀ w, unpackFields p w = if (fld w 16 7 = 0 && fld w 0 8 = 0) then some (.cReg ⟨fld w 9 7, flag w 8⟩) else none) (f : CReg) :
    unpackFields p (packWord p (.cReg f)) = some (.cReg f) := by
  obtain ⟨z0, z1, h0, h1⟩ := layout_cReg p hp f _ rfl
  rw [hs, z0, z1, h0, h1, if_pos (by simp)]

theorem unpack_c0 (p : Nat) (hp : p < 512) (hs : ∀ w, unpackFields p w = if (fld w 0 23 = 0) then some (.c0 {}) else none) (f : C0) :
    unpackFields p (packWord p (.c0 f)) = some (.c0 f) := by
  obtain z0 := layout_c0 p hp f _ rfl
  rw [hs, z0, if_pos (by simp)]

theorem unpack_sReg (p : Nat) (hp : p < 512) (hs : ∀ w, unpackFields p w = if (fld w 0 5 = 0) then some (.sReg ⟨fld w 17 6, fld w 11 6, fld w 5 6⟩) else none) (f : SReg) :
    unpackFields p (packWord p (.sReg f)) = some (.sReg f) := by
  obtain ⟨z0, h0, h1, h2⟩ := layout_sReg p hp f _ rfl
  rw [hs, z0, h0, h1, h2, if_pos (by simp)]

theorem unpack_sMem (p : Nat) (hp : p < 512) (hs : ∀ w, unpackFields p w = some (.sMem ⟨fld w 17 6, fld w 11 6, fld w 0 11⟩)) (f : SMem) :
    unpackFields p (packWord p (.sMem f)) = some (.sMem f) := by
  obtain ⟨h0, h1, h2⟩ := layout_sMem p hp f _ rfl
  rw [hs, h0, h1, h2]

theorem unpack_sImm (p : Nat) (hp : p < 512) (hs : ∀ w, unpackFields p w = if (fld w 16 1 = 0) then some (.sImm ⟨fld w 17 6, fld w 0 16⟩) else none) (f : SImm) :
    unpackFields p (packWord p (.sImm f)) = some (.sImm f) := by
  obtain ⟨z0, h0, h1⟩ := layout_sImm p hp f _ rfl
  rw [hs, z0, h0, h1, if_pos (by simp)]

theorem unpack_uLoop (p : Nat) (hp : p < 512) (hs : ∀ w, unpackFields p w = some (.uLoop ⟨fld w 17 6, fld w 0 17⟩)) (f : ULoop) :
    unpackFields p (packWord p (.uLoop f)) = some (.uLoop f) := by
  obtain ⟨h0, h1⟩ := layout_uLoop p hp f _ rfl
  rw [hs, h0, h1]

theorem unpack_mx (p : Nat) (hp : p < 512) (hs : ∀ w, unpackFields p w = some (.mx ⟨fld w 19 4, fld w 16 3, fld w 10 6, fld w 4 6, fld w 0 4⟩)) (f : Mx) :
    unpackFields p (packWord p (.mx f)) = some (.mx f) := by
  obtain ⟨h0, h1, h2, h3, h4⟩ := layout_mx p hp f _ rfl
  rw [hs, h0, h1, h2, h3, h4]

theorem unpack_th (p : Nat) (hp : p < 512) (hs : ∀ w, unpackFields p w = some (.th ⟨fld w 17 6, fld w 11 6, fld w 5 6, fld w 0 5⟩)) (f : Th) :
    unpackFields p (packWord p (.th f)) = some (.th f) := by
  obtain ⟨h0, h1, h2, h3⟩ := layout_th p hp f _ rfl
  rw [hs, h0, h1, h2, h3]

theorem unpack_sy (p : Nat) (hp : p < 512) (hs : ∀ w, unpackFields p w = some (.sy ⟨fld w 17 6, fld w 11 6, fld w 0 11⟩)) (f : Sy) :
    unpackFields p (packWord p (.sy f)) = some (.sy f) := by
  obtain ⟨h0, h1, h2⟩ := layout_sy p hp f _ rfl
  rw [hs, h0, h1, h2]

theorem unpack_sys (p : Nat) (hp : p < 512) (hs : ∀ w, unpackFields p w = if (fld w 0 5 = 0) then some (.sys ⟨fld w 17 6, fld w 5 12⟩) else none) (f : Sys) :
    unpackFields p (packWord p (.sys f)) = some (.sys f) := by
  obtain ⟨z0, h0, h1⟩ := layout_sys p hp f _ rfl
  rw [hs, z0, h0, h1, if_pos (by simp)]

/-- Of an instruction with words: its opcode number and fields name it, and its word's fields are read back. -/
def Laws.Words.Statement (i : Instr) : Prop :=
  ∀ e, i.enc = some e → Instr.ofEnc e.p e.m e.f = some i ∧ assigned e.p = true ∧ e.p < 512 ∧ e.p ≠ 0x0FF ∧
    unpackFields e.p (packWord e.p e.f) = some e.f

theorem words_of (i : Instr) (p : Nat) (m : Option ModW) (f : Fields) (hi : i.enc = some ⟨p, m, f⟩)
    (h1 : Instr.ofEnc p m f = some i) (h2 : assigned p = true) (h3 : p < 512) (h4 : p ≠ 0x0FF)
    (h5 : unpackFields p (packWord p f) = some f) : Laws.Words.Statement i := by
  intro e' h
  rw [hi] at h
  cases h
  exact ⟨h1, h2, h3, h4, h5⟩

theorem words_none (i : Instr) (hi : i.enc = none) : Laws.Words.Statement i := by
  intro e h
  rw [hi] at h
  cases h

theorem Laws.Words.add (m : Option ModW) (f : Alu) : Laws.Words.Statement (.add m f) :=
  words_of _ 0x000 m (.alu f) rfl rfl rfl (by decide) (by decide) (unpack_alu _ (by decide) (fun _ => rfl) f)
theorem Laws.Words.sub (m : Option ModW) (f : Alu) : Laws.Words.Statement (.sub m f) :=
  words_of _ 0x001 m (.alu f) rfl rfl rfl (by decide) (by decide) (unpack_alu _ (by decide) (fun _ => rfl) f)
theorem Laws.Words.mul (m : Option ModW) (f : Alu) : Laws.Words.Statement (.mul m f) :=
  words_of _ 0x002 m (.alu f) rfl rfl rfl (by decide) (by decide) (unpack_alu _ (by decide) (fun _ => rfl) f)
theorem Laws.Words.mulh (m : Option ModW) (f : Alu) : Laws.Words.Statement (.mulh m f) :=
  words_of _ 0x003 m (.alu f) rfl rfl rfl (by decide) (by decide) (unpack_alu _ (by decide) (fun _ => rfl) f)
theorem Laws.Words.mad (m : Option ModW) (f : Alu) : Laws.Words.Statement (.mad m f) :=
  words_of _ 0x004 m (.alu f) rfl rfl rfl (by decide) (by decide) (unpack_alu _ (by decide) (fun _ => rfl) f)
theorem Laws.Words.div (m : Option ModW) (f : Alu) : Laws.Words.Statement (.div m f) :=
  words_of _ 0x005 m (.alu f) rfl rfl rfl (by decide) (by decide) (unpack_alu _ (by decide) (fun _ => rfl) f)
theorem Laws.Words.rem (m : Option ModW) (f : Alu) : Laws.Words.Statement (.rem m f) :=
  words_of _ 0x006 m (.alu f) rfl rfl rfl (by decide) (by decide) (unpack_alu _ (by decide) (fun _ => rfl) f)
theorem Laws.Words.abs (m : Option ModW) (f : Alu) : Laws.Words.Statement (.abs m f) :=
  words_of _ 0x007 m (.alu f) rfl rfl rfl (by decide) (by decide) (unpack_alu _ (by decide) (fun _ => rfl) f)
theorem Laws.Words.min (m : Option ModW) (f : Alu) : Laws.Words.Statement (.min m f) :=
  words_of _ 0x008 m (.alu f) rfl rfl rfl (by decide) (by decide) (unpack_alu _ (by decide) (fun _ => rfl) f)
theorem Laws.Words.max (m : Option ModW) (f : Alu) : Laws.Words.Statement (.max m f) :=
  words_of _ 0x009 m (.alu f) rfl rfl rfl (by decide) (by decide) (unpack_alu _ (by decide) (fun _ => rfl) f)
theorem Laws.Words.cmp (m : Option ModW) (f : Alu) : Laws.Words.Statement (.cmp m f) :=
  words_of _ 0x00A m (.alu f) rfl rfl rfl (by decide) (by decide) (unpack_alu _ (by decide) (fun _ => rfl) f)
theorem Laws.Words.sel (m : Option ModW) (f : Alu) : Laws.Words.Statement (.sel m f) :=
  words_of _ 0x00B m (.alu f) rfl rfl rfl (by decide) (by decide) (unpack_alu _ (by decide) (fun _ => rfl) f)
theorem Laws.Words.mov (m : Option ModW) (f : Alu) : Laws.Words.Statement (.mov m f) :=
  words_of _ 0x00C m (.alu f) rfl rfl rfl (by decide) (by decide) (unpack_alu _ (by decide) (fun _ => rfl) f)
theorem Laws.Words.cvtI (m : Option ModW) (f : Alu) : Laws.Words.Statement (.cvtI m f) :=
  words_of _ 0x00D m (.alu f) rfl rfl rfl (by decide) (by decide) (unpack_alu _ (by decide) (fun _ => rfl) f)
theorem Laws.Words.and (m : Option ModW) (f : Alu) : Laws.Words.Statement (.and m f) :=
  words_of _ 0x020 m (.alu f) rfl rfl rfl (by decide) (by decide) (unpack_alu _ (by decide) (fun _ => rfl) f)
theorem Laws.Words.or (m : Option ModW) (f : Alu) : Laws.Words.Statement (.or m f) :=
  words_of _ 0x021 m (.alu f) rfl rfl rfl (by decide) (by decide) (unpack_alu _ (by decide) (fun _ => rfl) f)
theorem Laws.Words.xor (m : Option ModW) (f : Alu) : Laws.Words.Statement (.xor m f) :=
  words_of _ 0x022 m (.alu f) rfl rfl rfl (by decide) (by decide) (unpack_alu _ (by decide) (fun _ => rfl) f)
theorem Laws.Words.andn (m : Option ModW) (f : Alu) : Laws.Words.Statement (.andn m f) :=
  words_of _ 0x023 m (.alu f) rfl rfl rfl (by decide) (by decide) (unpack_alu _ (by decide) (fun _ => rfl) f)
theorem Laws.Words.shl (m : Option ModW) (f : Alu) : Laws.Words.Statement (.shl m f) :=
  words_of _ 0x024 m (.alu f) rfl rfl rfl (by decide) (by decide) (unpack_alu _ (by decide) (fun _ => rfl) f)
theorem Laws.Words.shr (m : Option ModW) (f : Alu) : Laws.Words.Statement (.shr m f) :=
  words_of _ 0x025 m (.alu f) rfl rfl rfl (by decide) (by decide) (unpack_alu _ (by decide) (fun _ => rfl) f)
theorem Laws.Words.sha (m : Option ModW) (f : Alu) : Laws.Words.Statement (.sha m f) :=
  words_of _ 0x026 m (.alu f) rfl rfl rfl (by decide) (by decide) (unpack_alu _ (by decide) (fun _ => rfl) f)
theorem Laws.Words.rot (m : Option ModW) (f : Alu) : Laws.Words.Statement (.rot m f) :=
  words_of _ 0x027 m (.alu f) rfl rfl rfl (by decide) (by decide) (unpack_alu _ (by decide) (fun _ => rfl) f)
theorem Laws.Words.clz (m : Option ModW) (f : Alu) : Laws.Words.Statement (.clz m f) :=
  words_of _ 0x028 m (.alu f) rfl rfl rfl (by decide) (by decide) (unpack_alu _ (by decide) (fun _ => rfl) f)
theorem Laws.Words.popc (m : Option ModW) (f : Alu) : Laws.Words.Statement (.popc m f) :=
  words_of _ 0x029 m (.alu f) rfl rfl rfl (by decide) (by decide) (unpack_alu _ (by decide) (fun _ => rfl) f)
theorem Laws.Words.brev (m : Option ModW) (f : Alu) : Laws.Words.Statement (.brev m f) :=
  words_of _ 0x02A m (.alu f) rfl rfl rfl (by decide) (by decide) (unpack_alu _ (by decide) (fun _ => rfl) f)
theorem Laws.Words.bfx (m : Option ModW) (f : Alu) : Laws.Words.Statement (.bfx m f) :=
  words_of _ 0x02B m (.alu f) rfl rfl rfl (by decide) (by decide) (unpack_alu _ (by decide) (fun _ => rfl) f)
theorem Laws.Words.bfi (m : Option ModW) (f : Alu) : Laws.Words.Statement (.bfi m f) :=
  words_of _ 0x02C m (.alu f) rfl rfl rfl (by decide) (by decide) (unpack_alu _ (by decide) (fun _ => rfl) f)
theorem Laws.Words.fadd (m : Option ModW) (f : Alu) : Laws.Words.Statement (.fadd m f) :=
  words_of _ 0x040 m (.alu f) rfl rfl rfl (by decide) (by decide) (unpack_alu _ (by decide) (fun _ => rfl) f)
theorem Laws.Words.fsub (m : Option ModW) (f : Alu) : Laws.Words.Statement (.fsub m f) :=
  words_of _ 0x041 m (.alu f) rfl rfl rfl (by decide) (by decide) (unpack_alu _ (by decide) (fun _ => rfl) f)
theorem Laws.Words.fmul (m : Option ModW) (f : Alu) : Laws.Words.Statement (.fmul m f) :=
  words_of _ 0x042 m (.alu f) rfl rfl rfl (by decide) (by decide) (unpack_alu _ (by decide) (fun _ => rfl) f)
theorem Laws.Words.fma (m : Option ModW) (f : Alu) : Laws.Words.Statement (.fma m f) :=
  words_of _ 0x043 m (.alu f) rfl rfl rfl (by decide) (by decide) (unpack_alu _ (by decide) (fun _ => rfl) f)
theorem Laws.Words.fdiv (m : Option ModW) (f : Alu) : Laws.Words.Statement (.fdiv m f) :=
  words_of _ 0x044 m (.alu f) rfl rfl rfl (by decide) (by decide) (unpack_alu _ (by decide) (fun _ => rfl) f)
theorem Laws.Words.fmin (m : Option ModW) (f : Alu) : Laws.Words.Statement (.fmin m f) :=
  words_of _ 0x045 m (.alu f) rfl rfl rfl (by decide) (by decide) (unpack_alu _ (by decide) (fun _ => rfl) f)
theorem Laws.Words.fmax (m : Option ModW) (f : Alu) : Laws.Words.Statement (.fmax m f) :=
  words_of _ 0x046 m (.alu f) rfl rfl rfl (by decide) (by decide) (unpack_alu _ (by decide) (fun _ => rfl) f)
theorem Laws.Words.fminn (m : Option ModW) (f : Alu) : Laws.Words.Statement (.fminn m f) :=
  words_of _ 0x047 m (.alu f) rfl rfl rfl (by decide) (by decide) (unpack_alu _ (by decide) (fun _ => rfl) f)
theorem Laws.Words.fmaxn (m : Option ModW) (f : Alu) : Laws.Words.Statement (.fmaxn m f) :=
  words_of _ 0x048 m (.alu f) rfl rfl rfl (by decide) (by decide) (unpack_alu _ (by decide) (fun _ => rfl) f)
theorem Laws.Words.fabs (m : Option ModW) (f : Alu) : Laws.Words.Statement (.fabs m f) :=
  words_of _ 0x049 m (.alu f) rfl rfl rfl (by decide) (by decide) (unpack_alu _ (by decide) (fun _ => rfl) f)
theorem Laws.Words.fneg (m : Option ModW) (f : Alu) : Laws.Words.Statement (.fneg m f) :=
  words_of _ 0x04A m (.alu f) rfl rfl rfl (by decide) (by decide) (unpack_alu _ (by decide) (fun _ => rfl) f)
theorem Laws.Words.fcmp (m : Option ModW) (f : Alu) : Laws.Words.Statement (.fcmp m f) :=
  words_of _ 0x04B m (.alu f) rfl rfl rfl (by decide) (by decide) (unpack_alu _ (by decide) (fun _ => rfl) f)
theorem Laws.Words.frcp (m : Option ModW) (f : Alu) : Laws.Words.Statement (.frcp m f) :=
  words_of _ 0x04C m (.alu f) rfl rfl rfl (by decide) (by decide) (unpack_alu _ (by decide) (fun _ => rfl) f)
theorem Laws.Words.frsq (m : Option ModW) (f : Alu) : Laws.Words.Statement (.frsq m f) :=
  words_of _ 0x04D m (.alu f) rfl rfl rfl (by decide) (by decide) (unpack_alu _ (by decide) (fun _ => rfl) f)
theorem Laws.Words.fsqrt (m : Option ModW) (f : Alu) : Laws.Words.Statement (.fsqrt m f) :=
  words_of _ 0x04E m (.alu f) rfl rfl rfl (by decide) (by decide) (unpack_alu _ (by decide) (fun _ => rfl) f)
theorem Laws.Words.fexp2 (m : Option ModW) (f : Alu) : Laws.Words.Statement (.fexp2 m f) :=
  words_of _ 0x04F m (.alu f) rfl rfl rfl (by decide) (by decide) (unpack_alu _ (by decide) (fun _ => rfl) f)
theorem Laws.Words.flog2 (m : Option ModW) (f : Alu) : Laws.Words.Statement (.flog2 m f) :=
  words_of _ 0x050 m (.alu f) rfl rfl rfl (by decide) (by decide) (unpack_alu _ (by decide) (fun _ => rfl) f)
theorem Laws.Words.fsin (m : Option ModW) (f : Alu) : Laws.Words.Statement (.fsin m f) :=
  words_of _ 0x051 m (.alu f) rfl rfl rfl (by decide) (by decide) (unpack_alu _ (by decide) (fun _ => rfl) f)
theorem Laws.Words.fcos (m : Option ModW) (f : Alu) : Laws.Words.Statement (.fcos m f) :=
  words_of _ 0x052 m (.alu f) rfl rfl rfl (by decide) (by decide) (unpack_alu _ (by decide) (fun _ => rfl) f)
theorem Laws.Words.frnd (m : Option ModW) (f : Alu) : Laws.Words.Statement (.frnd m f) :=
  words_of _ 0x053 m (.alu f) rfl rfl rfl (by decide) (by decide) (unpack_alu _ (by decide) (fun _ => rfl) f)
theorem Laws.Words.fclass (m : Option ModW) (f : Alu) : Laws.Words.Statement (.fclass m f) :=
  words_of _ 0x054 m (.alu f) rfl rfl rfl (by decide) (by decide) (unpack_alu _ (by decide) (fun _ => rfl) f)
theorem Laws.Words.cvt (m : Option ModW) (f : Alu) : Laws.Words.Statement (.cvt m f) :=
  words_of _ 0x060 m (.alu f) rfl rfl rfl (by decide) (by decide) (unpack_alu _ (by decide) (fun _ => rfl) f)
theorem Laws.Words.cvtMx (m : Option ModW) (f : Alu) : Laws.Words.Statement (.cvtMx m f) :=
  words_of _ 0x061 m (.alu f) rfl rfl rfl (by decide) (by decide) (unpack_alu _ (by decide) (fun _ => rfl) f)
theorem Laws.Words.cvtLg6 (m : Option ModW) (f : Alu) : Laws.Words.Statement (.cvtLg6 m f) :=
  words_of _ 0x062 m (.alu f) rfl rfl rfl (by decide) (by decide) (unpack_alu _ (by decide) (fun _ => rfl) f)
theorem Laws.Words.mxsc (m : Option ModW) (f : Alu) : Laws.Words.Statement (.mxsc m f) :=
  words_of _ 0x063 m (.alu f) rfl rfl rfl (by decide) (by decide) (unpack_alu _ (by decide) (fun _ => rfl) f)
theorem Laws.Words.pk (m : Option ModW) (f : Alu) : Laws.Words.Statement (.pk m f) :=
  words_of _ 0x064 m (.alu f) rfl rfl rfl (by decide) (by decide) (unpack_alu _ (by decide) (fun _ => rfl) f)
theorem Laws.Words.upk (m : Option ModW) (f : Alu) : Laws.Words.Statement (.upk m f) :=
  words_of _ 0x065 m (.alu f) rfl rfl rfl (by decide) (by decide) (unpack_alu _ (by decide) (fun _ => rfl) f)
theorem Laws.Words.ld (m : Option ModW) (f : Mem) : Laws.Words.Statement (.ld m f) :=
  words_of _ 0x080 m (.mem f) rfl rfl rfl (by decide) (by decide) (unpack_mem _ (by decide) (fun _ => rfl) f)
theorem Laws.Words.st (m : Option ModW) (f : Mem) : Laws.Words.Statement (.st m f) :=
  words_of _ 0x081 m (.mem f) rfl rfl rfl (by decide) (by decide) (unpack_mem _ (by decide) (fun _ => rfl) f)
theorem Laws.Words.ldsp (m : Option ModW) (f : Mem) : Laws.Words.Statement (.ldsp m f) :=
  words_of _ 0x082 m (.mem f) rfl rfl rfl (by decide) (by decide) (unpack_mem _ (by decide) (fun _ => rfl) f)
theorem Laws.Words.stsp (m : Option ModW) (f : Mem) : Laws.Words.Statement (.stsp m f) :=
  words_of _ 0x083 m (.mem f) rfl rfl rfl (by decide) (by decide) (unpack_mem _ (by decide) (fun _ => rfl) f)
theorem Laws.Words.ldraw (m : Option ModW) (f : Mem) : Laws.Words.Statement (.ldraw m f) :=
  words_of _ 0x084 m (.mem f) rfl rfl rfl (by decide) (by decide) (unpack_mem _ (by decide) (fun _ => rfl) f)
theorem Laws.Words.pref (m : Option ModW) (f : Mem) : Laws.Words.Statement (.pref m f) :=
  words_of _ 0x085 m (.mem f) rfl rfl rfl (by decide) (by decide) (unpack_mem _ (by decide) (fun _ => rfl) f)
theorem Laws.Words.fence (m : Option ModW) (f : C0) : Laws.Words.Statement (.fence m f) :=
  words_of _ 0x086 m (.c0 f) rfl rfl rfl (by decide) (by decide) (unpack_c0 _ (by decide) (fun _ => rfl) f)
theorem Laws.Words.atomAdd (m : Option ModW) (f : Alu) : Laws.Words.Statement (.atomAdd m f) :=
  words_of _ 0x088 m (.alu f) rfl rfl rfl (by decide) (by decide) (unpack_alu _ (by decide) (fun _ => rfl) f)
theorem Laws.Words.atomMin (m : Option ModW) (f : Alu) : Laws.Words.Statement (.atomMin m f) :=
  words_of _ 0x089 m (.alu f) rfl rfl rfl (by decide) (by decide) (unpack_alu _ (by decide) (fun _ => rfl) f)
theorem Laws.Words.atomMax (m : Option ModW) (f : Alu) : Laws.Words.Statement (.atomMax m f) :=
  words_of _ 0x08A m (.alu f) rfl rfl rfl (by decide) (by decide) (unpack_alu _ (by decide) (fun _ => rfl) f)
theorem Laws.Words.atomAnd (m : Option ModW) (f : Alu) : Laws.Words.Statement (.atomAnd m f) :=
  words_of _ 0x08B m (.alu f) rfl rfl rfl (by decide) (by decide) (unpack_alu _ (by decide) (fun _ => rfl) f)
theorem Laws.Words.atomOr (m : Option ModW) (f : Alu) : Laws.Words.Statement (.atomOr m f) :=
  words_of _ 0x08C m (.alu f) rfl rfl rfl (by decide) (by decide) (unpack_alu _ (by decide) (fun _ => rfl) f)
theorem Laws.Words.atomXor (m : Option ModW) (f : Alu) : Laws.Words.Statement (.atomXor m f) :=
  words_of _ 0x08D m (.alu f) rfl rfl rfl (by decide) (by decide) (unpack_alu _ (by decide) (fun _ => rfl) f)
theorem Laws.Words.atomXchg (m : Option ModW) (f : Alu) : Laws.Words.Statement (.atomXchg m f) :=
  words_of _ 0x08E m (.alu f) rfl rfl rfl (by decide) (by decide) (unpack_alu _ (by decide) (fun _ => rfl) f)
theorem Laws.Words.atomCas (m : Option ModW) (f : Alu) : Laws.Words.Statement (.atomCas m f) :=
  words_of _ 0x08F m (.alu f) rfl rfl rfl (by decide) (by decide) (unpack_alu _ (by decide) (fun _ => rfl) f)
theorem Laws.Words.atomFadd (m : Option ModW) (f : Alu) : Laws.Words.Statement (.atomFadd m f) :=
  words_of _ 0x090 m (.alu f) rfl rfl rfl (by decide) (by decide) (unpack_alu _ (by decide) (fun _ => rfl) f)
theorem Laws.Words.atomFmax (m : Option ModW) (f : Alu) : Laws.Words.Statement (.atomFmax m f) :=
  words_of _ 0x091 m (.alu f) rfl rfl rfl (by decide) (by decide) (unpack_alu _ (by decide) (fun _ => rfl) f)
theorem Laws.Words.amaxi (m : Option ModW) (f : Alu) : Laws.Words.Statement (.amaxi m f) :=
  words_of _ 0x092 m (.alu f) rfl rfl rfl (by decide) (by decide) (unpack_alu _ (by decide) (fun _ => rfl) f)
theorem Laws.Words.redAdd (m : Option ModW) (f : Alu) : Laws.Words.Statement (.redAdd m f) :=
  words_of _ 0x093 m (.alu f) rfl rfl rfl (by decide) (by decide) (unpack_alu _ (by decide) (fun _ => rfl) f)
theorem Laws.Words.redMax (m : Option ModW) (f : Alu) : Laws.Words.Statement (.redMax m f) :=
  words_of _ 0x094 m (.alu f) rfl rfl rfl (by decide) (by decide) (unpack_alu _ (by decide) (fun _ => rfl) f)
theorem Laws.Words.redEsum (m : Option ModW) (f : Alu) : Laws.Words.Statement (.redEsum m f) :=
  words_of _ 0x095 m (.alu f) rfl rfl rfl (by decide) (by decide) (unpack_alu _ (by decide) (fun _ => rfl) f)
theorem Laws.Words.bp (m : Option ModW) (f : CCond) : Laws.Words.Statement (.bp m f) :=
  words_of _ 0x0A0 m (.cCond f) rfl rfl rfl (by decide) (by decide) (unpack_cCond _ (by decide) (fun _ => rfl) f)
theorem Laws.Words.jmp (m : Option ModW) (f : CFar) : Laws.Words.Statement (.jmp m f) :=
  words_of _ 0x0A1 m (.cFar f) rfl rfl rfl (by decide) (by decide) (unpack_cFar _ (by decide) (fun _ => rfl) f)
theorem Laws.Words.jmpReg (m : Option ModW) (f : CReg) : Laws.Words.Statement (.jmpReg m f) :=
  words_of _ 0x0A2 m (.cReg f) rfl rfl rfl (by decide) (by decide) (unpack_cReg _ (by decide) (fun _ => rfl) f)
theorem Laws.Words.call (m : Option ModW) (f : CFar) : Laws.Words.Statement (.call m f) :=
  words_of _ 0x0A3 m (.cFar f) rfl rfl rfl (by decide) (by decide) (unpack_cFar _ (by decide) (fun _ => rfl) f)
theorem Laws.Words.callReg (m : Option ModW) (f : CReg) : Laws.Words.Statement (.callReg m f) :=
  words_of _ 0x0A4 m (.cReg f) rfl rfl rfl (by decide) (by decide) (unpack_cReg _ (by decide) (fun _ => rfl) f)
theorem Laws.Words.ret (m : Option ModW) (f : CReg) : Laws.Words.Statement (.ret m f) :=
  words_of _ 0x0A5 m (.cReg f) rfl rfl rfl (by decide) (by decide) (unpack_cReg _ (by decide) (fun _ => rfl) f)
theorem Laws.Words.reform (m : Option ModW) (f : C0) : Laws.Words.Statement (.reform m f) :=
  words_of _ 0x0A6 m (.c0 f) rfl rfl rfl (by decide) (by decide) (unpack_c0 _ (by decide) (fun _ => rfl) f)
theorem Laws.Words.exit (m : Option ModW) (f : C0) : Laws.Words.Statement (.exit m f) :=
  words_of _ 0x0A7 m (.c0 f) rfl rfl rfl (by decide) (by decide) (unpack_c0 _ (by decide) (fun _ => rfl) f)
theorem Laws.Words.nop (m : Option ModW) (f : C0) : Laws.Words.Statement (.nop m f) :=
  words_of _ 0x0A8 m (.c0 f) rfl rfl rfl (by decide) (by decide) (unpack_c0 _ (by decide) (fun _ => rfl) f)
theorem Laws.Words.shfl (m : Option ModW) (f : Alu) : Laws.Words.Statement (.shfl m f) :=
  words_of _ 0x0C0 m (.alu f) rfl rfl rfl (by decide) (by decide) (unpack_alu _ (by decide) (fun _ => rfl) f)
theorem Laws.Words.shfli (m : Option ModW) (f : AluI) : Laws.Words.Statement (.shfli m f) :=
  words_of _ 0x0C1 m (.aluI f) rfl rfl rfl (by decide) (by decide) (unpack_aluI _ (by decide) (fun _ => rfl) f)
theorem Laws.Words.vote (m : Option ModW) (f : AluI) : Laws.Words.Statement (.vote m f) :=
  words_of _ 0x0C2 m (.aluI f) rfl rfl rfl (by decide) (by decide) (unpack_aluI _ (by decide) (fun _ => rfl) f)
theorem Laws.Words.redu (m : Option ModW) (f : AluI) : Laws.Words.Statement (.redu m f) :=
  words_of _ 0x0C3 m (.aluI f) rfl rfl rfl (by decide) (by decide) (unpack_aluI _ (by decide) (fun _ => rfl) f)
theorem Laws.Words.redmaxi (m : Option ModW) (f : Alu) : Laws.Words.Statement (.redmaxi m f) :=
  words_of _ 0x0C4 m (.alu f) rfl rfl rfl (by decide) (by decide) (unpack_alu _ (by decide) (fun _ => rfl) f)
theorem Laws.Words.scan (m : Option ModW) (f : AluI) : Laws.Words.Statement (.scan m f) :=
  words_of _ 0x0C5 m (.aluI f) rfl rfl rfl (by decide) (by decide) (unpack_aluI _ (by decide) (fun _ => rfl) f)
theorem Laws.Words.cmpr (m : Option ModW) (f : Alu) : Laws.Words.Statement (.cmpr m f) :=
  words_of _ 0x0C6 m (.alu f) rfl rfl rfl (by decide) (by decide) (unpack_alu _ (by decide) (fun _ => rfl) f)
theorem Laws.Words.expd (m : Option ModW) (f : Alu) : Laws.Words.Statement (.expd m f) :=
  words_of _ 0x0C7 m (.alu f) rfl rfl rfl (by decide) (by decide) (unpack_alu _ (by decide) (fun _ => rfl) f)
theorem Laws.Words.slup (m : Option ModW) (f : Alu) : Laws.Words.Statement (.slup m f) :=
  words_of _ 0x0C8 m (.alu f) rfl rfl rfl (by decide) (by decide) (unpack_alu _ (by decide) (fun _ => rfl) f)
theorem Laws.Words.sldn (m : Option ModW) (f : Alu) : Laws.Words.Statement (.sldn m f) :=
  words_of _ 0x0C9 m (.alu f) rfl rfl rfl (by decide) (by decide) (unpack_alu _ (by decide) (fun _ => rfl) f)
theorem Laws.Words.bcast (m : Option ModW) (f : AluI) : Laws.Words.Statement (.bcast m f) :=
  words_of _ 0x0CA m (.aluI f) rfl rfl rfl (by decide) (by decide) (unpack_aluI _ (by decide) (fun _ => rfl) f)
theorem Laws.Words.wfind (m : Option ModW) (f : Alu) : Laws.Words.Statement (.wfind m f) :=
  words_of _ 0x0CB m (.alu f) rfl rfl rfl (by decide) (by decide) (unpack_alu _ (by decide) (fun _ => rfl) f)
theorem Laws.Words.harrow (m : Option ModW) (f : Alu) : Laws.Words.Statement (.harrow m f) :=
  words_of _ 0x0CC m (.alu f) rfl rfl rfl (by decide) (by decide) (unpack_alu _ (by decide) (fun _ => rfl) f)
theorem Laws.Words.stkAdd (m : Option ModW) (f : Alu) : Laws.Words.Statement (.stkAdd m f) :=
  words_of _ 0x0E0 m (.alu f) rfl rfl rfl (by decide) (by decide) (unpack_alu _ (by decide) (fun _ => rfl) f)
theorem Laws.Words.stkSub (m : Option ModW) (f : Alu) : Laws.Words.Statement (.stkSub m f) :=
  words_of _ 0x0E1 m (.alu f) rfl rfl rfl (by decide) (by decide) (unpack_alu _ (by decide) (fun _ => rfl) f)
theorem Laws.Words.stkMul (m : Option ModW) (f : Alu) : Laws.Words.Statement (.stkMul m f) :=
  words_of _ 0x0E2 m (.alu f) rfl rfl rfl (by decide) (by decide) (unpack_alu _ (by decide) (fun _ => rfl) f)
theorem Laws.Words.stkDiv (m : Option ModW) (f : Alu) : Laws.Words.Statement (.stkDiv m f) :=
  words_of _ 0x0E3 m (.alu f) rfl rfl rfl (by decide) (by decide) (unpack_alu _ (by decide) (fun _ => rfl) f)
theorem Laws.Words.stkNeg (m : Option ModW) (f : Alu) : Laws.Words.Statement (.stkNeg m f) :=
  words_of _ 0x0E4 m (.alu f) rfl rfl rfl (by decide) (by decide) (unpack_alu _ (by decide) (fun _ => rfl) f)
theorem Laws.Words.stkRcp (m : Option ModW) (f : Alu) : Laws.Words.Statement (.stkRcp m f) :=
  words_of _ 0x0E5 m (.alu f) rfl rfl rfl (by decide) (by decide) (unpack_alu _ (by decide) (fun _ => rfl) f)
theorem Laws.Words.stkSq (m : Option ModW) (f : Alu) : Laws.Words.Statement (.stkSq m f) :=
  words_of _ 0x0E6 m (.alu f) rfl rfl rfl (by decide) (by decide) (unpack_alu _ (by decide) (fun _ => rfl) f)
theorem Laws.Words.stkUni (m : Option ModW) (f : Alu) : Laws.Words.Statement (.stkUni m f) :=
  words_of _ 0x0E7 m (.alu f) rfl rfl rfl (by decide) (by decide) (unpack_alu _ (by decide) (fun _ => rfl) f)
theorem Laws.Words.stkIsect (m : Option ModW) (f : Alu) : Laws.Words.Statement (.stkIsect m f) :=
  words_of _ 0x0E8 m (.alu f) rfl rfl rfl (by decide) (by decide) (unpack_alu _ (by decide) (fun _ => rfl) f)
theorem Laws.Words.stkHull (m : Option ModW) (f : Alu) : Laws.Words.Statement (.stkHull m f) :=
  words_of _ 0x0E9 m (.alu f) rfl rfl rfl (by decide) (by decide) (unpack_alu _ (by decide) (fun _ => rfl) f)
theorem Laws.Words.stkFrom (m : Option ModW) (f : Alu) : Laws.Words.Statement (.stkFrom m f) :=
  words_of _ 0x0EA m (.alu f) rfl rfl rfl (by decide) (by decide) (unpack_alu _ (by decide) (fun _ => rfl) f)
theorem Laws.Words.stkTo (m : Option ModW) (f : Alu) : Laws.Words.Statement (.stkTo m f) :=
  words_of _ 0x0EB m (.alu f) rfl rfl rfl (by decide) (by decide) (unpack_alu _ (by decide) (fun _ => rfl) f)
theorem Laws.Words.stkLdring (m : Option ModW) (f : Mem) : Laws.Words.Statement (.stkLdring m f) :=
  words_of _ 0x0EC m (.mem f) rfl rfl rfl (by decide) (by decide) (unpack_mem _ (by decide) (fun _ => rfl) f)
theorem Laws.Words.sadd (m : Option ModW) (f : SReg) : Laws.Words.Statement (.sadd m f) :=
  words_of _ 0x100 m (.sReg f) rfl rfl rfl (by decide) (by decide) (unpack_sReg _ (by decide) (fun _ => rfl) f)
theorem Laws.Words.ssub (m : Option ModW) (f : SReg) : Laws.Words.Statement (.ssub m f) :=
  words_of _ 0x101 m (.sReg f) rfl rfl rfl (by decide) (by decide) (unpack_sReg _ (by decide) (fun _ => rfl) f)
theorem Laws.Words.smul (m : Option ModW) (f : SReg) : Laws.Words.Statement (.smul m f) :=
  words_of _ 0x102 m (.sReg f) rfl rfl rfl (by decide) (by decide) (unpack_sReg _ (by decide) (fun _ => rfl) f)
theorem Laws.Words.sand (m : Option ModW) (f : SReg) : Laws.Words.Statement (.sand m f) :=
  words_of _ 0x103 m (.sReg f) rfl rfl rfl (by decide) (by decide) (unpack_sReg _ (by decide) (fun _ => rfl) f)
theorem Laws.Words.sor (m : Option ModW) (f : SReg) : Laws.Words.Statement (.sor m f) :=
  words_of _ 0x104 m (.sReg f) rfl rfl rfl (by decide) (by decide) (unpack_sReg _ (by decide) (fun _ => rfl) f)
theorem Laws.Words.sxor (m : Option ModW) (f : SReg) : Laws.Words.Statement (.sxor m f) :=
  words_of _ 0x105 m (.sReg f) rfl rfl rfl (by decide) (by decide) (unpack_sReg _ (by decide) (fun _ => rfl) f)
theorem Laws.Words.sshl (m : Option ModW) (f : SReg) : Laws.Words.Statement (.sshl m f) :=
  words_of _ 0x106 m (.sReg f) rfl rfl rfl (by decide) (by decide) (unpack_sReg _ (by decide) (fun _ => rfl) f)
theorem Laws.Words.sshr (m : Option ModW) (f : SReg) : Laws.Words.Statement (.sshr m f) :=
  words_of _ 0x107 m (.sReg f) rfl rfl rfl (by decide) (by decide) (unpack_sReg _ (by decide) (fun _ => rfl) f)
theorem Laws.Words.ssha (m : Option ModW) (f : SReg) : Laws.Words.Statement (.ssha m f) :=
  words_of _ 0x108 m (.sReg f) rfl rfl rfl (by decide) (by decide) (unpack_sReg _ (by decide) (fun _ => rfl) f)
theorem Laws.Words.smin (m : Option ModW) (f : SReg) : Laws.Words.Statement (.smin m f) :=
  words_of _ 0x109 m (.sReg f) rfl rfl rfl (by decide) (by decide) (unpack_sReg _ (by decide) (fun _ => rfl) f)
theorem Laws.Words.smax (m : Option ModW) (f : SReg) : Laws.Words.Statement (.smax m f) :=
  words_of _ 0x10A m (.sReg f) rfl rfl rfl (by decide) (by decide) (unpack_sReg _ (by decide) (fun _ => rfl) f)
theorem Laws.Words.smov (m : Option ModW) (f : SReg) : Laws.Words.Statement (.smov m f) :=
  words_of _ 0x10B m (.sReg f) rfl rfl rfl (by decide) (by decide) (unpack_sReg _ (by decide) (fun _ => rfl) f)
theorem Laws.Words.scmp (m : Option ModW) (f : SReg) : Laws.Words.Statement (.scmp m f) :=
  words_of _ 0x10C m (.sReg f) rfl rfl rfl (by decide) (by decide) (unpack_sReg _ (by decide) (fun _ => rfl) f)
theorem Laws.Words.ssel (m : Option ModW) (f : SReg) : Laws.Words.Statement (.ssel m f) :=
  words_of _ 0x10D m (.sReg f) rfl rfl rfl (by decide) (by decide) (unpack_sReg _ (by decide) (fun _ => rfl) f)
theorem Laws.Words.sld (m : Option ModW) (f : SMem) : Laws.Words.Statement (.sld m f) :=
  words_of _ 0x10E m (.sMem f) rfl rfl rfl (by decide) (by decide) (unpack_sMem _ (by decide) (fun _ => rfl) f)
theorem Laws.Words.sst (m : Option ModW) (f : SMem) : Laws.Words.Statement (.sst m f) :=
  words_of _ 0x10F m (.sMem f) rfl rfl rfl (by decide) (by decide) (unpack_sMem _ (by decide) (fun _ => rfl) f)
theorem Laws.Words.sli (m : Option ModW) (f : SImm) : Laws.Words.Statement (.sli m f) :=
  words_of _ 0x120 m (.sImm f) rfl rfl rfl (by decide) (by decide) (unpack_sImm _ (by decide) (fun _ => rfl) f)
theorem Laws.Words.sliH1 (m : Option ModW) (f : SImm) : Laws.Words.Statement (.sliH1 m f) :=
  words_of _ 0x121 m (.sImm f) rfl rfl rfl (by decide) (by decide) (unpack_sImm _ (by decide) (fun _ => rfl) f)
theorem Laws.Words.sliH2 (m : Option ModW) (f : SImm) : Laws.Words.Statement (.sliH2 m f) :=
  words_of _ 0x122 m (.sImm f) rfl rfl rfl (by decide) (by decide) (unpack_sImm _ (by decide) (fun _ => rfl) f)
theorem Laws.Words.sliH3 (m : Option ModW) (f : SImm) : Laws.Words.Statement (.sliH3 m f) :=
  words_of _ 0x123 m (.sImm f) rfl rfl rfl (by decide) (by decide) (unpack_sImm _ (by decide) (fun _ => rfl) f)
theorem Laws.Words.saddImm (m : Option ModW) (f : SImm) : Laws.Words.Statement (.saddImm m f) :=
  words_of _ 0x124 m (.sImm f) rfl rfl rfl (by decide) (by decide) (unpack_sImm _ (by decide) (fun _ => rfl) f)
theorem Laws.Words.ubr (m : Option ModW) (f : CCond) : Laws.Words.Statement (.ubr m f) :=
  words_of _ 0x140 m (.cCond f) rfl rfl rfl (by decide) (by decide) (unpack_cCond _ (by decide) (fun _ => rfl) f)
theorem Laws.Words.ubrFar (m : Option ModW) (f : CFar) : Laws.Words.Statement (.ubrFar m f) :=
  words_of _ 0x141 m (.cFar f) rfl rfl rfl (by decide) (by decide) (unpack_cFar _ (by decide) (fun _ => rfl) f)
theorem Laws.Words.ucall (m : Option ModW) (f : CFar) : Laws.Words.Statement (.ucall m f) :=
  words_of _ 0x142 m (.cFar f) rfl rfl rfl (by decide) (by decide) (unpack_cFar _ (by decide) (fun _ => rfl) f)
theorem Laws.Words.uret (m : Option ModW) (f : SReg) : Laws.Words.Statement (.uret m f) :=
  words_of _ 0x143 m (.sReg f) rfl rfl rfl (by decide) (by decide) (unpack_sReg _ (by decide) (fun _ => rfl) f)
theorem Laws.Words.uloop (m : Option ModW) (f : ULoop) : Laws.Words.Statement (.uloop m f) :=
  words_of _ 0x144 m (.uLoop f) rfl rfl rfl (by decide) (by decide) (unpack_uLoop _ (by decide) (fun _ => rfl) f)
theorem Laws.Words.gang (m : Option ModW) (f : Mx) : Laws.Words.Statement (.gang m f) :=
  words_of _ 0x160 m (.mx f) rfl rfl rfl (by decide) (by decide) (unpack_mx _ (by decide) (fun _ => rfl) f)
theorem Laws.Words.station (m : Option ModW) (f : Mx) : Laws.Words.Statement (.station m f) :=
  words_of _ 0x161 m (.mx f) rfl rfl rfl (by decide) (by decide) (unpack_mx _ (by decide) (fun _ => rfl) f)
theorem Laws.Words.unstation (m : Option ModW) (f : Mx) : Laws.Words.Statement (.unstation m f) :=
  words_of _ 0x162 m (.mx f) rfl rfl rfl (by decide) (by decide) (unpack_mx _ (by decide) (fun _ => rfl) f)
theorem Laws.Words.mma (m : Option ModW) (f : Mx) : Laws.Words.Statement (.mma m f) :=
  words_of _ 0x163 m (.mx f) rfl rfl rfl (by decide) (by decide) (unpack_mx _ (by decide) (fun _ => rfl) f)
theorem Laws.Words.mmat (m : Option ModW) (f : Mx) : Laws.Words.Statement (.mmat m f) :=
  words_of _ 0x164 m (.mx f) rfl rfl rfl (by decide) (by decide) (unpack_mx _ (by decide) (fun _ => rfl) f)
theorem Laws.Words.mdual (m : Option ModW) (f : Mx) : Laws.Words.Statement (.mdual m f) :=
  words_of _ 0x165 m (.mx f) rfl rfl rfl (by decide) (by decide) (unpack_mx _ (by decide) (fun _ => rfl) f)
theorem Laws.Words.azero (m : Option ModW) (f : Mx) : Laws.Words.Statement (.azero m f) :=
  words_of _ 0x166 m (.mx f) rfl rfl rfl (by decide) (by decide) (unpack_mx _ (by decide) (fun _ => rfl) f)
theorem Laws.Words.ald (m : Option ModW) (f : Mx) : Laws.Words.Statement (.ald m f) :=
  words_of _ 0x167 m (.mx f) rfl rfl rfl (by decide) (by decide) (unpack_mx _ (by decide) (fun _ => rfl) f)
theorem Laws.Words.ast (m : Option ModW) (f : Mx) : Laws.Words.Statement (.ast m f) :=
  words_of _ 0x168 m (.mx f) rfl rfl rfl (by decide) (by decide) (unpack_mx _ (by decide) (fun _ => rfl) f)
theorem Laws.Words.ascl (m : Option ModW) (f : Mx) : Laws.Words.Statement (.ascl m f) :=
  words_of _ 0x169 m (.mx f) rfl rfl rfl (by decide) (by decide) (unpack_mx _ (by decide) (fun _ => rfl) f)
theorem Laws.Words.aread (m : Option ModW) (f : Mx) : Laws.Words.Statement (.aread m f) :=
  words_of _ 0x16A m (.mx f) rfl rfl rfl (by decide) (by decide) (unpack_mx _ (by decide) (fun _ => rfl) f)
theorem Laws.Words.mwait (m : Option ModW) (f : Mx) : Laws.Words.Statement (.mwait m f) :=
  words_of _ 0x16B m (.mx f) rfl rfl rfl (by decide) (by decide) (unpack_mx _ (by decide) (fun _ => rfl) f)
theorem Laws.Words.tfill (m : Option ModW) (f : Th) : Laws.Words.Statement (.tfill m f) :=
  words_of _ 0x180 m (.th f) rfl rfl rfl (by decide) (by decide) (unpack_th _ (by decide) (fun _ => rfl) f)
theorem Laws.Words.taff (m : Option ModW) (f : Th) : Laws.Words.Statement (.taff m f) :=
  words_of _ 0x181 m (.th f) rfl rfl rfl (by decide) (by decide) (unpack_th _ (by decide) (fun _ => rfl) f)
theorem Laws.Words.tclamp (m : Option ModW) (f : Th) : Laws.Words.Statement (.tclamp m f) :=
  words_of _ 0x182 m (.th f) rfl rfl rfl (by decide) (by decide) (unpack_th _ (by decide) (fun _ => rfl) f)
theorem Laws.Words.tperm (m : Option ModW) (f : Th) : Laws.Words.Statement (.tperm m f) :=
  words_of _ 0x183 m (.th f) rfl rfl rfl (by decide) (by decide) (unpack_th _ (by decide) (fun _ => rfl) f)
theorem Laws.Words.tmat (m : Option ModW) (f : Th) : Laws.Words.Statement (.tmat m f) :=
  words_of _ 0x184 m (.th f) rfl rfl rfl (by decide) (by decide) (unpack_th _ (by decide) (fun _ => rfl) f)
theorem Laws.Words.tread (m : Option ModW) (f : Th) : Laws.Words.Statement (.tread m f) :=
  words_of _ 0x185 m (.th f) rfl rfl rfl (by decide) (by decide) (unpack_th _ (by decide) (fun _ => rfl) f)
theorem Laws.Words.stream (m : Option ModW) (f : Th) : Laws.Words.Statement (.stream m f) :=
  words_of _ 0x186 m (.th f) rfl rfl rfl (by decide) (by decide) (unpack_th _ (by decide) (fun _ => rfl) f)
theorem Laws.Words.bar (m : Option ModW) (f : Sy) : Laws.Words.Statement (.bar m f) :=
  words_of _ 0x1A0 m (.sy f) rfl rfl rfl (by decide) (by decide) (unpack_sy _ (by decide) (fun _ => rfl) f)
theorem Laws.Words.barw (m : Option ModW) (f : Sy) : Laws.Words.Statement (.barw m f) :=
  words_of _ 0x1A1 m (.sy f) rfl rfl rfl (by decide) (by decide) (unpack_sy _ (by decide) (fun _ => rfl) f)
theorem Laws.Words.yield (m : Option ModW) (f : Sy) : Laws.Words.Statement (.yield m f) :=
  words_of _ 0x1A2 m (.sy f) rfl rfl rfl (by decide) (by decide) (unpack_sy _ (by decide) (fun _ => rfl) f)
theorem Laws.Words.wlpush (m : Option ModW) (f : Sy) : Laws.Words.Statement (.wlpush m f) :=
  words_of _ 0x1A3 m (.sy f) rfl rfl rfl (by decide) (by decide) (unpack_sy _ (by decide) (fun _ => rfl) f)
theorem Laws.Words.wlpop (m : Option ModW) (f : Sy) : Laws.Words.Statement (.wlpop m f) :=
  words_of _ 0x1A4 m (.sy f) rfl rfl rfl (by decide) (by decide) (unpack_sy _ (by decide) (fun _ => rfl) f)
theorem Laws.Words.wlquiet (m : Option ModW) (f : Sy) : Laws.Words.Statement (.wlquiet m f) :=
  words_of _ 0x1A5 m (.sy f) rfl rfl rfl (by decide) (by decide) (unpack_sy _ (by decide) (fun _ => rfl) f)
theorem Laws.Words.waitwp (m : Option ModW) (f : Sy) : Laws.Words.Statement (.waitwp m f) :=
  words_of _ 0x1A6 m (.sy f) rfl rfl rfl (by decide) (by decide) (unpack_sy _ (by decide) (fun _ => rfl) f)
theorem Laws.Words.waitseq (m : Option ModW) (f : Sy) : Laws.Words.Statement (.waitseq m f) :=
  words_of _ 0x1A7 m (.sy f) rfl rfl rfl (by decide) (by decide) (unpack_sy _ (by decide) (fun _ => rfl) f)
theorem Laws.Words.aflush (m : Option ModW) (f : Sy) : Laws.Words.Statement (.aflush m f) :=
  words_of _ 0x1A8 m (.sy f) rfl rfl rfl (by decide) (by decide) (unpack_sy _ (by decide) (fun _ => rfl) f)
theorem Laws.Words.chapp (m : Option ModW) (f : Sy) : Laws.Words.Statement (.chapp m f) :=
  words_of _ 0x1C0 m (.sy f) rfl rfl rfl (by decide) (by decide) (unpack_sy _ (by decide) (fun _ => rfl) f)
theorem Laws.Words.launch (m : Option ModW) (f : Sy) : Laws.Words.Statement (.launch m f) :=
  words_of _ 0x1C1 m (.sy f) rfl rfl rfl (by decide) (by decide) (unpack_sy _ (by decide) (fun _ => rfl) f)
theorem Laws.Words.nlaunch (m : Option ModW) (f : Sy) : Laws.Words.Statement (.nlaunch m f) :=
  words_of _ 0x1C2 m (.sy f) rfl rfl rfl (by decide) (by decide) (unpack_sy _ (by decide) (fun _ => rfl) f)
theorem Laws.Words.coll (m : Option ModW) (f : Sy) : Laws.Words.Statement (.coll m f) :=
  words_of _ 0x1C3 m (.sy f) rfl rfl rfl (by decide) (by decide) (unpack_sy _ (by decide) (fun _ => rfl) f)
theorem Laws.Words.topk (m : Option ModW) (f : Sy) : Laws.Words.Statement (.topk m f) :=
  words_of _ 0x1C4 m (.sy f) rfl rfl rfl (by decide) (by decide) (unpack_sy _ (by decide) (fun _ => rfl) f)
theorem Laws.Words.gath (m : Option ModW) (f : Sy) : Laws.Words.Statement (.gath m f) :=
  words_of _ 0x1C5 m (.sy f) rfl rfl rfl (by decide) (by decide) (unpack_sy _ (by decide) (fun _ => rfl) f)
theorem Laws.Words.trap (m : Option ModW) (f : Sys) : Laws.Words.Statement (.trap m f) :=
  words_of _ 0x1E0 m (.sys f) rfl rfl rfl (by decide) (by decide) (unpack_sys _ (by decide) (fun _ => rfl) f)
theorem Laws.Words.tret (m : Option ModW) (f : Sys) : Laws.Words.Statement (.tret m f) :=
  words_of _ 0x1E1 m (.sys f) rfl rfl rfl (by decide) (by decide) (unpack_sys _ (by decide) (fun _ => rfl) f)
theorem Laws.Words.csrr (m : Option ModW) (f : Sys) : Laws.Words.Statement (.csrr m f) :=
  words_of _ 0x1E2 m (.sys f) rfl rfl rfl (by decide) (by decide) (unpack_sys _ (by decide) (fun _ => rfl) f)
theorem Laws.Words.csrw (m : Option ModW) (f : Sys) : Laws.Words.Statement (.csrw m f) :=
  words_of _ 0x1E3 m (.sys f) rfl rfl rfl (by decide) (by decide) (unpack_sys _ (by decide) (fun _ => rfl) f)
theorem Laws.Words.brk (m : Option ModW) (f : Sys) : Laws.Words.Statement (.brk m f) :=
  words_of _ 0x1E4 m (.sys f) rfl rfl rfl (by decide) (by decide) (unpack_sys _ (by decide) (fun _ => rfl) f)
theorem Laws.Words.getclk (m : Option ModW) (f : Sys) : Laws.Words.Statement (.getclk m f) :=
  words_of _ 0x1E5 m (.sys f) rfl rfl rfl (by decide) (by decide) (unpack_sys _ (by decide) (fun _ => rfl) f)
theorem Laws.Words.instructionFetch (k : ReadAt) (bad : Nat) : Laws.Words.Statement (.instructionFetch k bad) := words_none _ rfl
theorem Laws.Words.storeSend (g : Nat) (more : List Nat) : Laws.Words.Statement (.storeSend g more) := words_none _ rfl
theorem Laws.Words.writeSequence (d i : Nat) : Laws.Words.Statement (.writeSequence d i) := words_none _ rfl
theorem Laws.Words.writeApply (d h : Nat) : Laws.Words.Statement (.writeApply d h) := words_none _ rfl
theorem Laws.Words.loadPerform (g back : Nat) : Laws.Words.Statement (.loadPerform g back) := words_none _ rfl
theorem Laws.Words.forwardDelivery (c j core : Nat) : Laws.Words.Statement (.forwardDelivery c j core) := words_none _ rfl
theorem Laws.Words.atomicHomeStep (g back : Nat) : Laws.Words.Statement (.atomicHomeStep g back) := words_none _ rfl
theorem Laws.Words.qntBatch (gs : List Nat) : Laws.Words.Statement (.qntBatch gs) := words_none _ rfl
theorem Laws.Words.fenceComplete (g : Nat) : Laws.Words.Statement (.fenceComplete g) := words_none _ rfl
theorem Laws.Words.packageDrain (g : Nat) : Laws.Words.Statement (.packageDrain g) := words_none _ rfl
theorem Laws.Words.packageChannelDelivery (inbound : Bool) (core pkg : Nat) : Laws.Words.Statement (.packageChannelDelivery inbound core pkg) := words_none _ rfl
theorem Laws.Words.backingCopy (line : Nat) : Laws.Words.Statement (.backingCopy line) := words_none _ rfl
theorem Laws.Words.deadLoadRestore (i : Nat) : Laws.Words.Statement (.deadLoadRestore i) := words_none _ rfl
theorem Laws.Words.detFlushDrain (l lev inst : Nat) : Laws.Words.Statement (.detFlushDrain l lev inst) := words_none _ rfl
theorem Laws.Words.kernelEndDrain (l : Nat) : Laws.Words.Statement (.kernelEndDrain l) := words_none _ rfl
theorem Laws.Words.dieClockTick (d : Nat) : Laws.Words.Statement (.dieClockTick d) := words_none _ rfl
theorem Laws.Words.rendezvousExecute (wk : Nat) : Laws.Words.Statement (.rendezvousExecute wk) := words_none _ rfl
theorem Laws.Words.xlaneSplit (wk : Nat) : Laws.Words.Statement (.xlaneSplit wk) := words_none _ rfl
theorem Laws.Words.gangLatchMeet (c i : Nat) : Laws.Words.Statement (.gangLatchMeet c i) := words_none _ rfl
theorem Laws.Words.stationLoadComplete (tk w : Nat) : Laws.Words.Statement (.stationLoadComplete tk w) := words_none _ rfl
theorem Laws.Words.productComplete (c i : Nat) : Laws.Words.Statement (.productComplete c i) := words_none _ rfl
theorem Laws.Words.mwaitComplete (i : Nat) : Laws.Words.Statement (.mwaitComplete i) := words_none _ rfl
theorem Laws.Words.barrierRelease (i : Nat) : Laws.Words.Statement (.barrierRelease i) := words_none _ rfl
theorem Laws.Words.barSplit (l lev inst : Nat) : Laws.Words.Statement (.barSplit l lev inst) := words_none _ rfl
theorem Laws.Words.waitseqComplete (i back : Nat) : Laws.Words.Statement (.waitseqComplete i back) := words_none _ rfl
theorem Laws.Words.waitseqTimeout (i : Nat) : Laws.Words.Statement (.waitseqTimeout i) := words_none _ rfl
theorem Laws.Words.waitwpComplete (i : Nat) : Laws.Words.Statement (.waitwpComplete i) := words_none _ rfl
theorem Laws.Words.wlquietWake (i : Nat) : Laws.Words.Statement (.wlquietWake i) := words_none _ rfl
theorem Laws.Words.quiescence (l : Nat) : Laws.Words.Statement (.quiescence l) := words_none _ rfl
theorem Laws.Words.tileRangeComplete (i : Nat) : Laws.Words.Statement (.tileRangeComplete i) := words_none _ rfl
theorem Laws.Words.ringContextBind (i : ReadAt) : Laws.Words.Statement (.ringContextBind i) := words_none _ rfl
theorem Laws.Words.engineEntryStart (e : ReadAt) : Laws.Words.Statement (.engineEntryStart e) := words_none _ rfl
theorem Laws.Words.engineLineRelease (e : Nat) : Laws.Words.Statement (.engineLineRelease e) := words_none _ rfl
theorem Laws.Words.engineEntryComplete (e : Nat) : Laws.Words.Statement (.engineEntryComplete e) := words_none _ rfl
theorem Laws.Words.engineFault (e : Nat) : Laws.Words.Statement (.engineFault e) := words_none _ rfl
theorem Laws.Words.collectiveMatch (grp : Nat) : Laws.Words.Statement (.collectiveMatch grp) := words_none _ rfl
theorem Laws.Words.streamStart (i : Nat) : Laws.Words.Statement (.streamStart i) := words_none _ rfl
theorem Laws.Words.streamComplete (i : Nat) : Laws.Words.Statement (.streamComplete i) := words_none _ rfl
theorem Laws.Words.streamFault (i : Nat) : Laws.Words.Statement (.streamFault i) := words_none _ rfl
theorem Laws.Words.hostQueueSlotTake (v q : Nat) : Laws.Words.Statement (.hostQueueSlotTake v q) := words_none _ rfl
theorem Laws.Words.tailLineInvalidate (v q : Nat) (tail : BitVec 64) : Laws.Words.Statement (.tailLineInvalidate v q tail) := words_none _ rfl
theorem Laws.Words.launchEligible (l : Nat) : Laws.Words.Statement (.launchEligible l) := words_none _ rfl
theorem Laws.Words.launchAdmission (l d : Nat) : Laws.Words.Statement (.launchAdmission l d) := words_none _ rfl
theorem Laws.Words.teamPlacement (tk core frame : Nat) : Laws.Words.Statement (.teamPlacement tk core frame) := words_none _ rfl
theorem Laws.Words.nmBlockPlacement (tk seqr frame : Nat) : Laws.Words.Statement (.nmBlockPlacement tk seqr frame) := words_none _ rfl
theorem Laws.Words.priorityAging (tk : Nat) : Laws.Words.Statement (.priorityAging tk) := words_none _ rfl
theorem Laws.Words.timeSliceExpiry (c : Nat) : Laws.Words.Statement (.timeSliceExpiry c) := words_none _ rfl
theorem Laws.Words.blockedTimeout (c : Nat) : Laws.Words.Statement (.blockedTimeout c) := words_none _ rfl
theorem Laws.Words.loftSwap (c : Nat) : Laws.Words.Statement (.loftSwap c) := words_none _ rfl
theorem Laws.Words.gleanerSave (c : Nat) (discard : List Nat) : Laws.Words.Statement (.gleanerSave c discard) := words_none _ rfl
theorem Laws.Words.gleanerFill (c tk frame : Nat) : Laws.Words.Statement (.gleanerFill c tk frame) := words_none _ rfl
theorem Laws.Words.bankSpillFill (c : Nat) : Laws.Words.Statement (.bankSpillFill c) := words_none _ rfl
theorem Laws.Words.sheafDraw (c : Nat) : Laws.Words.Statement (.sheafDraw c) := words_none _ rfl
theorem Laws.Words.detSwitchPoint (c l : Nat) : Laws.Words.Statement (.detSwitchPoint c l) := words_none _ rfl
theorem Laws.Words.launchComplete (l : Nat) : Laws.Words.Statement (.launchComplete l) := words_none _ rfl
theorem Laws.Words.faultRecordWrite (d : Nat) : Laws.Words.Statement (.faultRecordWrite d) := words_none _ rfl
theorem Laws.Words.errorRecordWrite (d : Nat) : Laws.Words.Statement (.errorRecordWrite d) := words_none _ rfl
theorem Laws.Words.correctedError (d src addr detail : Nat) : Laws.Words.Statement (.correctedError d src addr detail) := words_none _ rfl
theorem Laws.Words.uncorrectedError (d src addr detail : Nat) : Laws.Words.Statement (.uncorrectedError d src addr detail) := words_none _ rfl
theorem Laws.Words.fatalError (d src addr detail : Nat) : Laws.Words.Statement (.fatalError d src addr detail) := words_none _ rfl
theorem Laws.Words.thermalTrip : Laws.Words.Statement .thermalTrip := words_none _ rfl
theorem Laws.Words.patrolScrub (line bad : Nat) : Laws.Words.Statement (.patrolScrub line bad) := words_none _ rfl
theorem Laws.Words.sequencerWatchdog (e : Nat) : Laws.Words.Statement (.sequencerWatchdog e) := words_none _ rfl
theorem Laws.Words.siloEviction (s : Nat) : Laws.Words.Statement (.siloEviction s) := words_none _ rfl
theorem Laws.Words.leaseRenewal (d unit : Nat) (line : Tag) (lease : Nat) : Laws.Words.Statement (.leaseRenewal d unit line lease) := words_none _ rfl
theorem Laws.Words.generationSweep (d unit : Nat) : Laws.Words.Statement (.generationSweep d unit) := words_none _ rfl
theorem Laws.Words.retentionSleep (d unit : Nat) : Laws.Words.Statement (.retentionSleep d unit) := words_none _ rfl
theorem Laws.Words.retentionWake (d unit : Nat) : Laws.Words.Statement (.retentionWake d unit) := words_none _ rfl
theorem Laws.Words.sectorMigration (d sector cluster : Nat) : Laws.Words.Statement (.sectorMigration d sector cluster) := words_none _ rfl
theorem Laws.Words.orientationFlip (d sector : Nat) : Laws.Words.Statement (.orientationFlip d sector) := words_none _ rfl
theorem Laws.Words.pageWalk (asid va : Nat) (fetch write : Bool) : Laws.Words.Statement (.pageWalk asid va fetch write) := words_none _ rfl
theorem Laws.Words.migrationEpoch (d : Nat) : Laws.Words.Statement (.migrationEpoch d) := words_none _ rfl
theorem Laws.Words.pageMigration (d asid va stack : Nat) : Laws.Words.Statement (.pageMigration d asid va stack) := words_none _ rfl
theorem Laws.Words.powerThrottle (island : Nat) (lower : Bool) : Laws.Words.Statement (.powerThrottle island lower) := words_none _ rfl
theorem Laws.Words.hostReadShared (n dpa : Nat) : Laws.Words.Statement (.hostReadShared n dpa) := words_none _ rfl
theorem Laws.Words.hostReadOwn (n dpa : Nat) : Laws.Words.Statement (.hostReadOwn n dpa) := words_none _ rfl
theorem Laws.Words.hostWrite (n dpa : Nat) (bytes : List (BitVec 8)) : Laws.Words.Statement (.hostWrite n dpa bytes) := words_none _ rfl
theorem Laws.Words.bisnpResponse (dpa : Nat) (data : Option (List (BitVec 8))) : Laws.Words.Statement (.bisnpResponse dpa data) := words_none _ rfl
theorem Laws.Words.hostGlobalObservation (d : Nat) (data : List (BitVec 8)) : Laws.Words.Statement (.hostGlobalObservation d data) := words_none _ rfl
theorem Laws.Words.hostDecodeError (d : Nat) : Laws.Words.Statement (.hostDecodeError d) := words_none _ rfl
theorem Laws.Words.hostLinkDown : Laws.Words.Statement .hostLinkDown := words_none _ rfl
theorem Laws.Words.fabricRead (f : Flit) : Laws.Words.Statement (.fabricRead f) := words_none _ rfl
theorem Laws.Words.fabricWrite (f : Flit) : Laws.Words.Statement (.fabricWrite f) := words_none _ rfl
theorem Laws.Words.fabricAtomic (f : Flit) : Laws.Words.Statement (.fabricAtomic f) := words_none _ rfl
theorem Laws.Words.fabricRed (f : Flit) : Laws.Words.Statement (.fabricRed f) := words_none _ rfl
theorem Laws.Words.fabricDataResponse (f : Flit) : Laws.Words.Statement (.fabricDataResponse f) := words_none _ rfl
theorem Laws.Words.fabricAcknowledgement (f : Flit) : Laws.Words.Statement (.fabricAcknowledgement f) := words_none _ rfl
theorem Laws.Words.fabricRefusal (f : Flit) : Laws.Words.Statement (.fabricRefusal f) := words_none _ rfl
theorem Laws.Words.fabricBarrierArrival (f : Flit) : Laws.Words.Statement (.fabricBarrierArrival f) := words_none _ rfl
theorem Laws.Words.fabricBarrierRelease (f : Flit) : Laws.Words.Statement (.fabricBarrierRelease f) := words_none _ rfl
theorem Laws.Words.fabricCollectiveData (f : Flit) : Laws.Words.Statement (.fabricCollectiveData f) := words_none _ rfl
theorem Laws.Words.fabricCollectiveAbort (f : Flit) : Laws.Words.Statement (.fabricCollectiveAbort f) := words_none _ rfl
theorem Laws.Words.fabricReservedFlit (f : Flit) : Laws.Words.Statement (.fabricReservedFlit f) := words_none _ rfl
theorem Laws.Words.fabricPortDown (p : Nat) : Laws.Words.Statement (.fabricPortDown p) := words_none _ rfl
theorem Laws.Words.fabricRouteSwitch (core pkg : Nat) : Laws.Words.Statement (.fabricRouteSwitch core pkg) := words_none _ rfl
theorem Laws.Words.powerGood : Laws.Words.Statement .powerGood := words_none _ rfl
theorem Laws.Words.powerLoss : Laws.Words.Statement .powerLoss := words_none _ rfl
theorem Laws.Words.cxlReset : Laws.Words.Statement .cxlReset := words_none _ rfl
theorem Laws.Words.pf0Flr : Laws.Words.Statement .pf0Flr := words_none _ rfl
theorem Laws.Words.vfFlr (v : Nat) : Laws.Words.Statement (.vfFlr v) := words_none _ rfl
theorem Laws.Words.spdmGetVersion : Laws.Words.Statement .spdmGetVersion := words_none _ rfl
theorem Laws.Words.spdmGetCapabilities : Laws.Words.Statement .spdmGetCapabilities := words_none _ rfl
theorem Laws.Words.spdmGetMeasurements (index : Nat) (nonce : List (BitVec 8)) : Laws.Words.Statement (.spdmGetMeasurements index nonce) := words_none _ rfl
theorem Laws.Words.spdmKeyExchange (share : List (BitVec 8)) : Laws.Words.Statement (.spdmKeyExchange share) := words_none _ rfl
theorem Laws.Words.cxlTableAccess (i : Nat) : Laws.Words.Statement (.cxlTableAccess i) := words_none _ rfl
theorem Laws.Words.invAll (d : Nat) : Laws.Words.Statement (.invAll d) := words_none _ rfl
theorem Laws.Words.invAsid (d : Nat) : Laws.Words.Statement (.invAsid d) := words_none _ rfl
theorem Laws.Words.invRange (d : Nat) : Laws.Words.Statement (.invRange d) := words_none _ rfl
theorem Laws.Words.setAttr (d : Nat) : Laws.Words.Statement (.setAttr d) := words_none _ rfl
theorem Laws.Words.setFmt (d : Nat) : Laws.Words.Statement (.setFmt d) := words_none _ rfl
theorem Laws.Words.setRegion (d : Nat) : Laws.Words.Statement (.setRegion d) := words_none _ rfl
theorem Laws.Words.mtcmdBadOp (d op : Nat) : Laws.Words.Statement (.mtcmdBadOp d op) := words_none _ rfl
theorem Laws.Words.mtcmdComplete (d : Nat) : Laws.Words.Statement (.mtcmdComplete d) := words_none _ rfl
theorem Laws.Words.btEvict (d : Nat) : Laws.Words.Statement (.btEvict d) := words_none _ rfl
theorem Laws.Words.btRestore (d : Nat) : Laws.Words.Statement (.btRestore d) := words_none _ rfl
theorem Laws.Words.btcmdBadOp (d op : Nat) : Laws.Words.Statement (.btcmdBadOp d op) := words_none _ rfl
theorem Laws.Words.unpark (d : Nat) : Laws.Words.Statement (.unpark d) := words_none _ rfl
theorem Laws.Words.skip (d : Nat) : Laws.Words.Statement (.skip d) := words_none _ rfl
theorem Laws.Words.kill (d : Nat) : Laws.Words.Statement (.kill d) := words_none _ rfl
theorem Laws.Words.fqcmdTrap (d : Nat) : Laws.Words.Statement (.fqcmdTrap d) := words_none _ rfl
theorem Laws.Words.halt (d : Nat) : Laws.Words.Statement (.halt d) := words_none _ rfl
theorem Laws.Words.resume (d : Nat) : Laws.Words.Statement (.resume d) := words_none _ rfl
theorem Laws.Words.step (d : Nat) : Laws.Words.Statement (.step d) := words_none _ rfl
theorem Laws.Words.dbgRead (d : Nat) : Laws.Words.Statement (.dbgRead d) := words_none _ rfl
theorem Laws.Words.dbgWrite (d : Nat) : Laws.Words.Statement (.dbgWrite d) := words_none _ rfl
theorem Laws.Words.dbgcmdBadOp (d op : Nat) : Laws.Words.Statement (.dbgcmdBadOp d op) := words_none _ rfl
theorem Laws.Words.biasToHost : Laws.Words.Statement .biasToHost := words_none _ rfl
theorem Laws.Words.biasToDevice : Laws.Words.Statement .biasToDevice := words_none _ rfl
theorem Laws.Words.biasFlipComplete : Laws.Words.Statement .biasFlipComplete := words_none _ rfl
theorem Laws.Words.loadFw (val : BitVec 64) : Laws.Words.Statement (.loadFw val) := words_none _ rfl
theorem Laws.Words.lcTransition (val : BitVec 64) : Laws.Words.Statement (.lcTransition val) := words_none _ rfl
theorem Laws.Words.mbcmdBadOp (val : BitVec 64) : Laws.Words.Statement (.mbcmdBadOp val) := words_none _ rfl
theorem Laws.Words.vfrstWrite (v : Nat) (val : BitVec 64) : Laws.Words.Statement (.vfrstWrite v val) := words_none _ rfl
theorem Laws.Words.negoWrite (v : Nat) (val : BitVec 64) : Laws.Words.Statement (.negoWrite v val) := words_none _ rfl
theorem Laws.Words.devrstWrite (val : BitVec 64) : Laws.Words.Statement (.devrstWrite val) := words_none _ rfl
theorem Laws.Words.hqctlWrite (v q : Nat) (val : BitVec 64) : Laws.Words.Statement (.hqctlWrite v q val) := words_none _ rfl
theorem Laws.Words.vfctlWrite (v : Nat) (val : BitVec 64) : Laws.Words.Statement (.vfctlWrite v val) := words_none _ rfl
theorem Laws.Words.fqtailWrite (d : Nat) (val : BitVec 64) : Laws.Words.Statement (.fqtailWrite d val) := words_none _ rfl
theorem Laws.Words.mgstatWrite (d : Nat) (val : BitVec 64) : Laws.Words.Statement (.mgstatWrite d val) := words_none _ rfl
theorem Laws.Words.fabrtWrite (p : Nat) (val : BitVec 64) : Laws.Words.Statement (.fabrtWrite p val) := words_none _ rfl
theorem Laws.Words.nmwdtWrite (d s : Nat) (val : BitVec 64) : Laws.Words.Statement (.nmwdtWrite d s val) := words_none _ rfl
theorem Laws.Words.pwrlimWrite (val : BitVec 64) : Laws.Words.Statement (.pwrlimWrite val) := words_none _ rfl
theorem Laws.Words.registerWrite (off : Nat) (val : BitVec 64) : Laws.Words.Statement (.registerWrite off val) := words_none _ rfl
theorem Laws.Words.hostLinkUp : Laws.Words.Statement .hostLinkUp := words_none _ rfl

end Sys2Proof
end

