-- ==== Sys2Proof/Tests/Slice0.lean ====
section
/-! SUPPORT. Small tests: words written out from the encoding tables decode to what they stand for, ill-formed
instructions are refused, and for each statement a state and operands that meet its hypotheses. -/

namespace Sys2Proof.Tests
open Sys2Proof.Machine Sys2Proof.Claims

/-! ### Decoding: the fields of every word are laid out by hand from 05 Tables 5-2 to 5-10 -/

/-- An answer that is no error. -/
theorem ok_of {ε α : Type} {x : Except ε α} (h : x.toBool = true) : ∃ a, x = .ok a := by
  cases x with
  | ok a => exact ⟨a, rfl⟩
  | error e => cases h
/-- An answer that is an error. -/
theorem error_of {ε α : Type} {x : Except ε α} (h : x.toBool = false) : ∃ e, x = .error e := by
  cases x with
  | ok a => cases h
  | error e => exact ⟨e, rfl⟩
/-- A certain answer. -/
theorem ok_is {ε α : Type} {x : Except ε α} {a : α} (h : x.toOption = some a) : x = .ok a := by
  cases x with
  | ok b => cases h; rfl
  | error e => cases h
/-- No engine, stream or work-list region owns a line. -/
theorem owned_of {s : State} (he : ∀ e ∈ s.engines, ∀ j, e.2.job = some j → j.owned = []) (hs : ∀ x ∈ s.streams, ∀ j, x.job = some j → j.owned = [])
    (hl : ∀ l ∈ s.launches, l.2.owned = []) (lines : List Nat) : s.owned lines = false := by
  simp only [State.owned, Bool.or_eq_false_iff, List.any_eq_false, Bool.not_eq_true]
  refine ⟨⟨fun e h => ?_, fun x h => ?_⟩, fun l h => by simp [hl l h]⟩
  · cases hj : e.2.job with
    | none => rfl
    | some j => simp [he e h j hj]
  · cases hj : x.job with
    | none => rfl
    | some j => simp [hs x h j hj]
/-- No half-line is the host's. -/
theorem snoops_of {s : State} (h : s.hub.halves = []) (lines : List Nat) (w : Bool) : s.snoopsOf lines w = [] := by
  simp [State.snoopsOf, h, tget]
/-- Nothing keeps an access from any line. -/
theorem quiet_of {s : State} (he : ∀ e ∈ s.engines, ∀ j, e.2.job = some j → j.owned = [])
    (hs : ∀ x ∈ s.streams, ∀ j, x.job = some j → j.owned = []) (hl : ∀ l ∈ s.launches, l.2.owned = [])
    (hx : ∀ c ∈ s.execs, c.2.products = []) (hf : s.hub.flip = none) (hh : s.hub.halves = [])
    (hq : (upto nDies).all s.queuesOpen = true) (ha : s.attrBusy = false) : Quiet s := by
  intro rd wr
  have hp : s.pinned wr = false := by
    simp only [State.pinned, List.any_eq_false, Bool.not_eq_true]
    intro c hc; simp [hx c hc]
  have hi (l : List Nat) (g : Nat) : s.inFlip l g = false := by simp [State.inFlip, hf]
  have hb (l : List Nat) : s.attrHolds l = false := by
    simp only [State.attrBusy, List.any_eq_false, Bool.not_eq_true] at ha
    simp only [State.attrHolds, List.any_eq_false, Bool.not_eq_true]
    intro e he; simp [ha e he]
  simp [State.clear, hb, hi, State.writeStall, State.lineStall, owned_of he hs hl, hp, hq, snoops_of hh]
theorem test_decode_integer :
    [0x000C050A#32, 0x008C050A#32, 0x010C050A#32, 0x018C050A#32, 0x020C050A#32, 0x028C050A#32, 0x030C050A#32, 0x038C0500#32, 0x040C050A#32, 0x048C050A#32, 0x050C050A#32, 0x058C050A#32, 0x060C0500#32, 0x068C0500#32].map (fun w => decode w 0) =
    [.instr (.add none ⟨6, false, 2, true, 5, false⟩),
     .instr (.sub none ⟨6, false, 2, true, 5, false⟩),
     .instr (.mul none ⟨6, false, 2, true, 5, false⟩),
     .instr (.mulh none ⟨6, false, 2, true, 5, false⟩),
     .instr (.mad none ⟨6, false, 2, true, 5, false⟩),
     .instr (.div none ⟨6, false, 2, true, 5, false⟩),
     .instr (.rem none ⟨6, false, 2, true, 5, false⟩),
     .instr (.abs none ⟨6, false, 2, true, 0, false⟩),
     .instr (.min none ⟨6, false, 2, true, 5, false⟩),
     .instr (.max none ⟨6, false, 2, true, 5, false⟩),
     .instr (.cmp none ⟨6, false, 2, true, 5, false⟩),
     .instr (.sel none ⟨6, false, 2, true, 5, false⟩),
     .instr (.mov none ⟨6, false, 2, true, 0, false⟩),
     .instr (.cvtI none ⟨6, false, 2, true, 0, false⟩)] := by
  rfl

theorem test_decode_integer2 :
    [0x100C050A#32, 0x108C050A#32, 0x110C050A#32, 0x118C050A#32, 0x120C050A#32, 0x128C050A#32, 0x130C050A#32, 0x138C050A#32, 0x140C0500#32, 0x148C0500#32, 0x150C0500#32, 0x158C050A#32, 0x160C050A#32].map (fun w => decode w 0) =
    [.instr (.and none ⟨6, false, 2, true, 5, false⟩),
     .instr (.or none ⟨6, false, 2, true, 5, false⟩),
     .instr (.xor none ⟨6, false, 2, true, 5, false⟩),
     .instr (.andn none ⟨6, false, 2, true, 5, false⟩),
     .instr (.shl none ⟨6, false, 2, true, 5, false⟩),
     .instr (.shr none ⟨6, false, 2, true, 5, false⟩),
     .instr (.sha none ⟨6, false, 2, true, 5, false⟩),
     .instr (.rot none ⟨6, false, 2, true, 5, false⟩),
     .instr (.clz none ⟨6, false, 2, true, 0, false⟩),
     .instr (.popc none ⟨6, false, 2, true, 0, false⟩),
     .instr (.brev none ⟨6, false, 2, true, 0, false⟩),
     .instr (.bfx none ⟨6, false, 2, true, 5, false⟩),
     .instr (.bfi none ⟨6, false, 2, true, 5, false⟩)] := by
  rfl

theorem test_decode_float :
    [0x200C050A#32, 0x208C050A#32, 0x210C050A#32, 0x218C050A#32, 0x220C050A#32, 0x228C050A#32, 0x230C050A#32, 0x238C050A#32, 0x240C050A#32, 0x248C0500#32, 0x250C0500#32, 0x258C050A#32, 0x260C0500#32, 0x268C0500#32, 0x270C0500#32, 0x278C0500#32, 0x280C0500#32, 0x288C0500#32, 0x290C0500#32, 0x298C0500#32, 0x2A0C0500#32].map (fun w => decode w 0) =
    [.instr (.fadd none ⟨6, false, 2, true, 5, false⟩),
     .instr (.fsub none ⟨6, false, 2, true, 5, false⟩),
     .instr (.fmul none ⟨6, false, 2, true, 5, false⟩),
     .instr (.fma none ⟨6, false, 2, true, 5, false⟩),
     .instr (.fdiv none ⟨6, false, 2, true, 5, false⟩),
     .instr (.fmin none ⟨6, false, 2, true, 5, false⟩),
     .instr (.fmax none ⟨6, false, 2, true, 5, false⟩),
     .instr (.fminn none ⟨6, false, 2, true, 5, false⟩),
     .instr (.fmaxn none ⟨6, false, 2, true, 5, false⟩),
     .instr (.fabs none ⟨6, false, 2, true, 0, false⟩),
     .instr (.fneg none ⟨6, false, 2, true, 0, false⟩),
     .instr (.fcmp none ⟨6, false, 2, true, 5, false⟩),
     .instr (.frcp none ⟨6, false, 2, true, 0, false⟩),
     .instr (.frsq none ⟨6, false, 2, true, 0, false⟩),
     .instr (.fsqrt none ⟨6, false, 2, true, 0, false⟩),
     .instr (.fexp2 none ⟨6, false, 2, true, 0, false⟩),
     .instr (.flog2 none ⟨6, false, 2, true, 0, false⟩),
     .instr (.fsin none ⟨6, false, 2, true, 0, false⟩),
     .instr (.fcos none ⟨6, false, 2, true, 0, false⟩),
     .instr (.frnd none ⟨6, false, 2, true, 0, false⟩),
     .instr (.fclass none ⟨6, false, 2, true, 0, false⟩)] := by
  rfl

theorem test_decode_float2 :
    [0x300C0500#32, 0x308C0496#32, 0x310C0500#32, 0x318C0496#32, 0x320C050A#32, 0x328C050A#32].map (fun w => decode w 0) =
    [.instr (.cvt none ⟨6, false, 2, true, 0, false⟩),
     .instr (.cvtMx none ⟨6, false, 2, false, 0x4b, false⟩),
     .instr (.cvtLg6 none ⟨6, false, 2, true, 0, false⟩),
     .instr (.mxsc none ⟨6, false, 2, false, 0x4b, false⟩),
     .instr (.pk none ⟨6, false, 2, true, 5, false⟩),
     .instr (.upk none ⟨6, false, 2, true, 5, false⟩)] := by
  rfl

theorem test_decode_memory :
    [0x400C05F4#32, 0x408C05F4#32, 0x410C05F4#32, 0x418C05F4#32, 0x420C05F4#32, 0x428005F4#32, 0x43000000#32].map (fun w => decode w 0) =
    [.instr (.ld none ⟨6, false, 2, true, 0xf4⟩),
     .instr (.st none ⟨6, false, 2, true, 0xf4⟩),
     .instr (.ldsp none ⟨6, false, 2, true, 0xf4⟩),
     .instr (.stsp none ⟨6, false, 2, true, 0xf4⟩),
     .instr (.ldraw none ⟨6, false, 2, true, 0xf4⟩),
     .instr (.pref none ⟨0, false, 2, true, 0xf4⟩),
     .instr (.fence none ⟨⟩)] := by
  rfl

theorem test_decode_memory_pairs :
    [(0x7FFE6008#32, 0x440C940A#32), (0x7FBFF020#32, 0x448C050A#32), (0x7FBFF020#32, 0x450C050A#32), (0x7FBFF020#32, 0x458C050A#32), (0x7FBFF020#32, 0x460C050A#32), (0x7FBFF020#32, 0x468C050A#32), (0x7FBFF020#32, 0x470C050A#32), (0x7FFE9813#32, 0x478C050A#32), (0x7FBFF020#32, 0x480C050A#32), (0x7FBFF020#32, 0x488C050A#32), (0x7FBFF020#32, 0x490C0510#32), (0x7FBFF0E0#32, 0x4980050A#32), (0x7FBFF0E0#32, 0x4A00050A#32), (0x7FBFF0E0#32, 0x4A800510#32)].map (fun w => decode w.1 w.2) =
    [.instr (.atomAdd (some ⟨true, 31, 31, 0, 3, 0, 0, 4, false⟩) ⟨6, false, 0x4a, false, 5, false⟩),
     .instr (.atomMin (some ⟨false, 31, 31, 0, 1, 0, 0, 0, false⟩) ⟨6, false, 2, true, 5, false⟩),
     .instr (.atomMax (some ⟨false, 31, 31, 0, 1, 0, 0, 0, false⟩) ⟨6, false, 2, true, 5, false⟩),
     .instr (.atomAnd (some ⟨false, 31, 31, 0, 1, 0, 0, 0, false⟩) ⟨6, false, 2, true, 5, false⟩),
     .instr (.atomOr (some ⟨false, 31, 31, 0, 1, 0, 0, 0, false⟩) ⟨6, false, 2, true, 5, false⟩),
     .instr (.atomXor (some ⟨false, 31, 31, 0, 1, 0, 0, 0, false⟩) ⟨6, false, 2, true, 5, false⟩),
     .instr (.atomXchg (some ⟨false, 31, 31, 0, 1, 0, 0, 0, false⟩) ⟨6, false, 2, true, 5, false⟩),
     .instr (.atomCas (some ⟨true, 31, 31, 0, 4, 6, 0, 9, true⟩) ⟨6, false, 2, true, 5, false⟩),
     .instr (.atomFadd (some ⟨false, 31, 31, 0, 1, 0, 0, 0, false⟩) ⟨6, false, 2, true, 5, false⟩),
     .instr (.atomFmax (some ⟨false, 31, 31, 0, 1, 0, 0, 0, false⟩) ⟨6, false, 2, true, 5, false⟩),
     .instr (.amaxi (some ⟨false, 31, 31, 0, 1, 0, 0, 0, false⟩) ⟨6, false, 2, true, 8, false⟩),
     .instr (.redAdd (some ⟨false, 31, 31, 0, 7, 0, 0, 0, false⟩) ⟨0, false, 2, true, 5, false⟩),
     .instr (.redMax (some ⟨false, 31, 31, 0, 7, 0, 0, 0, false⟩) ⟨0, false, 2, true, 5, false⟩),
     .instr (.redEsum (some ⟨false, 31, 31, 0, 7, 0, 0, 0, false⟩) ⟨0, false, 2, true, 8, false⟩)] := by
  rfl

theorem test_decode_control :
    [0x50580015#32, 0x50800015#32, 0x51000500#32, 0x51800015#32, 0x52000500#32, 0x52800500#32, 0x53000000#32, 0x53800000#32, 0x54000000#32].map (fun w => decode w 0) =
    [.instr (.bp none ⟨true, 3, 0x15⟩),
     .instr (.jmp none ⟨0x15⟩),
     .instr (.jmpReg none ⟨2, true⟩),
     .instr (.call none ⟨0x15⟩),
     .instr (.callReg none ⟨2, true⟩),
     .instr (.ret none ⟨2, true⟩),
     .instr (.reform none ⟨⟩),
     .instr (.exit none ⟨⟩),
     .instr (.nop none ⟨⟩)] := by
  rfl

theorem test_decode_crosslane :
    [0x600C050A#32, 0x608C0535#32, 0x610C0602#32, 0x618C0404#32, 0x620C050A#32, 0x628C0404#32, 0x630C050A#32, 0x638C050A#32, 0x640C04D6#32, 0x648C04D6#32, 0x650C0411#32, 0x658C050A#32, 0x6610040C#32].map (fun w => decode w 0) =
    [.instr (.shfl none ⟨6, false, 2, true, 5, false⟩),
     .instr (.shfli none ⟨6, false, 2, true, 0x35⟩),
     .instr (.vote none ⟨6, false, 3, false, 2⟩),
     .instr (.redu none ⟨6, false, 2, false, 4⟩),
     .instr (.redmaxi none ⟨6, false, 2, true, 5, false⟩),
     .instr (.scan none ⟨6, false, 2, false, 4⟩),
     .instr (.cmpr none ⟨6, false, 2, true, 5, false⟩),
     .instr (.expd none ⟨6, false, 2, true, 5, false⟩),
     .instr (.slup none ⟨6, false, 2, false, 0x6b, false⟩),
     .instr (.sldn none ⟨6, false, 2, false, 0x6b, false⟩),
     .instr (.bcast none ⟨6, false, 2, false, 0x11⟩),
     .instr (.wfind none ⟨6, false, 2, true, 5, false⟩),
     .instr (.harrow none ⟨8, false, 2, false, 6, false⟩)] := by
  rfl

theorem test_decode_stook :
    [0x700C050A#32, 0x708C050A#32, 0x710C050A#32, 0x718C050A#32, 0x720C0500#32, 0x728C0500#32, 0x730C0500#32, 0x738C050A#32, 0x740C050A#32, 0x748C0500#32, 0x750C050A#32, 0x758C0500#32, 0x76060520#32].map (fun w => decode w 0) =
    [.instr (.stkAdd none ⟨6, false, 2, true, 5, false⟩),
     .instr (.stkSub none ⟨6, false, 2, true, 5, false⟩),
     .instr (.stkMul none ⟨6, false, 2, true, 5, false⟩),
     .instr (.stkDiv none ⟨6, false, 2, true, 5, false⟩),
     .instr (.stkNeg none ⟨6, false, 2, true, 0, false⟩),
     .instr (.stkRcp none ⟨6, false, 2, true, 0, false⟩),
     .instr (.stkSq none ⟨6, false, 2, true, 0, false⟩),
     .instr (.stkUni none ⟨6, false, 2, true, 5, false⟩),
     .instr (.stkIsect none ⟨6, false, 2, true, 5, false⟩),
     .instr (.stkHull none ⟨6, false, 2, true, 0, false⟩),
     .instr (.stkFrom none ⟨6, false, 2, true, 5, false⟩),
     .instr (.stkTo none ⟨6, false, 2, true, 0, false⟩),
     .instr (.stkLdring none ⟨3, false, 2, true, 0x20⟩)] := by
  rfl

theorem test_decode_uniform :
    [0x80126440#32, 0x80926440#32, 0x81126440#32, 0x81926440#32, 0x82126440#32, 0x82926440#32, 0x83126440#32, 0x83926440#32, 0x84126440#32, 0x84926440#32, 0x85126440#32, 0x85926000#32, 0x86126440#32, 0x86926120#32, 0x871260F4#32, 0x879260F4#32].map (fun w => decode w 0) =
    [.instr (.sadd none ⟨9, 0xc, 0x22⟩),
     .instr (.ssub none ⟨9, 0xc, 0x22⟩),
     .instr (.smul none ⟨9, 0xc, 0x22⟩),
     .instr (.sand none ⟨9, 0xc, 0x22⟩),
     .instr (.sor none ⟨9, 0xc, 0x22⟩),
     .instr (.sxor none ⟨9, 0xc, 0x22⟩),
     .instr (.sshl none ⟨9, 0xc, 0x22⟩),
     .instr (.sshr none ⟨9, 0xc, 0x22⟩),
     .instr (.ssha none ⟨9, 0xc, 0x22⟩),
     .instr (.smin none ⟨9, 0xc, 0x22⟩),
     .instr (.smax none ⟨9, 0xc, 0x22⟩),
     .instr (.smov none ⟨9, 0xc, 0⟩),
     .instr (.scmp none ⟨9, 0xc, 0x22⟩),
     .instr (.ssel none ⟨9, 0xc, 9⟩),
     .instr (.sld none ⟨9, 0xc, 0xf4⟩),
     .instr (.sst none ⟨9, 0xc, 0xf4⟩)] := by
  rfl

theorem test_decode_immediate :
    [0x90120035#32, 0x90920035#32, 0x91120035#32, 0x91920035#32, 0x92120035#32].map (fun w => decode w 0) =
    [.instr (.sli none ⟨9, 0x35⟩),
     .instr (.sliH1 none ⟨9, 0x35⟩),
     .instr (.sliH2 none ⟨9, 0x35⟩),
     .instr (.sliH3 none ⟨9, 0x35⟩),
     .instr (.saddImm none ⟨9, 0x35⟩)] := by
  rfl

theorem test_decode_uniform_control :
    [0xA0580015#32, 0xA0800015#32, 0xA1000015#32, 0xA1806000#32, 0xA20E0015#32].map (fun w => decode w 0) =
    [.instr (.ubr none ⟨true, 3, 0x15⟩),
     .instr (.ubrFar none ⟨0x15⟩),
     .instr (.ucall none ⟨0x15⟩),
     .instr (.uret none ⟨0, 0xc, 0⟩),
     .instr (.uloop none ⟨7, 0x15⟩)] := by
  rfl

theorem test_decode_matrix :
    [0xB0003000#32, 0xB0823221#32, 0xB1020000#32, 0xB1AA3220#32, 0xB22A3220#32, 0xB2AA3220#32, 0xB3280001#32, 0xB3A83221#32, 0xB4283221#32, 0xB4A80220#32, 0xB5283221#32, 0xB5800000#32].map (fun w => decode w 0) =
    [.instr (.gang none ⟨0, 0, 0xc, 0, 0⟩),
     .instr (.station none ⟨0, 2, 0xc, 0x22, 1⟩),
     .instr (.unstation none ⟨0, 2, 0, 0, 0⟩),
     .instr (.mma none ⟨5, 2, 0xc, 0x22, 0⟩),
     .instr (.mmat none ⟨5, 2, 0xc, 0x22, 0⟩),
     .instr (.mdual none ⟨5, 2, 0xc, 0x22, 0⟩),
     .instr (.azero none ⟨5, 0, 0, 0, 1⟩),
     .instr (.ald none ⟨5, 0, 0xc, 0x22, 1⟩),
     .instr (.ast none ⟨5, 0, 0xc, 0x22, 1⟩),
     .instr (.ascl none ⟨5, 0, 0, 0x22, 0⟩),
     .instr (.aread none ⟨5, 0, 0xc, 0x22, 1⟩),
     .instr (.mwait none ⟨0, 0, 0, 0, 0⟩)] := by
  rfl

theorem test_decode_tile :
    [0xC0191060#32, 0xC0991060#32, 0xC1191060#32, 0xC1991060#32, 0xC2180060#32, 0xC2991000#32, 0xC3191064#32].map (fun w => decode w 0) =
    [.instr (.tfill none ⟨0xc, 0x22, 3, 0⟩),
     .instr (.taff none ⟨0xc, 0x22, 3, 0⟩),
     .instr (.tclamp none ⟨0xc, 0x22, 3, 0⟩),
     .instr (.tperm none ⟨0xc, 0x22, 3, 0⟩),
     .instr (.tmat none ⟨0xc, 0, 3, 0⟩),
     .instr (.tread none ⟨0xc, 0x22, 0, 0⟩),
     .instr (.stream none ⟨0xc, 0x22, 3, 4⟩)] := by
  rfl

theorem test_decode_sync :
    [0xD000002B#32, 0xD09800FE#32, 0xD1000000#32, 0xD19800C8#32, 0xD21910FF#32, 0xD29800C8#32, 0xD3191035#32, 0xD3991035#32, 0xD4000000#32, 0xE0191000#32, 0xE0991000#32, 0xE1191000#32, 0xE1991000#32, 0xE2191000#32, 0xE2991000#32].map (fun w => decode w 0) =
    [.instr (.bar none ⟨0, 0, 0x2b⟩),
     .instr (.barw none ⟨0xc, 0, 0xfe⟩),
     .instr (.yield none ⟨0, 0, 0⟩),
     .instr (.wlpush none ⟨0xc, 0, 0xc8⟩),
     .instr (.wlpop none ⟨0xc, 0x22, 0xff⟩),
     .instr (.wlquiet none ⟨0xc, 0, 0xc8⟩),
     .instr (.waitwp none ⟨0xc, 0x22, 0x35⟩),
     .instr (.waitseq none ⟨0xc, 0x22, 0x35⟩),
     .instr (.aflush none ⟨0, 0, 0⟩),
     .instr (.chapp none ⟨0xc, 0x22, 0⟩),
     .instr (.launch none ⟨0xc, 0x22, 0⟩),
     .instr (.nlaunch none ⟨0xc, 0x22, 0⟩),
     .instr (.coll none ⟨0xc, 0x22, 0⟩),
     .instr (.topk none ⟨0xc, 0x22, 0⟩),
     .instr (.gath none ⟨0xc, 0x22, 0⟩)] := by
  rfl

theorem test_decode_system :
    [0xF00006A0#32, 0xF0800000#32, 0xF11805E0#32, 0xF19805E0#32, 0xF20006A0#32, 0xF2980020#32].map (fun w => decode w 0) =
    [.instr (.trap none ⟨0, 0x35⟩),
     .instr (.tret none ⟨0, 0⟩),
     .instr (.csrr none ⟨0xc, 0x2f⟩),
     .instr (.csrw none ⟨0xc, 0x2f⟩),
     .instr (.brk none ⟨0, 0x35⟩),
     .instr (.getclk none ⟨0xc, 1⟩)] := by
  rfl

/-! ### Ill-formed instructions, one of each check of 05 Table 5-11 -/

/-- Every instruction of the list breaks a condition. -/
def allIll (l : List Instr) : Bool := l.all (fun i => !i.wellFormed)

/-- A modifier word with nothing in it. -/
def bare : ModW := ⟨false, 31, 31, 0, 0, 0, 0, 0, false⟩
/-- The same in layout 1. -/
def bareX : ModW := ⟨true, 31, 31, 0, 0, 0, 0, 0, false⟩

/-- R93, R112: a slot that the suffix has not, a reserved code, a layout that it does not take. -/
theorem test_ill_modifier : allIll
    [.add (some { bare with ty := 22 }) ⟨0, false, 0, false, 0, false⟩, .add (some { bare with st := 3 }) ⟨0, false, 0, false, 0, false⟩,
     .nop (some { bare with ty := 1 }) ⟨⟩, .add (some { bare with rnd := 1 }) ⟨0, false, 0, false, 0, false⟩,
     .fadd (some { bare with rnd := 7 }) ⟨0, false, 0, false, 0, false⟩, .add (some { bare with ord := 1 }) ⟨0, false, 0, false, 0, false⟩,
     .ld (some { bare with ord := 11 }) ⟨0, false, 8, false, 0⟩, .add (some { bare with sco := 1 }) ⟨0, false, 0, false, 0, false⟩,
     .add (some { bare with fl := 1 }) ⟨0, false, 0, false, 0, false⟩, .ld (some { bare with fl := 2 }) ⟨0, false, 8, false, 0⟩,
     .add (some bareX) ⟨0, false, 0, false, 0, false⟩, .ld (some { bareX with st := 1 }) ⟨0, false, 72, false, 0⟩,
     .ld (some { bare with x := 1 }) ⟨0, false, 72, false, 0⟩, .ld (some { bare with xlu := true }) ⟨0, false, 72, false, 0⟩] = true := by decide

/-- R96 to R98: a last use of no register, an odd pair, a constant where none may stand, a `stk` constant that is none. -/
theorem test_ill_operands : allIll
    [.add none ⟨0, false, 64, true, 0, false⟩, .add none ⟨0, false, 0, false, 64, true⟩,
     .add (some { bare with ty := 13 }) ⟨0, false, 1, false, 0, false⟩, .add (some { bare with ty := 13 }) ⟨0, false, 0, false, 1, false⟩,
     .jmpReg none ⟨104, false⟩, .jmpReg none ⟨1, false⟩, .stkAdd none ⟨0, false, 106, false, 0, false⟩,
     .stkAdd none ⟨0, false, 0, false, 106, false⟩, .stkNeg none ⟨0, false, 0, false, 1, false⟩] = true := by decide

/-- R97, R16, R99: destinations, unary sources, predicate operands, compare conditions. -/
theorem test_ill_alu : allIll
    [.add none ⟨1, true, 0, false, 0, false⟩, .add (some { bare with ty := 13 }) ⟨1, false, 0, false, 0, false⟩,
     .mad none ⟨0, true, 0, false, 0, false⟩, .mad (some { bare with ty := 13 }) ⟨1, false, 0, false, 0, false⟩,
     .cmp none ⟨0, true, 0, false, 0, false⟩, .cmp none ⟨48, false, 0, false, 0, false⟩, .sel none ⟨0, false, 0, false, 16, false⟩,
     .sel none ⟨0, false, 0, false, 0, true⟩, .abs none ⟨0, false, 0, false, 1, false⟩, .mov none ⟨0, false, 0, false, 0, true⟩,
     .bfi none ⟨0, true, 0, false, 0, false⟩, .cvtI none ⟨0, false, 0, false, 1, false⟩, .fcmp none ⟨0, true, 0, false, 0, false⟩,
     .fma none ⟨0, true, 0, false, 0, false⟩, .fclass none ⟨0, false, 0, false, 1, false⟩, .fneg none ⟨0, false, 0, false, 1, false⟩,
     .cvt none ⟨0, false, 0, false, 1, false⟩, .cvtLg6 none ⟨0, false, 0, false, 1, false⟩, .cvtMx none ⟨0, false, 0, false, 0, false⟩,
     .mxsc none ⟨0, false, 0, false, 0, false⟩, .pk none ⟨0, true, 0, false, 0, false⟩, .upk none ⟨1, true, 0, false, 0, false⟩] = true := by decide

/-- R101, R234 to R238: bases, X, the compare operand of `atom.cas`, and what `red` and `pref` have not. -/
theorem test_ill_memory : allIll
    [.ld none ⟨0, false, 104, false, 0⟩, .ld none ⟨1, true, 8, false, 0⟩, .ld (some bareX) ⟨0, false, 8, false, 0⟩,
     .ld (some { bareX with x := 104 }) ⟨0, false, 72, false, 0⟩, .st (some { bare with ty := 0 }) ⟨1, false, 8, false, 0⟩,
     .ldsp none ⟨0, false, 104, false, 0⟩, .stsp (some { bare with ty := 0 }) ⟨1, false, 8, false, 0⟩, .pref none ⟨1, false, 8, false, 0⟩,
     .pref none ⟨0, true, 8, false, 0⟩, .stkLdring none ⟨4, false, 8, false, 0⟩, .stkLdring none ⟨0, true, 8, false, 0⟩,
     .atomCas none ⟨0, false, 8, false, 0, false⟩, .atomCas (some bare) ⟨0, false, 8, false, 0, false⟩,
     .atomAdd none ⟨0, false, 1, false, 0, false⟩, .redAdd none ⟨1, false, 8, false, 0, false⟩, .redAdd none ⟨0, true, 8, false, 0, false⟩,
     .redEsum none ⟨0, false, 8, false, 1, false⟩] = true := by decide

/-- R245 to R252: the immediates and operands of the rendezvous instructions and `harrow`. -/
theorem test_ill_wave : allIll
    [.shfli none ⟨0, false, 0, false, 128⟩, .vote none ⟨0, false, 16, false, 0⟩, .vote none ⟨0, false, 0, false, 3⟩,
     .bcast none ⟨0, false, 0, false, 32⟩, .redu none ⟨0, false, 0, false, 9⟩, .scan none ⟨0, false, 0, false, 9⟩,
     .redmaxi none ⟨1, false, 0, false, 0, false⟩, .slup none ⟨0, false, 0, false, 0, false⟩, .sldn none ⟨0, false, 0, false, 64, false⟩,
     .harrow none ⟨2, false, 0, false, 0, false⟩, .shfl none ⟨0, false, 0, true, 104, true⟩] = true := by decide

/-- R153, R154, R163: fields of the uniform layouts that must be 0, and conditions. -/
theorem test_ill_uniform : allIll
    [.smov none ⟨0, 0, 1⟩, .scmp none ⟨48, 0, 0⟩, .ssel none ⟨0, 0, 16⟩, .uret none ⟨1, 0, 0⟩, .uret none ⟨0, 0, 1⟩] = true := by decide

/-- 14 Table 14-1: the mode bits and the unused fields of each matrix instruction. -/
theorem test_ill_matrix : allIll
    [.gang none ⟨1, 0, 0, 0, 0⟩, .station none ⟨1, 0, 0, 0, 0⟩, .station none ⟨0, 0, 0, 0, 2⟩, .unstation none ⟨0, 0, 1, 0, 0⟩,
     .mma none ⟨0, 0, 0, 0, 1⟩, .mmat none ⟨0, 0, 0, 0, 1⟩, .mdual none ⟨0, 0, 63, 0, 0⟩, .mdual none ⟨0, 0, 0, 0, 1⟩,
     .azero none ⟨0, 1, 0, 0, 0⟩, .ald none ⟨0, 1, 0, 0, 0⟩, .ast none ⟨0, 0, 0, 0, 2⟩, .ascl none ⟨0, 0, 1, 0, 0⟩,
     .aread none ⟨0, 1, 0, 0, 0⟩, .mwait none ⟨1, 0, 0, 0, 0⟩] = true := by decide

/-- R255, R277, Table 15-3, R298 to R301: the fields of the TH, SY and SYS layouts. -/
theorem test_ill_system : allIll
    [.stream none ⟨0, 0, 0, 0⟩, .stream none ⟨0, 0, 0, 9⟩, .tmat none ⟨0, 0, 0, 1⟩, .tmat none ⟨0, 1, 0, 0⟩, .tread none ⟨0, 0, 1, 0⟩,
     .tread none ⟨61, 0, 0, 0⟩, .tfill none ⟨0, 0, 0, 1⟩, .bar none ⟨0, 0, 8⟩, .bar none ⟨1, 0, 1⟩, .barw none ⟨0, 0, 256⟩,
     .barw none ⟨0, 1, 0⟩, .yield none ⟨0, 0, 1⟩, .aflush none ⟨1, 0, 0⟩, .wlpush none ⟨0, 1, 0⟩, .wlquiet none ⟨0, 0, 256⟩,
     .wlpop none ⟨0, 0, 256⟩, .waitwp none ⟨0, 0, 64⟩, .chapp none ⟨0, 0, 1⟩, .trap none ⟨1, 0⟩, .brk none ⟨1, 0⟩, .tret none ⟨0, 1⟩,
     .csrr none ⟨0, 0⟩, .csrw none ⟨0, 4⟩, .getclk none ⟨0, 2⟩] = true := by decide

/-- Those words that break a condition decode to the reserved-field refusal, not to a neighbour. -/
theorem test_ill_words_refused :
    [0x00030000#32, 0xF0800001#32, 0xD0000008#32, 0xF1000000#32].map (fun w => decode w 0) = [.reserved, .reserved, .reserved, .reserved] := by
  rfl

/-! ### A small machine: one launch, one team of one wave, one thread of it in the issuing sheaf -/

/-- A page of 64 KiB of plain memory at VA 0x10000. -/
def pge : Page := { asid := 1, va := 0x10000, pa := 0x20000, bits := 16 }
/-- A launch that is admitted, with one work list. -/
def lau : Launch :=
  { src := .slot 0 0 0 0, nm := false, asid := 1, vf := 0, record := 0, stage := .admitted, team0 := 1, teams := 1,
    lists := [[(7, [0, 0, 0, 0])]], wlCap := 2, wlBase := 1 }
/-- Its team, on core 0. -/
def tem : Team :=
  { launch := 1, idx := 0, asid := 1, vf := 0, die := 0, core := some 0, place := .active, frame := some 0, waves := 1, spb := 4, acc := 4,
    started := true }
/-- A thread whose v8:v9 is the page's address. -/
def thd : Thread :=
  { stat := .inSheaf, pc := 0x1000, regs := (upto 64).map (fun i => (i, .live (if i = 8 then 0x10000 else if i = 9 then 0 else 5))) }
/-- The sheaf of the thread. -/
def shf : Sheaf := { core := 0, team := 1, pc := 0x1000, tids := [1024] }
/-- The state: thread 0 of team 1 issues; s0 is the page's address. -/
def one : State :=
  { next := 100, sheaves := [shf], teams := [(1, tem)], waves := [(32, { s := [(0, 0x10000), (1, 1)] })], threads := [(1024, thd)],
    launches := [(1, lau)], execs := [(0, { bankTeam := some 1 })], dies := [(0, { mtlb := [{ asid := 1, page := pge }] })] }
/-- The same with other registers in the thread. -/
def withRegs (f : Nat → W32) : State := { one with threads := [(1024, { thd with regs := (upto 64).map (fun i => (i, .live (f i))) })] }
/-- The same with other uniform registers. -/
def withUni (l : Tbl W64) : State := { one with waves := [(32, { s := l })] }
/-- A plain ALU instruction's fields: v0 from v2 and v4. -/
def alu : Alu := ⟨0, false, 2, false, 4, false⟩
/-- A memory instruction's fields: v0, base v8:v9. -/
def mem : Sys2Proof.Mem := ⟨0, false, 8, false, 0⟩

/-! ### Hypotheses of the lane, uniform and control statements -/

/-- IntegerOperations, DivisionAndComparison, FloatOperations, Conversions, Intervals. -/
theorem witness_lane : Issues one shf ∧ ∃ k ∈ shf.active, (two alu 12 (fun x y => x + y) (one.lane shf k false)).trap = none := by decide
/-- Division by 0 where IDZ is 0: the lane does not trap. -/
theorem witness_divide_by_zero :
    Issues (withRegs (fun _ => 0)) shf ∧ ∃ k ∈ shf.active, (divided alu 12 false ((withRegs (fun _ => 0)).lane shf k false)).trap = none := by decide
/-- FloatOperations, the corner clauses: NaN, infinities, infinity and zero, zero by zero, a finite value by zero, and a third operand that is NaN or infinite. -/
theorem witness_float_corners :
    (decodeVal 1 0x7FC00000).isNan = true ∧ decodeVal 1 0x7F800000 = .inf false ∧ decodeVal 1 0xFF800000 = .inf true ∧
    (decodeVal 0 0x7FF8000000000000).isNan = true ∧ decodeVal 2 0x7C00 = .inf false ∧ (∃ e, decodeVal 1 0 = .fin false 0 e) ∧
    ∃ m e, decodeVal 1 0x3F800000 = .fin false (m + 1) e := by
  refine ⟨by decide, by decide, by decide, by decide, by decide, ⟨_, rfl⟩, _, _, rfl⟩
/-- Conversions: a finite value of the first and of the last format. -/
theorem witness_rounding : (∃ m e, decodeVal 0 0 = .fin false m e) ∧ ∃ m e, decodeVal 8 15 = .fin true m e := ⟨⟨_, _, rfl⟩, _, _, rfl⟩
/-- Intervals: the least and the greatest set. -/
theorem witness_hull : (0 : Nat) < 2 ^ 16 ∧ 2 ^ 64 - 1 < 2 ^ 64 := by decide
/-- UniformOperations and the uniform part of ControlRegisters. -/
theorem witness_uniform : Issues one shf ∧ ∀ k ∈ shf.active, (tget one.waves (wkOf k)).isSome = true := by decide
/-- ControlRegisters: `c.age` at supervisor level. -/
theorem witness_age : let s : State := { one with threads := [(1024, { thd with sup := true })] }
    Issues s shf ∧ shf.active = [1024] ∧ (s.thread 1024).sup = true := by decide
/-- Branches: one next PC for all; and two threads of different waves that go two ways. -/
theorem witness_branch : Issues one shf ∧ shf.trapped = [] ∧ (∀ k ∈ shf.active, (tget one.waves (wkOf k)).isSome = true) ∧
    (∀ k ∈ shf.active, ((one.lane shf k false).rd 8 false 13 64).2.trap = none) := by decide
/-- Branches: two threads, of which one's p0 is 1. -/
theorem witness_branch_splits :
    let h : Sheaf := { shf with tids := [1024, 1025] }
    let s : State := { one with sheaves := [h], threads := [(1024, thd), (1025, { thd with p := 1 })] }
    Issues s h ∧ h.trapped = [] ∧ (∀ k ∈ h.active, (tget s.waves (wkOf k)).isSome = true) ∧
      ∃ j ∈ h.active, ∃ k ∈ h.active, (s.thread j).p.getLsbD 0 ≠ (s.thread k).p.getLsbD 0 := by decide
/-- Branches, `exit`: no rendezvous latch is held, and the thread is the last of its wave and its team. -/
theorem witness_exit : (∀ k ∈ shf.active, (one.core (one.coreOf (tkOf k))).gangs = []) ∧ (∀ k ∈ shf.active, ∀ j ∈ one.liveOf (wkOf k), j ∈ shf.active) ∧
    (∀ k ∈ shf.active, ∀ j ∈ one.teamLive (tkOf k), j ∈ shf.active) ∧ (tget one.waves 32).isSome = true ∧ (tget one.teams 1).isSome = true := by decide

/-! ### Hypotheses of the memory statements -/

/-- The thread issues alone. -/
theorem witness_solo : Solo one shf 1024 := by decide
/-- LoadsAndStores: the address in v8:v9 names an element of the page. -/
theorem witness_load :
    let r := readMem none mem (one.lane shf 1024 false)
    r.2.trap = none ∧ (one.reachOf (one.asidOf 1024) r.1.ea r.1.base false false).1 = .ok (.pkg 0, pge) ∧
    ∃ e, ((one.reachOf (one.asidOf 1024) r.1.ea r.1.base false false).2.place pge r.1.ea r.1.base r.1.extra
      (fmtWidth (accessTy pge false false 31).1) false false 0).1 = .ok e := by
  refine ⟨by decide, rfl, _, rfl⟩
/-- LoadsAndStores: a store to it. -/
theorem witness_store :
    let r := readMem none mem (one.lane shf 1024 false)
    let ty := (accessTy pge false true 31).1
    let d := r.2.rdVd mem.vd mem.nw (if fmtWidth ty = 64 then 64 else 32)
    d.2.trap = none ∧ (one.reachOf (one.asidOf 1024) r.1.ea r.1.base false true).1 = .ok (.pkg 0, pge) ∧ pge.blk = 0 ∧
    ∃ e, ((one.reachOf (one.asidOf 1024) r.1.ea r.1.base false true).2.place pge r.1.ea r.1.base r.1.extra (fmtWidth ty) false true 1).1 = .ok e := by
  refine ⟨by decide, rfl, by decide, _, rfl⟩
/-- LoadsAndStores: an address that no page maps. -/
theorem witness_fault :
    let s := withRegs (fun _ => 0)
    let r := readMem none mem (s.lane shf 1024 false)
    Solo s shf 1024 ∧ (s.thread 1024).sup = false ∧ r.2.trap = none ∧ ∃ x, (s.reachOf (s.asidOf 1024) r.1.ea r.1.base false false).1 = .error x := by
  refine ⟨by decide, by decide, by decide, _, rfl⟩
/-- LoadsAndStores: the same of a store with a type, an atomic and a `red`. -/
theorem witness_write_faults :
    let s := withRegs (fun _ => 0)
    let m : Option ModW := some { bare with ty := 12 }
    let a : Alu := ⟨0, false, 8, false, 4, false⟩
    tyCode m ≠ 31 ∧ ((readMem m mem (s.lane shf 1024 false)).2.rdVd 0 false 32).2.trap = none ∧ (readAtom m a 12 32 false (s.lane shf 1024 false)).2.trap = none ∧
    (∃ x, (s.reachOf (s.asidOf 1024) 0 0 false true).1 = .error x) ∧ ∃ x : AccFault, (s.reach (s.asidOf 1024) 0 true).1 = .error x.kind := by
  refine ⟨by decide, by decide, by decide, ⟨_, rfl⟩, ⟨_, 0, 0⟩, rfl⟩
/-- ScratchpadAccesses: offsets 0 and the last word of the team's four banks. -/
theorem witness_scratchpad :
    (∀ o ∈ [0, 0xFFFC], let s := withRegs (fun _ => BitVec.ofNat 32 o)
      let r := readSp mem (s.lane shf 1024 false)
      Solo s shf 1024 ∧ r.2.trap = none ∧ r.1.offset = o ∧ o % 4 = 0 ∧ o < 2 ^ 20 ∧ o / 0x4000 < s.spbOf 1 ∧ (loadOrd none).1 = .rlx ∧ s.spPoisoned 1 = [] ∧
        s.stationOf 1 (o / 0x4000) = none ∧ (storeOrd none).1 ≠ .sc ∧ (r.2.rdVd 0 false 32).2.trap = none) := by decide
/-- ScratchpadAccesses: offsets off alignment, past the banks and past the scratchpad, without a trap vector. -/
theorem witness_scratchpad_traps :
    (∀ o ∈ [0xFFFD, 0x10000, 0x100000], let s := withRegs (fun _ => BitVec.ofNat 32 o)
      let r := readSp mem (s.lane shf 1024 false)
      Solo s shf 1024 ∧ (s.thread 1024).sup = false ∧ bitAt (s.trapRegs 1).tvec.toNat 0 = false ∧ r.2.trap = none ∧ r.1.offset = o ∧
        (o % 4 ≠ 0 ∨ 2 ^ 20 ≤ o ∨ s.spbOf 1 ≤ o / 0x4000)) := by decide
/-- ScratchpadAccesses: a bank that a valid station occupies. -/
theorem witness_scratchpad_station :
    let s : State := { withRegs (fun _ => 0) with teams := [(1, { tem with stations := [1] })] }
    Solo s shf 1024 ∧ s.stationOf 1 0 ≠ none ∧ (readSp mem (s.lane shf 1024 false)).1.offset = 0 := by decide
/-- PrefetchesAndUniformAccesses: operands that do not trap; a fence of a scope wider than `.wave`, of one order and of two. -/
theorem witness_prefetch : (readMem none mem (one.lane shf 1024 false)).2.trap = none ∧ (fenceOrd none).2.2.1 ≠ 1 ∧ (fenceOrd none).1 ≠ .acqrel ∧
    (fenceOrd (some { bare with ord := 4 })).1 = .acqrel := by decide
/-- PrefetchesAndUniformAccesses: s0 names an element, 0 does not. -/
theorem witness_uniform_access :
    let o : MemOps := { a := 0x10000, d := 0 }
    (one.reachOf (one.asidOf 1024) o.ea o.base false false).1 = .ok (.pkg 0, pge) ∧ o.ea % 8 = 0 ∧ pge.blk = 0 ∧
    (∃ e, ((one.reachOf (one.asidOf 1024) o.ea o.base false false).2.place pge o.ea o.base o.extra 64 false false 5).1 = .ok e) ∧
    (one.reachOf (one.asidOf 1024) o.ea o.base false true).1 = .ok (.pkg 0, pge) ∧
    (∃ e, ((one.reachOf (one.asidOf 1024) o.ea o.base false true).2.place pge o.ea o.base o.extra 64 false true 5).1 = .ok e) ∧
    ∃ x, ((withUni []).reachOf 1 0 0 false false).1 = .error x := by
  refine ⟨rfl, by decide, by decide, ⟨_, rfl⟩, rfl, ⟨_, rfl⟩, ⟨_, rfl⟩⟩
/-- AtomicsAndReductions: an aligned element of a page of the type, with and without DET. -/
theorem witness_atomic :
    let a : Alu := ⟨0, false, 8, false, 4, false⟩
    let r := readAtom none a 12 32 false (one.lane shf 1024 false)
    r.2.trap = none ∧ (one.reach (one.asidOf 1024) r.1.ea true).1 = .ok (.pkg 0, pge) ∧ atomPageOk pge 12 = true ∧ r.1.ea % 4 = 0 ∧ one.isDet 1 = false ∧
    pge.cc ≤ 1 ∧ isRaw pge = true ∧
    (∃ e, ((one.reach (one.asidOf 1024) r.1.ea true).2.place pge r.1.ea r.1.ea 0 32 (!pge.map) true 2).1 = .ok e) ∧
    ∃ e, ((one.reach (one.asidOf 1024) r.1.ea true).2.place pge r.1.ea r.1.ea 0 32 (!pge.map) true 3).1 = .ok e := by
  refine ⟨by decide, rfl, by decide, by decide, by decide, by decide, by decide, ⟨_, rfl⟩, _, rfl⟩
/-- AtomicsAndReductions: a team of a launch with DET. -/
theorem witness_atomic_det : ({ one with teams := [(1, { tem with det := true })] } : State).isDet 1 = true := by decide

/-- LoadsAndStores: an address in another package, of a load and of a store. -/
theorem witness_far :
    let s : State := { withRegs (fun i => if i = 9 then 0x4000 else 0) with hub := { fabSize := 2 }, vfs := [(0, { en := true, negd := true, vfAsid := 0x10001, feat := [(0, 0x3FF)] })] }
    let r := readMem none mem (s.lane shf 1024 false)
    Solo s shf 1024 ∧ r.2.trap = none ∧ (s.reachOf (s.asidOf 1024) r.1.ea r.1.base false false).1 = .ok (.other 1, farPage 1) ∧
    (s.reachOf (s.asidOf 1024) r.1.ea r.1.base true false).1 = .ok (.other 1, farPage 1) ∧
    (s.reachOf (s.asidOf 1024) r.1.ea r.1.base false true).1 = .ok (.other 1, farPage 1) ∧ (r.2.rdVd 0 false 32).2.trap = none :=
  ⟨by decide, by decide, rfl, rfl, rfl, by decide⟩

/-! ### Hypotheses of the wave and matrix statements -/

/-- A thread that waits at a rendezvous. -/
def rdv : Thread := { thd with stat := .rendezvous, kept := some { pc := 0x1000 } }
/-- Wave 0 of team 1, of two threads, meets; s0 is the page's address, s1 is it too and s4 what is given. -/
def meet (s4 : W64) : State :=
  { one with sheaves := [{ shf with team := 32, tids := [] }], threads := [(1024, rdv), (1025, rdv)],
             waves := [(32, { s := [(0, 0x10000), (1, 0x10000), (4, s4)] })] }
/-- Fields of a matrix instruction over s0, s4, station 0 and tile 0. -/
def mx : Mx := ⟨0, 0, 0, 4, 0⟩

/-- RendezvousWaits: another lane of the wave is still to come; a fence of `.wave` scope. -/
theorem witness_rendezvous :
    let s : State := { one with threads := [(1024, thd), (1025, { thd with stat := .ready })] }
    Solo s shf 1024 ∧ (s.thread 1024).sup = false ∧ (s.thread 1024).poison = 0 ∧ (s.thread 1024).lut = false ∧
    (∃ j ∈ s.liveOf (wkOf 1024), j ≠ 1024 ∧ (s.thread j).stat ≠ .rendezvous) ∧
    (fenceOrd (some { bare with sco := 1 })).2.2.1 = 1 ∧ (fenceOrd (some { bare with sco := 1 })).2.2.2 = false := by decide
/-- Permutations, Reductions, BlockConversion, WaveFence, AccumulatorsChange, MatrixWait. -/
theorem witness_meeting : Meeting (meet 0) 32 ∧ (tget (meet 0).waves 32).isSome = true := ⟨⟨⟨_, rfl, rfl, rfl⟩, by decide, by decide⟩, rfl⟩
/-- A team of two waves. -/
def meet2 (s4 : W64) : State := { meet s4 with teams := [(1, { tem with waves := 2 })] }
/-- Gangs: a value with a reserved bit; values that form none; a gang of waves 0 and 1 of a team of two, with the latch empty. -/
theorem witness_gang :
    ((8 : W64) &&& 0x3FFFFFFF7 ≠ 8 ∧ bitAt ((meet 8).trapRegs 1).tvec.toNat 0 = false ∧ (∀ k ∈ (meet 8).liveOf 32, ((meet 8).thread k).sup = false)) ∧
    ((1 : W64) &&& 0x3FFFFFFF7 = 1 ∧ 1 % 8 < 2 ∧ (7 : W64) &&& 0x3FFFFFFF7 = 7 ∧ 6 < 7 % 8) ∧
    ((0x202 : W64) &&& 0x3FFFFFFF7 = 0x202 ∧ 0x202 % 8 = 2 ∧ (upto 2).map (fun i => 0x202 / 2 ^ (4 + 5 * i) % 32) = [0, 1] ∧ waveIdx 32 = 0) ∧
    tgetD ((meet2 0x202).wave 32).s 4 0 = 0x202 ∧ ((meet2 0x202).core ((meet2 0x202).coreOf 1)).gangs = [] :=
  ⟨by decide, by decide, by decide, by decide, by decide⟩
/-- The page, of binary32, in the translations of the die. -/
def fpge : Page := { pge with fmt := 1 }
/-- The state with it, and with a station of one row and one column. -/
def meetF (s4 : W64) : State :=
  { meet s4 with dies := [(0, { mtlb := [{ asid := 1, page := fpge }] })], teams := [(1, { tem with stations := [0x10001] })] }
/-- Stations: one row and one column at bank 0 from the page; and no user of its handle. -/
theorem witness_station :
    let s : State := { meetF 0 with teams := [(1, tem)] }
    s.banksHere 1 = true ∧ s.products 1 = [] ∧ s.latchUses 1 0 = false ∧ bitAt (s.station 1 0).toNat 2 = false ∧
    (s.mxBase (s.asidOf ((s.liveOf 32).headD 0)) 0x10000).1 = .ok fpge ∧ stBanks 1 0 false 1 1 = 1 ∧ 1 ≤ s.spbOf 1 ∧ fpge.blk < 4 ∧
    (∀ j, j < 8 → j ≠ 0 → bitAt (s.station 1 j).toNat 0 = false) ∧
    ∃ es, ((s.mxBase (s.asidOf ((s.liveOf 32).headD 0)) 0x10000).2.elemsAt fpge 0x10000 [0] 6).1 = .ok es :=
  ⟨by decide, by decide, by decide, by decide, ok_is (by decide +kernel), by decide, by decide, by decide, by decide, ok_of (by decide +kernel)⟩
/-- ProductsStart: a station of one row and one column, and the three products over it, as far as their operands. -/
theorem witness_product :
    bitAt (flCode none) 0 = false ∧ ¬ 6 < ((meetF 0).wave 32).gang.toNat % 8 ∧ (meetF 0).banksHere 1 = true ∧
    bitAt ((meetF 0).station 1 0).toNat 0 = true ∧ bitAt ((meetF 0).station 1 0).toNat 2 = false ∧ (meetF 0).products 1 = [] ∧
    ∀ x ∈ [(meetF (2 ^ 38)).mmaSpec mx false 32 1, (meetF (2 ^ 38)).mmaSpec mx true 32 1, (meetF 1).mdualSpec mx 32 1],
      x.bad = false ∧ ((meetF 0).prodPages 1 1 x.parts).1.2 = (false, none) := by decide +kernel
/-- ProductsStart: its operand's elements, of a part of one place. -/
theorem witness_product_elements (s : State) : ∃ es,
    (s.prodElems 1 [{ tile := 0, cols := 1, len := 1, kg := 4, page := fpge, va := 0x10000, rs := 1, ks := 1 }]).1 = .ok es :=
  ok_of (by rfl)
/-- AccumulatorsChange: tiles 0 to 3 and no product; the last element and registers of `aread`. -/
theorem witness_accumulators :
    (meet 0).banksHere 1 = true ∧ (∃ x, tget (meet 0).teams 1 = some x ∧ 0 + 4 ≤ x.acc ∧ 3 + 1 ≤ x.acc ∧ x.acc ≤ 16) ∧ (meet 0).products 1 = [] ∧
    (meet 0).accOfTeam 1 = [] ∧ 127 % 128 + 1 ≤ 128 ∧ 63 + 1 ≤ 64 ∧ (meet 0).rowPoisonOf 1 0 = 0 := by
  exact ⟨by decide, ⟨tem, rfl, by decide⟩, by decide, by decide, by decide, by decide, by decide⟩
/-- AccumulatorsMove: each of the tile's elements of one row lies in the page, read or written. -/
theorem elements_move (write : Bool) : ∀ i, i < 4096 →
    let v := (0x10000 + accDisp false 0 (i / 128) (i % 128)) % 2 ^ 57
    (meetF 0).reach 1 v write = (.ok (.pkg 0, fpge), meetF 0) ∧ ∃ e, (meetF 0).place fpge v v 0 32 false write accMx = (.ok e, meetF 0) := by
  have h : ∀ j, j < 128 → ((meetF 0).vaTarget 1 (0x10000 + 4 * j)).toOption = some (.pkg 0) ∧
      ((meetF 0).pageOf 0 1 (0x10000 + 4 * j)).toOption = some fpge ∧
      (locate fpge (0x10000 + 4 * j) (0x10000 + 4 * j) 0 32 false).toOption =
        some { pa := 0x20000 + 4 * j, bit := 8 * (0x20000 + 4 * j), width := 32 } := by decide +kernel
  intro i _
  have e : (0x10000 + accDisp false 0 (i / 128) (i % 128)) % 2 ^ 57 = 0x10000 + 4 * (i % 128) := by simp [accDisp]; omega
  obtain ⟨h1, h2, h3⟩ := h (i % 128) (Nat.mod_lt _ (by decide))
  simp only [e, State.reach, State.translate, State.place, ok_is h1, ok_is h2, ok_is h3]
  exact ⟨by cases write <;> rfl, _, rfl⟩
/-- A fold that adds one item each time and leaves the rest. -/
theorem fold_same {β γ σ : Type} (f : List β × Option γ × σ → Nat → List β × Option γ × σ) (s : σ) (l : List Nat)
    (h : ∀ i ∈ l, ∀ es, ∃ e, f (es, none, s) i = (e :: es, none, s)) : ∀ es, ∃ es', l.foldl f (es, none, s) = (es', none, s) := by
  induction l with
  | nil => exact fun es => ⟨es, rfl⟩
  | cons i l ih =>
    intro es
    obtain ⟨e, he⟩ := h i (List.mem_cons_self ..) es
    rw [List.foldl_cons, he]
    exact ih (fun j hj => h j (List.mem_cons_of_mem _ hj)) _
/-- AccumulatorsMove: the tile's elements, with pitch 0. -/
theorem witness_tile (write : Bool) : ∃ es, ((meetF 0).accElems 1 0x10000 0 false write).1 = .ok es := by
  rw [State.accElems]
  have hl : ∀ i ∈ upto 4096, i < 4096 := fun i hi => by simpa [upto] using hi
  generalize upto 4096 = l at hl ⊢
  rw [if_neg (by decide), (fold_same _ _ l ?_ []).choose_spec]
  · exact ⟨_, rfl⟩
  · intro i hi es
    obtain ⟨h1, e, h2⟩ := elements_move write i (hl i hi)
    simp only [h1, h2]
    exact ⟨_, rfl⟩
/-- AccumulatorsMove: nothing keeps the read back. -/
theorem witness_accumulators_move :
    (∃ x, tget (meetF 0).teams 1 = some x ∧ 0 < x.acc) ∧ (meetF 0).asidOf 1024 = 1 ∧ (∀ o ∈ (meetF 0).waveOwners 32, ((meetF 0).stream o).iq = []) ∧
    (∀ l, (meetF 0).snoopsOf l false = []) ∧ (∀ l, (meetF 0).owned l = false) ∧ (meetF 0).hub.flip = none ∧ (meetF 0).mem.reduce = [] ∧
    (meetF 0).rowPoisonOf 1 0 = 0 ∧ (meetF 0).readAcc 0 fpge { pa := 0x20000, bit := 0x100000, width := 32 } = some 0 :=
  ⟨⟨_, rfl, by decide⟩, by decide, by decide, fun _ => snoops_of rfl _ _, owned_of (fun _ h => by cases h) (fun _ h => by cases h) (by decide), rfl, rfl, by decide, by decide +kernel⟩
/-- MatrixWait: nothing is left to the wave; and something is. -/
theorem witness_mwait :
    (let s := meet 0; s.products (tkOfW 32) = [] ∧ s.stationLoads = [] ∧ s.accs = []) ∧
    (let s : State := { meet 0 with stationLoads := [{ team := 1, w := 0, wk := 32, page := pge, elems := [], g := 5, pc := 0, words := 0 }] }
     Meeting s 32 ∧ ∃ x ∈ s.stationLoads, x.wk = 32) :=
  ⟨by decide, ⟨⟨_, rfl, rfl, rfl⟩, by decide, by decide⟩, by decide⟩
/-- WaveOperations: the other lane of the wave has come, and this one is the last. -/
theorem witness_last_lane :
    let w := wordsOf 0x0C0 none (.alu alu)
    let s : State := { one with threads := [(1024, thd), (1025, { rdv with kept := some { pc := 0x1000, words := w } })] }
    let t := { thd with stat := TStat.rendezvous, kept := some { pc := 0x1000, words := w } }
    Solo s shf 1024 ∧ (s.thread 1024).sup = false ∧ ((s.lane shf 1024 false).rd 2 false 12 32).2.trap = none ∧
    (((s.modThread 1024 (fun _ => t)).dropFront).cleanBins 0).meets (wkOf 1024) = true := by decide
/-- ProductsStart: an operand with blocks, whose scales come from v0. -/
theorem witness_product_rs :
    let s : State := { meet (2 ^ 42) with dies := [(0, { mtlb := [{ asid := 1, page := { pge with fmt := 4, blk := 1 } }] })],
                                          teams := [(1, { tem with stations := [0x240001] })] }
    let x := s.mmaSpec mx false 32 1
    let ps := (s.prodPages 1 4 x.parts).1
    bitAt (flCode (some { bare with fl := 1 })) 0 = true ∧ x.bad = false ∧ ps.2 = (false, none) ∧ rsBlocks true (rowPart ps.1) = 1 ∧ rsRegs 0 1 = [0] ∧
    (s.rsRead (s.liveOf 32) [0] 0x1000 0).1 = [] ∧ stFmt (s.station 1 0) = 4 := by decide +kernel

/-! ### Hypotheses of the statements on tiles, waits, work lists, chains and traps -/

/-- A mapped page of 2 MiB of one-element tiles of binary32, with its headers in the page itself. -/
def mpge : Page := { asid := 1, va := 0, pa := 0x200000, bits := 21, map := true, fmt := 1, hbase := 0x100000 }
/-- The state with it; its region entry is valid. -/
def tiles : State := { one with dies := [(0, { mtlb := [{ asid := 1, page := mpge }] })], mem := { home := [(2048, 1)] } }
/-- TileEdits: one tile of the region, and every edit; counts beyond both ends. -/
theorem witness_tile_edit :
    Solo tiles shf 1024 ∧ (tiles.thread 1024).sup = false ∧ bitAt (tiles.trapRegs 1).tvec.toNat 0 = false ∧
    tiles.vaTarget 1 0x10000 = .ok (.pkg 0) ∧ tiles.regionEntry 0 1 0 = 1 ∧ (∃ ts, (tiles.tilesOf 1 0 4 0 0x4000 1).1 = .ok ts ∧ ts.map (·.page) = [mpge]) ∧
    (∀ x ∈ ([(0, 0), (1, 0), (2, 0), (3, 0xBA9876543210), (4, 0)] : List (Nat × W64)), (match editOf x.1 x.2 with | some e => e.ok 0 1 | none => false) = true) := by
  exact ⟨by decide, by decide, by decide, rfl, by decide, ⟨_, rfl, by decide⟩, by decide⟩
/-- HeaderReadAndStream: the header of the tile. -/
theorem witness_header : (tiles.translate 1 0x10000 false false).1 = .ok mpge ∧ mpge.map = true ∧
    ∃ r, ((tiles.translate 1 0x10000 false false).2.withHeader (tileAt mpge 0x10000) false).1 = .ok r := ⟨rfl, rfl, _, rfl⟩
/-- BarriersWait: level 0, the highest of the launch, and 1 above it. -/
theorem witness_barrier :
    Solo one shf 1024 ∧ (one.thread 1024).sup = false ∧ tget one.teams (tkOf 1024) = some tem ∧ tget one.launches tem.launch = some lau ∧ lau.top = 0 ∧
    bitAt (one.trapRegs 1).tvec.toNat 0 = false := by decide
/-- WaitsBegin, `waitseq`: an aligned word of the page; an address off alignment; a launch without DET (and `witness_atomic_det` with it). -/
theorem witness_waiting : 0x10000 % 8 = 0 ∧ (one.reach (one.asidOf 1024) 0x10000 false).1 = .ok (.pkg 0, pge) ∧ 0x10001 % 8 ≠ 0 ∧ one.isDet 1 = false :=
  ⟨by decide, rfl, by decide, by decide⟩
/-- The launch with one work list of room for `cap` items. -/
def listed (cap : Nat) (items : List (W64 × List Nat)) (ctl : W64) : State :=
  { one with launches := [(1, { lau with ctl := ctl, lists := [items], wlCap := cap })] }
/-- WorkLists, WorkListsTake, WorkListTraps: list 0 of one list with room for one more, with DET too; empty; with an item; full; and list 1 that the launch has not. -/
theorem witness_lists :
    (∀ c ∈ ([0x100000000, 0x100000008] : List W64), let s := listed 2 [(7, [0, 0, 0, 0])] c
      Solo s shf 1024 ∧ ∃ l, tget s.launches 1 = some l ∧ l.wln = 1 ∧ l.wln ≤ l.lists.length ∧ (l.items 0).length + l.heldOn 0 + 1 = l.wlCap ∧
        l.det = bitAt c.toNat 3) ∧
    (listed 2 [] 0x100000000).launches.map (·.2.lists) = [[[]]] ∧ (listed 1 [(7, [0, 0, 0, 0])] 0x100000000).launches.map (·.2.wlCap) = [1] := by
  refine ⟨fun c hc => ?_, by decide, by decide⟩
  rcases List.mem_cons.1 hc with rfl | hc
  · exact ⟨by decide, _, rfl, by decide⟩
  · obtain rfl := List.mem_singleton.1 hc
    exact ⟨by decide, _, rfl, by decide⟩
/-- A control block of a kind at the page's start, and an entry of the kind 64 bytes on, of size code 1. -/
def chainCells (kind : W8) : List Host.Cell := (if kind = 0 then [] else [(0x20000, kind), (0x20048, kind)]) ++ [(0x20049, 1)]
/-- The state with them. -/
def chain (kind : W8) : State :=
  { withUni [(0, 0x10000), (1, 0x10040)] with
    mem := { home := chainCells kind }, dies := [(0, { mtlb := [{ asid := 1, page := pge }], view := chainCells kind })] }
/-- ChainAppends: each kind of control block with an entry of its kind. -/
theorem witness_append : ∀ kind, kind ≤ 5 →
    let s := chain (BitVec.ofNat 8 kind)
    let rd (a : Nat) : Nat := s.readNow (.uni 32) 0 0 a 8
    rd 0x20000 = kind ∧ (∀ i, i < 4 → rd (0x20020 + 8 * i) = 0) ∧ rd 0x20048 = 256 + kind ∧ rd 0x20050 < 2 ^ 63 ∧
    bodyOk kind 1 (fun o => rd (0x20040 + o)) = true ∧ memNat s.mem.home 0x20008 8 % 2 ^ 57 = 0 ∧ s.mem.reduce = [] := by decide
/-- ChainAppends: the pages of both, which the write of the link leaves; addresses off alignment without a vector. -/
theorem witness_append_page : Solo (chain 0) shf 1024 ∧ ((chain 0).thread 1024).sup = false ∧
    bitAt ((chain 0).trapRegs 1).tvec.toNat 0 = false ∧ ((chain 0).translate 1 0x10000 true false).1 = .ok pge ∧
    (((chain 0).translate 1 0x10000 true false).2.translate 1 0x10040 true false).1 = .ok pge ∧ (∀ i, i < 8 → 0x20008 + i ≠ pge.pte) ∧
    0x10040 % 64 = 0 ∧ 0x10041 % 64 ≠ 0 := ⟨by decide, by decide, by decide, rfl, rfl, by decide, by decide, by decide⟩
/-- TrapsPark: no vector and no debugger; a debugger attached. -/
theorem witness_trap_parks :
    bitAt (one.trapRegs (tkOf 1024)).tvec.toNat 0 = false ∧ bitAt (one.die 0).dbgVf.toNat (one.vfOf 1) = false ∧
    (let s : State := { one with dies := [(0, { dbgVf := 1 })], vfs := [(0, { feat := [(0, 0x200)] })] }
     Solo s shf 1024 ∧ (s.thread 1024).sup = false ∧ (bitAt (s.die (s.dieOfTeam 1)).dbgVf.toNat (s.vfOf 1) && s.feature (s.vfOf 1) 9) = true ∧
       s.sheaves.drop 1 = []) := by decide
/-- TrapsEnter: a vector, with the frame's record in the page; HandlerReturns: the record of a thread in a handler, which does not end it, and one that does. -/
theorem witness_trap_enters :
    (let s : State := { one with dies := [(0, { mtlb := [{ asid := 1, page := pge }], vfs := [(0, { tvec := 1, tctl := 1, trec := 0x10000 })] })] }
     Solo s shf 1024 ∧ (s.thread 1024).sup = false ∧ (s.trapRegs (tkOf 1024)).tvec.getLsbD 0 = true ∧ (s.translate 1 0x10000 true false).1 = .ok pge ∧
       pge.pte < pge.pa) ∧
    (∀ v ∈ ([0, 1] : List W8),
     let s : State := { one with threads := [(1024, { thd with sup := true, trapVa := some 0x10000 })],
                                 dies := [(0, { mtlb := [{ asid := 1, page := pge }], view := [(0x20028, v)], vfs := [(0, { tctl := 1 })] })] }
     Solo s shf 1024 ∧ (s.thread 1024).sup = true ∧ (s.thread 1024).trapVa = some 0x10000 ∧ (s.translate (s.asidOf 1024) 0x10000 false false).1 = .ok pge ∧
       s.readNow (.thread 1024) 0 0 0x20028 8 = v.toNat) := by
  refine ⟨⟨by decide, rfl, rfl, rfl, by decide⟩, fun v hv => ?_⟩
  rcases List.mem_cons.1 hv with rfl | hv
  · exact ⟨by decide, rfl, rfl, rfl, by decide⟩
  · obtain rfl := List.mem_singleton.1 hv
    exact ⟨by decide, rfl, rfl, rfl, by decide⟩
/-- RingLoads: an aligned image in the page, and an address off alignment. -/
theorem witness_ring_load :
    ((one.lane shf 1024 false).rd 8 false 13 64).1 = 0x10000 ∧ ((one.lane shf 1024 false).rd 8 false 13 64).2.trap = none ∧
    (∃ l, (one.ringBlocks 1 0x10000 (skImage 19)).1 = .ok l) ∧ 0x10001 % 256 ≠ 0 := by
  exact ⟨by decide, by decide, ok_of (by decide), by decide⟩
/-- A machine of two packages, and an address in the other one. -/
def apart : State :=
  { withUni [(0, 0x400000000000)] with hub := { fabSize := 2 }, vfs := [(0, { en := true, negd := true, vfAsid := 0x10001, feat := [(0, 0x3FF)] })],
                                       threads := [(1024, { thd with regs := (upto 64).map (fun i => (i, .live (if i = 9 then 0x4000 else 0))) })] }
/-- WaitsBegin, RingLoads: a word, and an image, in another package. -/
theorem witness_far_waits :
    Solo apart shf 1024 ∧ (apart.reach (apart.asidOf 1024) 0x400000000000 false).1 = .ok (.other 1, farPage 1) ∧ 0x400000000000 % 256 = 0 ∧
    ((apart.lane shf 1024 false).rd 8 false 13 64).1 = 0x400000000000 ∧ ((apart.lane shf 1024 false).rd 8 false 13 64).2.trap = none ∧
    apart.vaTarget (apart.asidOf 1024) 0x400000000000 = .ok (.other 1) := ⟨by decide, rfl, by decide, by decide, by decide, rfl⟩
/-- TrapsPark: a debugger attached, and a product of the wave that has read its operands. -/
theorem witness_break_stops_product :
    let q : Product :=
      { team := 1, waves := [32], pc := 0x1000, words := 0, tiles := [0], station := 0, pins := [], g := 5, read := true,
        parts := [{ tile := 0, cols := 1, len := 8, kg := 4, page := pge, va := 0x10000, rs := 1, ks := 1 }],
        mode := 0, hkey := 0, hctr := 0, tid40 := 0, flagTid := 1024 }
    let s : State := { one with dies := [(0, { dbgVf := 1 })], vfs := [(0, { feat := [(0, 0x200)] })], execs := [(0, { bankTeam := some 1, products := [q] })] }
    Solo s shf 1024 ∧ (s.thread 1024).sup = false ∧ (bitAt (s.die (s.dieOfTeam 1)).dbgVf.toNat (s.vfOf 1) && s.feature (s.vfOf 1) 9) = true ∧
      s.sheaves.drop 1 = [] ∧ (s.core (s.coreOf (tkOf 1024))).products = [q] ∧ q.waves.Nodup ∧ q.waves[0]? = some (wkOf 1024) ∧ q.read = true ∧
      q.step < q.steps := by decide

/-! ### Hypotheses of the statements on the ordering machine -/

/-- An access of thread 0 to the page's first word, of number 50. -/
def acc (k : AccKind) : Acc :=
  { gid := 50, owner := .thread 1024, core := 0, die := 0, team := 1, kind := k, stage := .issued, asid := 1, va := 0x10000, page := pge,
    elem := { pa := 0x20000, bit := 0x100000, width := 32 }, lines := [1024], dst := some 0 }
/-- The state with an access in the table and in the thread's queue, and v0 that awaits it. -/
def accd (a : Acc) : State := { one with accs := [(50, a)], threads := [(1024, { thd with q := { iq := [50] }, pend := [(0, 50)] })] }
/-- AccessesLeave: a store to package memory, to another package and to the host. -/
theorem witness_leave : (∀ t ∈ ([.pkg 0, .other 1, .host] : List Target), let a := { acc .store with target := t }
      Stands (accd a) 50 a ∧ a.stage = .issued ∧ (accd a).mayGo a = true ∧ (accd a).ownerTurn a = true ∧ (accd a).detTurn a = true ∧
        (accd a).tileTurn 50 = true ∧ a.held = false ∧ ((accd a).die a.die).hostChan.length < 512) ∧ (acc .store).sends = true := by decide
/-- The state with an access sent to die 0, its home. -/
def sent (a : Acc) : State :=
  { accd a with dies := [(0, { inbox := [{ gid := 50, vc := [0, 0, 0, 0] }], mtlb := [{ asid := 1, page := pge }] })] }
/-- A tile of one element of the page, with its header's address. -/
def tile1 : TileRef := { page := mpge, pay := 0x210000, index := 0x4000, hdrVa := 0x180000, hdr := 0x380000 }
/-- WritesAreNumbered: a store, a `red` and an `.unp` atomic. -/
theorem witness_numbered : ∀ k ∈ ([.store, .red, .atomic] : List AccKind), let a := { acc k with stage := .sent, use := if k = .atomic then .unp else .none }
    ((sent a).die 0).inbox[0]? = some ⟨50, [0, 0, 0, 0]⟩ ∧ Stands (sent a) 50 a ∧ a.more = [] ∧ Unhindered (sent a) 0 a ∧ a.elem.tile = none ∧
      a.page.pte = 0 := by decide
/-- WritesAreNumbered: an edit that composes with the header of its tile, which is valid. -/
theorem witness_numbered_edit :
    let hdr : Hdr := { kind := 0, rnd := 0, pc := 0, pb := identPb, a := 0, b := 0, lo := 0, hi := 0, ver := 0, lk := false, rsv := 0 }
    let a : Acc := { acc .edit with stage := .sent, elem := { (acc .edit).elem with tile := some tile1 } }
    let s : State := { sent a with mem := { home := (hdrCells tile1 hdr).filter (fun c => c.2 ≠ 0) } }
    Unhindered s 0 a ∧ ((s.die 0).inbox[0]? = some ⟨50, [0, 0, 0, 0]⟩ ∧ Stands s 50 a ∧ editOf 0 0 = some (.fill 0)) ∧
      (readHdr s.homeByte tile1).valid 0 1 = true ∧ (compose (readHdr s.homeByte tile1) 0 (.fill 0)).isSome = true := by decide
/-- WritesAreApplied: the next write of home 0, whose counts the die has reached; a line of memory; a restore owed. -/
theorem witness_applied :
    (let w : Wr := { home := 0, num := 1, vc := [1, 0, 0, 0], content := [.cells [(0x20000, 7)]], lines := [1024], gid := none }
     let s : State := { one with dies := [(0, { aq := [w] })] }
     (s.die 0).aq.find? (fun w => w.home = 0) = some w ∧ (s.die 0).mayApply w = true) ∧
    paOk (0 * lineBytes) = true ∧ Memory.wf one.mem = true ∧
    (let s : State := { one with mem := { restores := [(1024, 0)] } }
     s.mem.restores[0]? = some (1024, 0) ∧ s.queuesOpen 0 = true ∧ s.writeStall [1024] s.next = false ∧ s.snoopsOf [1024] true = [] ∧ s.mem.reduce = [] ∧
       Memory.wf s.mem = true) := by decide
/-- LoadsPerform: a load at the die clock, of one register and of two. -/
theorem witness_load_performs : ∀ w ∈ [false, true], let a := { acc .load with wide := w }
    let s := accd a
    Stands s 50 a ∧ s.loadApart 50 = false ∧ s.mayGo a = true ∧ s.lineStall a.lines 50 = false ∧ s.snoopsOf a.lines false = [] ∧ a.elem.tile = none ∧ a.page.cc ≠ 2 ∧
    s.mem.reduce = [] ∧ Memory.wf s.mem = true ∧ (s.thread 1024).stat ≠ .parked ∧ tget (s.thread 1024).pend 0 = some 50 ∧
    (a.loadValue ((s.die a.die).byte (s.loadTime a 0)) (s.ownStores a.owner a.target ++ s.pathStores a)).isSome = true := by decide
/-- StoresAreForwarded: a store on the path of cluster 0, for each end of the cluster. -/
theorem witness_forward : let a := { acc .store with page := { pge with cc := 3 } }
    ((accd a).path 0)[0]? = some a ∧ Stands (accd a) a.gid a ∧ (∀ core, core < 4 → clusterOf core = 0) ∧ a.deliv = [] := by decide
/-- AtomicsPerform: an atomic of a thread; and a `.qnt` one with another of a second thread. -/
theorem witness_atomic_performs :
    (let a := acc .atomic
     Stands (accd a) 50 a ∧ a.held = false ∧ a.weak = false ∧ a.use ≠ .spc ∧ (accd a).mayGo a = true ∧ Unhindered (accd a) 0 a ∧ a.elem.tile = none ∧
       tget ((accd a).thread 1024).pend 0 = some 50 ∧ a.elem.width = 32 ∧ fmtWidth a.ty = 32) ∧
    (let a := { acc .atomic with use := .qnt }
     let b := { a with gid := 51, owner := .thread 1025 }
     let t (g : Nat) : Thread := { thd with q := { iq := [g] }, pend := [(0, g)] }
     let s : State := { one with accs := [(50, a), (51, b)], threads := [(1024, t 50), (1025, t 51)] }
     Stands s 50 a ∧ Stands s 51 b ∧ s.mayGo a = true ∧ Unhindered s 0 a ∧ s.atomReady 0 b = true ∧ tget (s.thread 1025).pend 0 = some 51) := by decide
/-- FencesComplete: a full fence of scope `.die`; and one of `.pkg`, before and after it takes the token. -/
theorem witness_fence :
    (∀ sco ∈ [4, 5], let f := { acc .fence with ord := .sc, scope := sco, dst := none }
      Stands (accd f) 50 f ∧ f.op = 0 ∧ (accd f).mayGo f = true ∧ 50 ∈ ((accd f).thread 1024).q.iq ∧ f.drains = decide (sco = 5) ∧ (accd f).hub.token = none) ∧
    (∀ d, d < nDies → vcCovers (one.vcOf d) [0, 0, 0, 0] = true) := by decide
/-- ClocksAndDrains: every die; a launch with DET at its flush point, and one whose team has ended. -/
theorem witness_drain :
    (let s : State := { one with launches := [(1, { lau with ctl := 8 })], threads := [(1024, { thd with stat := .exited })] }
     (∃ x, tget s.launches 1 = some x ∧ x.det = true ∧ x.held = [] ∧ x.stage = .admitted) ∧ s.draining 1 = [] ∧ s.flushPoint 1 8 0 = true) ∧
    (let s : State := { one with launches := [(1, { lau with ctl := 8 })], teams := [(1, { tem with det := true, place := .ended })] }
     ∀ tk ∈ s.teamsOf 1, ∀ y, tget s.teams tk = some y → y.place = .ended) := by
  refine ⟨⟨⟨_, rfl, by decide⟩, by decide, by decide⟩, fun tk h y hy => ?_⟩
  obtain rfl : tk = 1 := by simpa [State.teamsOf, one, tem] using h
  cases hy; rfl

/-! ### Hypotheses of the statements on what instructions have started -/

/-- WavesMeet: a wave of two threads at a `shfl`; and one whose threads wait at two PCs. -/
theorem witness_waves_meet :
    (let s : State := { meet 0 with threads := [(1024, { rdv with kept := some { pc := 0x1000, words := wordsOf 0x0C0 none (.alu alu) } }), (1025, rdv)] }
     s.meets 32 = true ∧ s.halted 32 = false ∧ (s.liveOf 32).Pairwise (· < ·) ∧ wordsInstr (s.meetWords 32).2 = some (.shfl none alu)) ∧
    (let s : State := { meet 0 with threads := [(1024, rdv), (1025, { rdv with pc := 0x1004 })] }
     (∀ k ∈ s.liveOf 32, (s.thread k).stat = .rendezvous ∧ (s.thread k).sup = false) ∧
     (∃ j ∈ s.liveOf 32, ∃ k ∈ s.liveOf 32, (s.thread j).pc ≠ (s.thread k).pc) ∧ bitAt (s.trapRegs (tkOfW 32)).tvec.toNat 0 = false) := by decide
/-- GangsMeet: waves 0 and 1 of a team at `gang`. -/
theorem witness_gangs_meet :
    let f : Mx := ⟨0, 0, 0, 0, 0⟩
    let w := wordsOf 0x160 none (.mx f)
    let t : Thread := { thd with stat := .waiting, kept := some { pc := 0x1000, words := w } }
    let e : GangEntry := { team := 1, leader := 0, pc := 0x1000, words := w, gang := 0x202, arrived := [0, 1] }
    let s : State := { meet2 0 with threads := [(1024, t), (1056, t)], execs := [(0, { bankTeam := some 1, gangs := [e] })] }
    (s.core 0).gangs[0]? = some e ∧ wordsInstr e.words = some (.gang none f) ∧ s.teamActive 1 = true ∧ (∀ w ∈ gangWaves e.gang, w ∈ e.arrived) ∧
    (∀ w ∈ gangWaves e.gang, s.halted (32 + w) = false ∧ s.meetWords (32 + w) = (e.pc, e.words) ∧ ∀ k ∈ s.liveOf (32 + w), (s.thread k).stat ≠ .parked) := by
  decide
/-- MatrixWorkCompletes: a station load of one element. -/
theorem witness_station_load :
    let x : StationLoad := { team := 1, w := 0, wk := 32, page := fpge, elems := [(acc .load).elem], g := 50, pc := 0, words := 0 }
    let a := { acc .load with owner := .uni 32 }
    let s : State := { accd a with stationLoads := [x], threads := [(1024, thd)] }
    s.stationLoads.find? (fun y => y.team = x.team && y.w = x.w) = some x ∧ Stands s x.g a ∧ (∀ k ∈ s.liveOf 32, (s.thread k).stat ≠ .parked) ∧
    s.sharedReady a = true ∧ s.lineStall a.lines x.g = false ∧ s.snoopsOf a.lines false = [] ∧ s.mem.reduce = [] ∧
    (s.readEls a.die x.page x.elems).toBool = true ∧ memWf (s.core (s.coreOf 1)).sp = true ∧ (s.core (s.coreOf 1)).bankTeam = some 1 := by decide
/-- MatrixWorkCompletes: the last step of a product of one place; and a wait with nothing left. -/
theorem witness_product_complete :
    (let x : MxPart := { tile := 0, cols := 1, len := 1, kg := 4, page := fpge, va := 0x10000, rs := 1, ks := 1, rows := (upto 32).map (fun _ => [{ code := 0 }]) }
     let p : Product := { team := 1, waves := [32], pc := 0, words := 0, tiles := [0], station := 0, pins := [], g := 50, read := true, parts := [x], mode := 0,
                          hkey := 0, hctr := 0, tid40 := 0, flagTid := 1024 }
     let s : State := { one with execs := [(0, { bankTeam := some 1, products := [p] })] }
     (s.core 0).products[0]? = some p ∧ p.steps = p.step + 1 ∧ s.teamActive 1 = true ∧ s.coreOf 1 = 0 ∧ (s.core 0).swapping = 0 ∧ s.halted 32 = false) ∧
    (let s : State := { one with waits := [{ wk := 32, tids := [1024], pc := 0, next := 4, what := .mwait }] }
     s.waits.length = 1 ∧ s.mwaitDone 32 = true) := by decide
/-- A valid image of ring type 19: ascending points that end in infinity. -/
def image : List W8 :=
  let m := skPoints 19
  natBytes (19 + 256 * m) 32 ++ ((upto m).flatMap (fun i => natBytes (if i = m - 1 then 0x7F800000 else 0x3F800000 + i) 4))
/-- TilesAndRingsComplete: a tile instruction with no write left; a ring load of a valid image. -/
theorem witness_ring_bind :
    (let s : State := { one with waits := [{ wk := 32, tids := [1024], pc := 0, next := 4, what := .tiles [40, 41] }] }
     s.waits.length = 1 ∧ ∀ g ∈ [40, 41], tget s.accs g = none) ∧
    (let s : State := { accd (acc .load) with dies := [(0, { view := cellsAt 0x20000 image })] }
     let img := ([0x20000].flatMap (fun pa => (upto 256).map (fun k => s.viewByte 0 (pa + k)))).take (skImage 19)
     s.sharedReady (acc .load) = true ∧ s.lineStall [1024] 50 = false ∧ s.snoopsOf [1024] false = [] ∧ s.mem.reduce = [] ∧ ringOk 19 img = true) := by
  decide +kernel
/-- The thread waits. -/
def waits (ws : List Wait) (ts : List Nat) : State :=
  { one with waits := ws, threads := ts.map (fun k => (k, { thd with stat := .waiting })) }
/-- A wait of one thread of wave 0. -/
def wat (k : Nat) (f : WaitFor) : Wait := { wk := 32, tids := [k], pc := 0x1000, next := 0x1004, what := f }
/-- A wait whose arrival has counted. -/
def come (k : Nat) (f : WaitFor) (n : Nat) : Wait := { wat k f with arr := n }
/-- The entry of the barrier 0 of level 1 of the launch, at one team. -/
def entry (arrived : Nat) : BtEntry := { gid := gidOf 0 1 0 false 0, expected := 1, arrived := arrived, phase := 0 }
/-- BarriersRelease: both threads of the team at a `bar`, and the release that its domain node sends; a `barw` whose phase has ended. -/
theorem witness_barrier_release :
    (let s : State := { waits [come 1024 (.bar 1 0) 2, come 1025 (.bar 1 0) 2] [1024, 1025] with dies := [(0, { bt := [entry 1] })] }
     let f : Flit := { hdr := FHdr.bits256 { type := 0x11, dst := 0, src := 1, sdie := 0, tag := 0, core := 0, len := 0, va := 0,
                                             ops := (gidOf 0 1 0 false 0).toNat, seq := 0 }, data := [] }
     s.launchOf 1 = some lau ∧ tget s.teams 1 = some tem ∧ s.barMet 1 1 0 (s.instOf 1 32) = true ∧ s.bars = [] ∧ (∀ w ∈ s.waits, s.arriving w = false) ∧
       (∀ k ∈ s.waits.flatMap (·.tids), ((s.waits.flatMap (·.tids)).filter (· = k)).length ≤ 1) ∧
       flitOk f 0x11 = true ∧ BitVec.ofNat 64 (fhdr f).ops = gidOf lau.num 1 0 false (s.instOf 1 32)) ∧
    (let e : BtEntry := { gid := gidOf lau.num lau.teamLevel 0 true tem.idx, expected := 1, arrived := 0, phase := 1 }
     let w := come 1024 (.barw 0 1 0) 1
     let s : State := { waits [w] [1024] with dies := [(0, { bt := [e] })] }
     s.waits[0]? = some w ∧ s.arriving w = false ∧ s.btFind 0 (gidOf lau.num lau.teamLevel 0 true tem.idx) 0 = some e ∧ 0 < e.phase) := by
  decide
/-- BarriersCount: the fences are done; an arrival of one thread of two, one that completes the team, with and without an entry, and one at `barw`. -/
theorem witness_barrier_count :
    (let s := waits [wat 1024 (.bar 1 0)] [1024, 1025]
     let w := wat 1024 (.bar 1 0)
     s.waits[0]? = some w ∧ s.fencesDone w = true ∧ s.launchOf (tkOfW w.wk) = some lau ∧ tget s.teams (tkOfW w.wk) = some tem ∧
       1025 ∈ s.teamLive (tkOfW w.wk) ∧ 1025 ∉ w.tids ∧ ∀ v ∈ s.waits, v.atBar 1 0 = true → v.arr ≠ 0 → 1025 ∉ v.tids) ∧
    (∀ bt ∈ [[], [entry 0]], let w := wat 1025 (.bar 1 0)
     let s : State := { waits [w, come 1024 (.bar 1 0) 1] [1024, 1025] with dies := [(0, { bt := bt })] }
     let counted : State := { s with waits := s.waits.map (fun v => if v = w then { w with arr := 1 } else v) }
     s.waits[0]? = some w ∧ lau.teamLevel < 1 ∧ lau.dom 1 < 4 ∧ tem.die < nDies ∧ tget s.launches tem.launch = some lau ∧
       (∀ d ∈ [1, 2, 3], s.instTeams tem.launch 1 0 d = [] ∧ s.btFind d (gidOf lau.num 1 0 false 0) 0 = none) ∧
       s.instOf 1 w.wk = 0 ∧ tkOfW w.wk ∈ s.instTeams tem.launch 1 0 tem.die ∧ s.teamLive (tkOfW w.wk) ≠ [] ∧
       (∀ j ∈ s.teamLive (tkOfW w.wk), counted.hasArrived 1 0 1 j = true) ∧
       ((s.btFind tem.die (gidOf lau.num 1 0 false 0) 0).isSome = true ∨
         ((gidOf lau.num 1 0 false 0, 0) ∉ (s.die tem.die).btOut ∧ (s.die tem.die).bt.length < 4096))) ∧
    (∀ n ∈ [1, 1024], let e : BtEntry := { gid := gidOf lau.num lau.teamLevel 0 true tem.idx, expected := n, arrived := n - 1, phase := 0 }
     let w := wat 1024 (.barw 0 n 0)
     let s : State := { waits [w] [1024] with dies := [(0, { bt := [e] })] }
     w.spill = false ∧ w.tids = [1024] ∧ s.btFind tem.die (gidOf lau.num lau.teamLevel 0 true tem.idx) 0 = some e ∧ e.arrived < n) := by decide
/-- BarriersSplit: two threads of one instance at two barriers, at the lowest and the highest level. -/
theorem witness_barrier_split : ∀ lev ∈ [1, 7], let s := waits [wat 1024 (.bar lev 0), wat 1025 (.bar lev 1)] [1024, 1025]
    let live := (s.instThreads 1 lev (s.instOf lev 32)).filter (fun t => !s.exited t)
    let bs := (s.waits.filterMap s.barKey).eraseDups
    s.instStarted 1 lev (s.instOf lev 32) = true ∧ live = [1024, 1025] ∧ ∀ k ∈ live, (s.thread k).sup = false ∧ bitAt (s.trapRegs (tkOf k)).tvec.toNat 0 = false ∧
      ∃ b ∈ bs, s.barOf k = some b ∧ b ∉ s.liveBars 1 bs bs.length := by decide
/-- WaitsEnd: `waitseq` at its threshold and past its limit, `waitwp` and `wlquiet` of a list with an item, and of a launch that is quiescent. -/
theorem witness_waits_end :
    (∀ left ∈ [some 0, none], let w := wat 1024 (.waitseq 0x10000 0 0 left)
      ∃ r s1, (waits [w] [1024]).seqWord w 0x10000 0 = some (.ok r, s1) ∧ bits 0 62 0 ≤ bits r.2.1 62 0) ∧
    (let s := waits [wat 1024 (.waitwp 3 15 0 0)] [1024]
     bits 0 56 0 ≤ bits (tgetD (s.die 3).ccwp 15 0).toNat 56 0 ∧ vcCovers (s.vcOf (s.dieOfTeam 1)) (s.engine (32 * 3 + 15)).wpVc = true) ∧
    (let s := waits [wat 1024 (.wlquiet 0 0)] [1024]
     s.launchOf 1 = some lau ∧ lau.items 0 ≠ [] ∧ s.quiescent 1 { lau with lists := [[]] } = true ∧ vcCovers (s.vcOf (s.dieOfTeam 1)) lau.pushed = true) := by
  refine ⟨fun left h => ?_, by decide, by decide⟩
  rcases List.mem_cons.1 h with rfl | h
  · exact ⟨_, _, rfl, by decide⟩
  · obtain rfl := List.mem_singleton.1 h
    exact ⟨_, _, rfl, by decide⟩
/-- A read outside the package that is answered with its bytes. -/
def answered : Acc := { acc .load with block := true, applied := true, target := .other 1, cells := cellsAt 0 image }
/-- WaitsEnd, TilesAndRingsComplete: a word, and an image, that came from another package; ClocksAndDrains: an `aflush` whose atomics are drained;
FencesComplete: the acquire of an item whose push its die has applied; BarriersCount: no team on another die. -/
theorem witness_far_arrives :
    (∀ left ∈ [some 0, none], let w := { wat 1024 (.waitseq 0x10000 0 0 left) with fences := [50] }
     let s : State := { waits [w] [1024] with accs := [(50, { answered with cells := cellsAt 0 (natBytes 7 8) })] }
     s.waits[0]? = some w ∧ s.blocks w.fences = some (.ok (natBytes 7 8)) ∧ bits 0 62 0 ≤ bits (bytesNat (natBytes 7 8)) 62 0) ∧
    (let r : RingLoad := { team := 1, ctx := 3, ty := 19, die := 0, pc := 0, words := 0, pa := [], tids := [1024], far := [50] }
     let s : State := { one with ringLoads := [r], accs := [(50, answered)] }
     s.ringLoads[0]? = some r ∧ r.far ≠ [] ∧ r.ctx < 4 ∧ s.blocks r.far = some (.ok image) ∧ ringOk 19 (image.take (skImage 19)) = true) ∧
    (let w := { wat 1024 .aflush with arr := 1 }
     let s : State := { waits [w] [1024] with launches := [(1, { lau with ctl := 8 })] }
     ({ lau with ctl := 8 } : Launch).det = true ∧ ({ lau with ctl := 8 } : Launch).teamLevel = 0 ∧
       s.waits.filter (s.flushed (s.instTeamsAll 1 0 (s.instOf 0 32))) = [w]) ∧
    (let f := { acc .fence with ord := .acq, dst := none, vc := [3, 0, 0, 0] }
     let s : State := { accd f with dies := [(0, { n := [3, 0, 0, 0] })] }
     s.mayGo f = true ∧ vcCovers (s.vcOf f.die) f.vc = true ∧ f.drains = false) ∧
    ∀ d, d ≠ 0 → (waits [wat 1024 (.bar 1 0)] [1024]).instTeams 1 1 0 d = [] := by
  refine ⟨fun left h => ⟨rfl, rfl, by decide⟩, ⟨rfl, by decide, by decide, rfl, by decide +kernel⟩, by decide, by decide, fun d h => ?_⟩
  simp [State.instTeams, waits, one, tem, State.teamsOf, tget]
  omega

/-! ### Hypotheses of the statements on engines, streams and collectives -/

/-- A chain whose control block is at the page's start, with an entry 64 bytes on. -/
def link : Chain := { cb := 0x10000, asid := 1, vf := 0, next := [(0x10040, [0, 0, 0, 0])] }
/-- The state with it at engine `e`, which runs a job or none. -/
def chained (e : Nat) (j : Option Job) (next : List (Va × List Nat)) : State :=
  { one with engines := [(e, { chains := [{ link with next := next }], job := j })] }
/-- Nothing keeps the device from any line of it. -/
theorem quiet_chained {e : Nat} {j : Option Job} (next : List (Va × List Nat)) (h : ∀ x, j = some x → x.owned = []) : Quiet (chained e j next) :=
  quiet_of (fun x hx => by cases List.mem_singleton.1 hx; exact h) (fun _ h => by cases h) (by show ∀ l ∈ one.launches, l.2.owned = []; decide)
    (by show ∀ c ∈ one.execs, c.2.products = []; decide) rfl rfl (by show (upto nDies).all one.queuesOpen = true; decide) (by show one.attrBusy = false; decide)
/-- EntriesStart: an entry of zeros at a copy channel and at the top-k engine. -/
theorem witness_entry : ∀ e ∈ [0, 18], let s := chained e none link.next
    s.hub.fatal = false ∧ (s.engine e).job = none ∧ (s.engine e).pick = some (link, 0x10040, [0, 0, 0, 0], [{ link with next := [] }]) ∧
    vcCovers (s.vcOf (engDie e)) [0, 0, 0, 0] = true ∧ (∀ x ∈ s.accs, x.2.owner ≠ .engine e) ∧ (engKind e < 2 ∨ engKind e = 3) := by decide
/-- EntriesStart: what stands in the control block and the entry; an entry that no page maps. -/
theorem witness_entry_bytes : let s := chained 0 none link.next
    Quiet s ∧ ∃ cw sc, s.chainCw 0 1 0x10000 = (.ok cw, sc) ∧ (∃ h0 s1 b, sc.devRead 0 1 0x10040 32 = (.ok h0, s1) ∧
      (s1.devRead 0 1 0x10040 (64 * (at' h0.bytes 8 8 / 2 ^ 8 % 16 + 1))).1 = .ok b) ∧ ∃ k, (sc.devRead 0 1 0 32).1 = .error k :=
  ⟨quiet_chained _ (by simp), _, _, rfl, ⟨_, _, _, rfl, rfl⟩, _, rfl⟩
/-- A line for the page's first line, or for one of another package. -/
def outLine (far sent : Bool) : OutLine :=
  { wp := 0x10080, va := 0x10000, page := pge, target := if far then .other 1 else .pkg 0, lines := [1024], cells := [(0x20000, 7)], sent := sent }
/-- A job of a copy channel, or a stream's, of given lines. -/
def job (out : List OutLine) : Job :=
  { chain := 0x10000, entry := 0x10040, asid := 1, vf := 0, kind := 0, seq := 5, cw := 0x10100, out := out, owned := [], status := 0, faulted := none }
/-- LinesAreReleased: a line of a copy's, here and to another package, sent and not; and a stream's. -/
theorem witness_release :
    (∀ far ∈ [false, true], ∀ sent ∈ [false, true], let o := outLine far sent
     let s := chained 0 (some (job [o])) []
     s.hub.fatal = false ∧ (s.engine 0).job = some (job [o]) ∧ (job [o]).out = [o] ∧ (job [o]).kind = 0 ∧ (far = false → o.target = .pkg 0) ∧
       (far = true → o.target = .other 1) ∧ o.sent = sent ∧ o.mats = [] ∧ s.queuesOpen 0 = true ∧ s.mem.reduce = [] ∧ Memory.wf s.mem = true ∧
       ∀ x ∈ s.accs, x.2.owner ≠ .engine 0) ∧
    (let x : StreamJob := { sid := 5, wk := 32, tids := [1024], die := 0, asid := 1, vf := 0, dst := 0x10000, src := 0x10000, desc := 0x10040, k := 0, rnd := 0, hkey := 0, hctr := 0,
                            tid40 := 0, flagTid := 1024, gates := [], job := some (job [outLine false false]) }
     let s : State := { one with streams := [x] }
     s.streams[0]? = some x ∧ x.job = some (job [outLine false false]) ∧ s.queuesOpen 0 = true ∧ s.mem.reduce = [] ∧ Memory.wf s.mem = true) := by decide
/-- EntriesEnd: an entry that is done, with a completion word on a page and later entries in its chain; one that a fault stopped; a gather's with lines left. -/
theorem witness_entry_end : (∀ r ∈ [none, some (entryRec 3 1 0x10040 0)], let j : Job := { job [] with faulted := r, status := if r = none then 0 else 1 }
      let s := chained 0 (some j) link.next
      Quiet s ∧ (s.engine 0).job = some j ∧ s.hub.fatal = false ∧ Memory.wf s.mem = true ∧ s.mem.reduce = [] ∧ j.kind ≠ 2 ∧ s.jobDone 0 j = true ∧ j.noCw = false ∧
      (∃ c ∈ (s.engine 0).chains, c.cb.toNat = j.chain ∧ c.asid = j.asid ∧ c.next ≠ []) ∧
      ∃ u, ((r.toList.foldl (fun s x => s.queueFault 0 x) s).modEngine 0 (fun x => { x with job := none })).devWrite (.engine 0) 0 1 0x10058 (natBytes j.status 8) = (none, u) ∧
        Plainly u 1 0x10100 0 pge) ∧
    (let j : Job := { job [outLine false false] with kind := 1 }
     let s := chained 16 (some j) []
     (s.engine 16).job = some j ∧ j.out ≠ [] ∧ j.kind ≠ 0 ∧ j.kind ≠ 2 ∧ j.faulted = none) := by
  refine ⟨fun r h => ?_, by decide⟩
  rcases List.mem_cons.1 h with rfl | h
  · exact ⟨quiet_chained _ (by rintro x ⟨⟩; rfl), rfl, rfl, by decide, rfl, by decide, by decide, rfl, by decide, _, rfl, rfl, rfl, rfl⟩
  · obtain rfl := List.mem_singleton.1 h
    exact ⟨quiet_chained _ (by rintro x ⟨⟩; rfl), rfl, rfl, by decide, rfl, by decide, by decide, rfl, by decide, _, rfl, rfl, rfl, rfl⟩
/-- CollectivesMatch: a group of one rank, and of two. -/
theorem witness_collective : ∀ ranks ∈ ([[0], [0, 2048]] : List (List W64)),
    let j (w : Nat) : Job := { job [] with kind := 2, grp := 9, body := cbody 0 w 0x10000 0 ranks, inData := [1] }
    let s : State := { one with engines := [(collEng 0, { job := some (j 0) }), (collEng 1, { job := if ranks.length = 2 then some (j 0) else none })] }
    (s.engine (collEng 0)).job = some (j 0) ∧ (j 0).kind = 2 ∧ (j 0).status = 0 ∧ (j 0).faulted = none ∧ (j 0).flags = 0 ∧ s.hub.fatal = false ∧
    (∀ e, e < nDies → ∀ k, (s.engine (collEng e)).job = some k → k.turn = (j 0).turn ∧ k.body = (j 0).body) ∧
    ((s.rankData 9 0 (cjob (j 0).body).ranks).map List.length) = some ranks.length := by
  intro ranks h
  rcases List.mem_cons.1 h with rfl | h
  · exact ⟨rfl, rfl, rfl, rfl, rfl, rfl, by decide, rfl⟩
  · obtain rfl := List.mem_singleton.1 h
    exact ⟨rfl, rfl, rfl, rfl, rfl, rfl, by decide, rfl⟩
/-- CollectivesMatch: a rank of another package whose parameters differ. -/
theorem witness_collective_differs :
    let j : Job := { job [] with kind := 2, grp := 9, body := cbody 0 0 0x10000 0 [0, 1], inData := [1] }
    let p : CPar := { op := 1, ty := 1, root := 0, n := 0 }
    let s : State := { one with engines := [(collEng 0, { job := some j })], coll := [{ grp := flitGid 9, turn := 0, rank := 1, chunk := 0, data := p.bytes }] }
    (s.engine (collEng 0)).job = some j ∧ ∃ d y, s.rankData 9 0 (cjob j.body).ranks = some [d, y] ∧ y.1 ≠ d.1 := ⟨rfl, _, _, rfl, by decide⟩
/-- A stream of thread 1024 from the page's start, whose descriptor is 64 bytes on or one byte more. -/
def stream (d : Va) (j : Option Job) : StreamJob :=
  { sid := 5, wk := 32, tids := [1024], die := 0, asid := 1, vf := 0, dst := 0x10100, src := 0x10000, desc := d, k := 0, rnd := 0, hkey := 0, hctr := 0, tid40 := 0,
    flagTid := 1024, gates := [], job := j }
/-- Nothing keeps the device from any line of a state with a stream. -/
theorem quiet_stream (x : StreamJob) (hj : ∀ j, x.job = some j → j.owned = []) : Quiet ({ one with streams := [x] } : State) :=
  quiet_of (fun _ h => by cases h) (fun y hy => by cases List.mem_singleton.1 hy; exact hj) (by show ∀ l ∈ one.launches, l.2.owned = []; decide)
    (by show ∀ c ∈ one.execs, c.2.products = []; decide) rfl rfl (by show (upto nDies).all one.queuesOpen = true; decide) (by show one.attrBusy = false; decide)
/-- StreamsRun: a stream to start, whose descriptor is bad, off alignment or on no page. -/
theorem witness_stream :
    (∀ d ∈ ([0x10040, 0x10041] : List Va), let s : State := { one with streams := [stream d none] }
      Quiet s ∧ s.streams[0]? = some (stream d none) ∧ s.hub.fatal = false ∧ ∃ g, (s.devRead 0 1 d.toNat 0x20).1 = .ok g) ∧
    streamBad (stream 0x10040 none) (List.replicate 32 0) = true ∧ (let s : State := { one with streams := [stream 0 none] }; ∃ k, (s.devRead 0 1 0 0x20).1 = .error k) := by
  refine ⟨fun d h => ?_, by decide, error_of (by decide +kernel)⟩
  rcases List.mem_cons.1 h with rfl | h
  · exact ⟨quiet_stream _ (by rintro j ⟨⟩), rfl, rfl, ok_of (by decide +kernel)⟩
  · obtain rfl := List.mem_singleton.1 h
    exact ⟨quiet_stream _ (by rintro j ⟨⟩), rfl, rfl, ok_of (by decide +kernel)⟩
/-- StreamsRun: a stream that ends, with a completion word or none, or by a fault. -/
theorem witness_stream_end : ∀ cw ∈ ([0, 0x10100] : List W64), ∀ bad ∈ [false, true],
    let j : Job := { job [] with cw := cw, status := if bad then 1 else 0, faulted := if bad then some (entryRec 3 1 0x10040 0) else none }
    let s : State := { one with streams := [stream 0x10040 (some j)] }
    j.out = [] ∧ j.owned = [] ∧ vcCovers (s.vcOf 0) j.vc = true ∧ Memory.wf s.mem = true ∧ s.mem.reduce = [] ∧ j.cw.toNat % 8 = 0 ∧
      (tget s.threads 1024).isSome = true ∧ s.liveOf (wkOf 1024) ≠ [] := by
  intro cw hc bad _
  have h : cw.toNat % 8 = 0 := by rcases List.mem_cons.1 hc with rfl | h; rfl; cases List.mem_singleton.1 h; rfl
  exact ⟨rfl, rfl, rfl, rfl, rfl, h, rfl, by show one.liveOf (wkOf 1024) ≠ []; decide⟩
/-- StreamsRun: the page of its completion word. -/
theorem witness_stream_word (x : StreamJob) : Plainly ({ one with streams := [x] } : State) 1 0x10100 0 pge := ⟨rfl, rfl, rfl⟩

/-! ### Hypotheses of the statements on launches and the scheduler -/

/-- Nothing keeps the device from any line of a state made from `one`. -/
theorem quiet_one {s : State} (he : s.engines = []) (hs : s.streams = []) (hl : ∀ l ∈ s.launches, l.2.owned = []) (hx : ∀ c ∈ s.execs, c.2.products = [])
    (hf : s.hub.flip = none) (hh : s.hub.halves = []) (hq : (upto nDies).all s.queuesOpen = true)
    (ha : s.attrBusy = false := by decide) : Quiet s :=
  quiet_of (by simp [he]) (by simp [hs]) hl hx hf hh hq ha
/-- A host queue of 64 slots in the page, whose tail word is at `tail` and whose tail as last read is 1. -/
def queued (tail : W64) : State :=
  { one with vfs := [(0, { queues := [(0, { base := 0x10000, size := 64, tail := tail, en := true, asid := 1, seen := 1 })] })] }
/-- HostQueues: a slot to take; a tail word in the page, and one in the host window, with a tail that is not too far ahead and one that is. -/
theorem witness_host_queue : Quiet (queued 0x11000) ∧ ((queued 0x11000).queue 0 0).en = true ∧ ((queued 0x11000).queue 0 0).err = false ∧
    (queued 0x11000).mem.reduce = [] ∧ (∀ d, ((queued 0x11000).die d).aq.length < 2000) ∧ (queued 0x11000).hub.fatal = false ∧
    ((queued 0x11000).queue 0 0).head ≠ ((queued 0x11000).queue 0 0).seen ∧ (queued 0x11000).serves = true ∧
    vcCovers ((queued 0x11000).vcOf 0) ((queued 0x11000).queue 0 0).rel = true ∧
    (∃ g, ((queued 0x11000).devRead 0 1 (((queued 0x11000).queue 0 0).slotVa 0) 64).1 = .ok g) ∧ (∃ g, ((queued 0x11000).devRead 0 1 0x11000 8).1 = .ok g) ∧
    (queued 0x11000).vaTarget 1 0x11000 = .ok (.pkg 0) ∧
    (let s : State := { queued (2 ^ 57 - 2 ^ 44) with vfs := [(0, { en := true, vfAsid := 0x10001, feat := [(0, 32)], queues := [(0, { tail := 2 ^ 57 - 2 ^ 44, en := true, asid := 1 })] })] }
     (s.vaTarget 1 (2 ^ 57 - 2 ^ 44)).toOption = some .host) ∧ ((64 : W64) - 0).toNat ≤ 64 ∧ 64 < ((65 : W64) - 0).toNat := by
  refine ⟨quiet_one rfl rfl (by decide) (by decide) rfl rfl (by decide), by decide, by decide, rfl, fun d => ?_, rfl, by decide, by decide, by decide,
    ok_of (by decide), ok_of (by decide), rfl, by decide, by decide, by decide⟩
  by_cases h : d = 0
  · subst h; decide
  · have : (queued 0x11000).die d = {} := by simp [queued, one, State.die, tgetD, tget, Ne.symm h]
    rw [this]; decide
/-- A launch of one team not admitted yet, whose dependence word is at the page's start. -/
def fresh (st : LStage) (word : List Host.Cell) : State :=
  { one with launches := [(1, { lau with stage := st, wait := 0x10000, lists := [] })], teams := [], mem := { home := word },
             dies := [(0, { mtlb := [{ asid := 1, page := pge }], view := word })], vfs := [(0, { vfCore := [(0, 1)] })] }
/-- LaunchesBecomeTeams: the word of 0, and of bit 63; a launch that is eligible, with no other. -/
theorem witness_launch :
    (∀ w ∈ ([[], [(0x20007, 0x80)]] : List (List Host.Cell)), Quiet (fresh .taken w) ∧ (fresh .taken w).hub.fatal = false ∧
      ∃ g, ((fresh .taken w).devRead 0 1 0x10000 8).1 = .ok g ∧ at' g.bytes 0 8 = if w = [] then 0 else 2 ^ 63) ∧
    (let s := fresh .eligible []
     ∃ x, tget s.launches 1 = some x ∧ x.stage = .eligible ∧ s.affDie x = none ∧ s.vfDie x.vf 0 = true ∧ s.admitFirst 1 x = false ∧
       (s.die 0).admitted.length < 256 ∧ s.writeStall (s.wlLines x) s.next = false ∧ s.teams = []) := by
  refine ⟨fun w h => ?_, _, rfl, by decide⟩
  rcases List.mem_cons.1 h with rfl | h
  · exact ⟨quiet_one rfl rfl (by decide) (by decide) rfl rfl (by decide), rfl, _, rfl, by decide⟩
  · obtain rfl := List.mem_singleton.1 h
    exact ⟨quiet_one rfl rfl (by decide) (by decide) rfl rfl (by decide), rfl, _, rfl, by decide⟩
/-- LaunchesComplete: a launch whose team has ended; and one that is complete. -/
theorem witness_launch_complete :
    (let s : State := { one with teams := [(1, { tem with place := .ended })] }
     s.launchOver 1 lau = true ∧ (∀ d, d < nDies → s.queuesOpen d = true) ∧ lau.wln = 0) ∧
    (let s : State := { one with launches := [(1, { lau with stage := .complete })] }
     vcCovers (s.vcOf lau.die) lau.rel = true ∧ Quiet s) :=
  ⟨by decide, by decide, quiet_one rfl rfl (by decide) (by decide) rfl rfl (by decide)⟩
/-- A team that waits, started or not, of a near-memory launch or another. -/
def placing (started nm : Bool) : State :=
  { one with teams := [(1, { tem with place := .waiting, core := none, frame := none, started := started, spb := 0, acc := 0 })], threads := [], waves := [],
             launches := [(1, { lau with nm := nm, lists := [], args := [0x10000] })], vfs := [(0, { vfCore := [(0, 1)] })],
             dies := [(0, { mtlb := [{ asid := 1, page := pge }], vfs := [(0, { tctl := 0x100000000 })] })] }
/-- TeamsArePlaced: on a core, in its loft, and a block on the first sequencer of the page's stack. -/
theorem witness_placement :
    (∀ b ∈ [false, true], let s := placing b false
      s.frameOk 1 0 = true ∧ s.teamAcquired 1 = true ∧ s.mayPlace 1 0 .active = true ∧ s.placeFirst 1 0 .active = false ∧ (s.core 0).swapping = 0 ∧
      s.placeFirst 1 0 .loft = false ∧ s.teamsAt 0 .leaving = [] ∧ s.hub.fatal = false) ∧
    (let s : State := { placing true false with threads := [(1024, { thd with stat := .ready })] }
     s.frameOk 1 0 = true ∧ s.mayPlace 1 0 .loft = true ∧ s.placeFirst 1 0 .loft = false ∧ s.teamsAt 0 .leaving = []) ∧
    (let s := placing false true
     s.frameOk 1 0 = true ∧ s.teamAcquired 1 = true ∧ s.nextBlock 1 = true ∧ (∃ l, s.launchOf 1 = some l ∧ l.affinity 0 = 0x10000) ∧ s.inPackage 1 0x10000 = true ∧
       (s.translate 1 0x10000 false false).1 = .ok pge ∧ isSeq 384 = true ∧ stackOf 384 = 0 ∧ s.teamsAt 384 .active = []) := by
  refine ⟨by decide, by decide, by decide, by decide, by decide, ⟨_, rfl, by decide⟩, by decide, rfl, by decide, by decide, by decide⟩
/-- A team in the active set of core 0 and another in its loft. -/
def loft (x : Core) : State :=
  { one with teams := [(1, tem), (2, { tem with idx := 1, place := .loft, frame := some 1 })], execs := [(0, x)] }
/-- SwapsHappen: a team that waited long; an expired slice; a blocked set; a swap asked for; a set that leaves; and banks to bring back. -/
theorem witness_swap :
    (let x : Team := { tem with place := .waiting, waited := 2 ^ 24 }; x.place = .waiting ∧ 2 ^ 24 ≤ x.waited ∧ x.boosted = false) ∧
    (let s := loft { activeCycles := 2 ^ 20 }
     s.schCtl 0 % 2 ^ 32 = 2 ^ 20 ∧ s.teamsAt 0 .loft = [2] ∧ s.topPrio (s.teamsAt 0 .active) ≤ s.topPrio (s.teamsAt 0 .loft)) ∧
    (let s : State := { loft { blockedCycles := 2 ^ 8 } with threads := [(1024, { thd with stat := .parked })] }
     s.setBlocked 0 = true ∧ s.schCtl 0 / 2 ^ 32 % 2 ^ 32 ≤ (s.core 0).blockedCycles) ∧
    (let s := loft { swapDue := true }
     (∀ e ∈ s.waves, e.2.haltBit = false) ∧ (s.core 0).swapping = 0 ∧ (s.teams.map (·.1)).Nodup ∧ (∀ h ∈ s.sheaves, h.trapped = [])) ∧
    (let s : State := { one with teams := [(1, { tem with place := .leaving })] }
     s.teamsAt 0 .leaving = [1] ∧ (s.core 0).swapping = 0 ∧ (s.teams.map (·.1)).Nodup ∧ s.badFrame [1] = none ∧ s.framePa 1 = some 0 ∧ Memory.wf s.mem = true ∧
       (∀ e ∈ s.teams, e.2.waves ≤ 32) ∧ (s.threads.map (·.1)).Nodup ∧ ∀ e ∈ s.threads, (e.2.regs.map (·.1)).Nodup ∧ ∀ r ∈ e.2.regs, r.1 < 64) ∧
    (let s : State := { one with teams := [(1, { tem with spilled := true }), (2, { tem with place := .waiting })], execs := [(0, { bankTeam := some 2 })] }
     s.teamsAt 0 .active = [1] ∧ tem.banks = true ∧ (s.core 0).bankTeam = some 2 ∧ s.stationLoads = [] ∧ s.badFrame [2] = none ∧ s.framePa 2 = some 0 ∧ tem.acc ≤ 16 ∧ tem.spb ≤ 64) := by decide
/-- SheavesAreDrawn: a draw of the thread's bin, and of nothing; a switch point of a launch with DET with no current wave, and with one that yielded. -/
theorem witness_draw :
    (let s : State := { one with sheaves := [], threads := [(1024, { thd with stat := .ready })], execs := [(0, { bins := [(0, (1, 0x1000))] })], dies := [(0, { cycles := 512 })] }
     (s.core 0).swapping = 0 ∧ (s.die (dieOfCore 0)).cycles.toNat % 4 = 0 ∧ (s.core 0).drawAt ≤ 0 ∧ s.hub.fatal = false ∧ (s.threads.map (·.1)).Nodup ∧
       (s.drawOne 0).isSome = true) ∧ (one.drawOne 0).isNone = true ∧
    (∀ cur ∈ ([[], [(1, 32)]] : List (Tbl Nat)), let s : State := { one with teams := [(1, { tem with det := true })], execs := [(0, { current := cur })], waves := [(32, { yieldBit := true })] }
     s.detWaves 0 1 = [32] ∧ s.runnable 32 = true ∧ (s.wave 32).yieldBit = true) := by decide

/-- SheavesAreDrawn: a saved set with its chain; a launch with DET whose current wave is the thread's, and is stopped. -/
theorem witness_draw_saved :
    (let v : SavedSheaf := { pc := 0x1000, tids := [1024], latch := some [(1024, .val 5)] :: List.replicate 7 none }
     let s : State := { one with sheaves := [], threads := [(1024, { thd with stat := .ready })], execs := [(0, { bins := [(0, (1, 0x1000))] })],
                                 teams := [(1, { tem with saved := [v] })], dies := [(0, { cycles := 512 })] }
     (s.drawOne 0).map (fun t => t.sheaves) = some [{ shf with latch := v.latch, inRun := true, formed := 100 }]) ∧
    (let s : State := { one with teams := [(1, { tem with det := true, waves := 2 })], execs := [(0, { current := [(1, 33)] })], threads := [(1024, thd), (1056, { thd with stat := .parked })],
                                 waves := [(32, {}), (33, {})] }
     s.detWaves 0 1 = [32, 33] ∧ tget (s.core 0).current 1 = some 33 ∧ (∀ k ∈ s.threadsOf 33, s.switchStopped k = true) ∧ s.runnable 32 = true) := by decide
/-- SwapsHappen: a loft of higher priority; banks and tiles in place of another team's, which go with their poison. -/
theorem witness_swap_by_priority :
    (let s : State := { one with teams := [(1, tem), (2, { tem with launch := 2, idx := 0, place := .loft, frame := some 1 })], launches := [(1, lau), (2, { lau with ctl := 0x70 })] }
     s.topPrio (s.teamsAt 0 .active) < s.topPrio (s.teamsAt 0 .loft) ∧ (s.core 0).swapDue = false ∧ s.teamsAt 0 .loft ≠ []) ∧
    (let s : State := { one with teams := [(1, { tem with spilled := true, tilesOut := true, spData := [(4, 9)], accData := [(0, 7)] }), (2, { tem with place := .waiting, frame := some 1 })],
                                 execs := [(0, { bankTeam := some 2, spPoison := [0] })] }
     s.teamsAt 0 .active = [1] ∧ tem.banks = true ∧ (s.core 0).bankTeam = some 2 ∧ s.stationLoads = [] ∧ s.badFrame (s.core 0).bankTeam.toList = none ∧
       s.framePa 2 = some 0x400000 ∧ Memory.wf s.mem = true) := by decide
/-- LaunchesBecomeTeams: a dependence word in another package, to be asked for and answered. -/
theorem witness_far_word :
    (let x : Launch := { lau with stage := .taken, wait := 0x400000000000, lists := [] }
     let s : State := { apart with launches := [(1, x)], teams := [] }
     x.waitAcc = none ∧ s.vaTarget x.asid 0x400000000000 = .ok (.other 1) ∧ 0x400000000000 % 8 = 0 ∧ s.hub.fatal = false) ∧
    (let x : Launch := { lau with stage := .taken, wait := 0x400000000000, waitv := 5, lists := [], waitAcc := some 50 }
     let s : State := { apart with launches := [(1, x)], teams := [], accs := [(50, { answered with owner := .host, cells := cellsAt 0 (natBytes 5 8) })] }
     s.blocks [50] = some (.ok (natBytes 5 8)) ∧ Quiet s ∧ x.waitv.toNat % 2 ^ 63 ≤ bytesNat (natBytes 5 8)) :=
  ⟨⟨rfl, rfl, by decide, rfl⟩, rfl, quiet_one rfl rfl (by decide) (by decide) rfl rfl (by decide), by decide⟩

/-! ### Hypotheses of the statements on records, errors and caches -/

/-- RecordsAreWritten: a fault record of each die with a ring of 64 places, and an error record of a die and of the hub. -/
theorem witness_records :
    (∀ d, d < 4 → let s : State := { one with dies := [(d, { faults := [engRec 1 0 0 0], fqCtl := 3, fqSize := 64, fqBase := 0x30000, fqTail := 5 })] }
      (s.die d).fqCtl.getLsbD 0 = true ∧ ringOkRegs (s.die d).fqBase.toNat (s.die d).fqSize.toNat = true ∧ (s.die d).fqFull = false ∧
      paOk ((s.die d).fqBase.toNat + 64 * ((s.die d).fqHead.toNat % (s.die d).fqSize.toNat)) = true ∧ Memory.wf s.mem = true ∧ s.mem.reduce = [] ∧
      (s.die d).fqHead + 1 ≠ (s.die d).fqTail) ∧
    (let e : ErrRegs := { elSize := 64, elBase := 0x30000, waiting := [⟨1, 1, 0x3F, 0, 0, 1, 0⟩] }
     let s : State := { one with dies := [(0, { err := e })], hub := { err := e } }
     ∀ d ∈ [0, 4], (s.errOf d).waiting.length = 1 ∧ (s.errOf d).full = false ∧ paOk ((s.errOf d).slot (s.errOf d).elHead.toNat) = true) := by decide
/-- ErrorsLeaveTheirMark: a ring with room and one without; v8 of the thread, the last bank word, the last row and the last line of a stack. -/
theorem witness_errors :
    one.hub.fatal = false ∧ (one.errOf 0).recent = [] ∧ (one.errOf 0).waiting = [] ∧ (one.errOf 0).full = true ∧
    (let s : State := { one with dies := [(0, { err := { elSize := 64 } })] }; (s.errOf 0).full = false) ∧
    one.coreOf (tkOf 1024) = 0 ∧ dieOfCore 0 = 0 ∧ tget (one.thread 1024).regs 8 = some (.live 0x10000) ∧ 0x1FFFF < 0x20000 ∧ 511 < 512 ∧
    paOk (stackBytes - 1) = true := by decide
/-- ScrubWatchdogAndPower: the first line; a sequencer that has run out its time; the two ways of an island. -/
theorem witness_watchdog :
    paOk (0 * lineBytes) = true ∧ lo32 (one.die (dieOfPa (0 * lineBytes))).err.scrubInt ≠ 0 ∧
    (let s : State := { one with teams := [(1, { tem with core := some 384 })], execs := [(384, { watch := 0x1000000 })] }
     s.teamsAt 384 .active = [1] ∧ isSeq 384 = true ∧ (let r := tgetD (s.die (dieOfCore 384)).nm (stackOf 384 % 4) {}
       r.nmCtl.getLsbD 0 = true ∧ (lo32 r.nmWdt).toNat ≤ (s.core 384).watch)) ∧
    1023 ∉ one.hub.throttled ∧ (let s : State := { one with hub := { throttled := [1023] } }; 1023 ∈ s.hub.throttled) := by decide
/-- CachesKeepValues: the first and the last unit, the shortest and the longest lease; a unit that sleeps; a sector of 16 accesses of one cluster; a walk; an
epoch. -/
theorem witness_caches :
    (∀ u ∈ [0, nUnits - 1], u < nUnits ∧ tget (one.die 0).asleep u = none ∧ (one.die 0).copies = []) ∧
    (∀ p : Nat → Bool, one.linesHeld p = false) ∧ (let s : State := { one with dies := [(0, { asleep := [(0, 0)] })] }; tget (s.die 0).asleep 0 = some 0) ∧
    (let x : Sector := { slice := 0, recent := List.replicate 16 5, cols := true, cnt := 3, flip := true }
     let s : State := { one with dies := [(0, { migCtl := 2, sectors := [(7, x)] })] }
     tget (s.die 0).sectors 7 = some x ∧ (s.die 0).migCtl.getLsbD 1 = true ∧ x.recent.length = 16 ∧ 12 ≤ (x.recent.filter (· = 5)).length ∧ x.flip = true) ∧
    one.vaTarget 1 0x10000 = .ok (.pkg 0) ∧ one.pageOf 0 1 0x10000 = .ok pge ∧
    (let s : State := { one with dies := [(0, { cycles := 2 ^ 20, migCtl := 1, migVf := 1, mtlb := [{ asid := 1, page := pge, misses := 1 }] })],
                                 vfs := [(0, { en := true, vfAsid := 0x10001 })] }
     (s.die 0).cycles.toNat % 2 ^ 20 = 0 ∧ (s.die 0).cycles ≠ 0 ∧ (s.die 0).migCtl.toNat / 2 ^ 16 % 2 ^ 16 < 1 ∧ s.mayMigrate 0 1 pge = true) := by
  refine ⟨by decide, fun p => ?_, by decide, by decide, rfl, rfl, by decide⟩
  simp [State.linesHeld, one, lau]
/-- CachesKeepValues: leases by a core's L1 and by the guest ways of a slice for a page of another die; a scratch sector of a sleeping unit; a flip that is due. -/
theorem witness_leases :
    one.copyWays 0 0 1 ≠ [] ∧ one.leaseLines 0 0 1 0x10000 = some (pge, [(512, 1024)]) ∧ (one.die 0).copies = [] ∧
    (let s : State := { one with dies := [(1, {}), (0, { mtlb := [{ asid := 1, page := pge }], gwm := [(0, 0xF)] })], vfs := [(0, { en := true, vfAsid := 0x10001 })] }
     s.copyWays 1 (guestUnit (guestSlice 0x10000)) 1 = [12, 13, 14, 15] ∧ guestUnit (guestSlice 0x10000) < coresPerDie + nSlices ∧
       s.leaseLines 1 (guestUnit (guestSlice 0x10000)) 1 0x10000 = some (pge, [(512, 1024)])) ∧
    (let x : Sector := { slice := 3, recent := [], cols := false, cnt := 0, scratch := true, flip := true }
     let s : State := { one with dies := [(0, { clock := 2 ^ 31, asleep := [(homeUnit 3, 0)], sectors := [(7, x)] })] }
     tget (s.die 0).asleep (homeUnit 3) = some 0 ∧ 2 ≤ (s.die 0).clock / 2 ^ 30 - 0 ∧ tget (s.die 0).sectors 7 = some x ∧ homeUnit x.slice < nUnits ∧
       x.flip = true ∧ Memory.wf s.mem = true) := by decide
/-- CachesKeepValues: a sector that does not lie in the slice nearest to the cluster. -/
theorem witness_far_slice : let n := (Config.nearSlice 0 5).val
    let x : Sector := { slice := if n = 0 then 1 else 0, recent := List.replicate 16 5, cols := false, cnt := 0 }
    let s : State := { one with dies := [(0, { migCtl := 2, sectors := [(7, x)] })] }
    tget (s.die 0).sectors 7 = some x ∧ x.slice ≠ n ∧ ((s.die 0).sectors.map (·.1)).Nodup ∧ 5 / 24 = 0 := by
  refine ⟨rfl, ?_, List.nodup_cons.2 ⟨by simp, List.nodup_nil⟩, by decide⟩
  dsimp only
  split <;> omega
/-- A page that is a candidate for migration; the ring of free frames of stack 1 holds one of its colour when `tail` is 1. -/
def mig (tail : W64) : State :=
  { one with mem := { home := [(0x40002, 2)] }, vfs := [(0, { en := true, vfAsid := 0x10001 })],
             dies := [(0, { migCtl := 1, migVf := 1, mtlb := [{ asid := 1, page := pge }], cands := [(1, 0x10000)],
                            pools := [(1, { base := 0x50000, size := 4 }), (3, { base := 0x40000, size := 4, tail := tail })] })] }
/-- CachesKeepValues: a candidate, and what a move to the frame leaves alone. -/
theorem witness_migration : (mig 1).mtlbFind 0 1 0x10000 = some pge ∧ (mig 1).mayMigrate 0 1 pge = true ∧
    (1, pge.va) ∈ ((mig 1).die 0).cands ∧ ((mig 1).pool 0 1).tail - ((mig 1).pool 0 1).head < ((mig 1).pool 0 1).size ∧ (mig 1).accs = [] ∧
    (∀ e, e < nDies → (mig 1).queuesOpen e = true) ∧ paOk (((mig 1).pool 1 1).slot 0) = true ∧ paOk (((mig 1).pool 0 1).slot 0) = true ∧
    Memory.wf (mig 1).mem = true :=
  ⟨by decide, by decide, by decide, by decide, rfl, by decide, by decide, by decide, by decide⟩
/-- CachesKeepValues: no free frame on stack 1; and one. -/
theorem witness_free_frame : (mig 0).freeFrame ((mig 0).pool 1 1) (colourOf pge.pa) = none ∧
    (mig 1).freeFrame ((mig 1).pool 1 1) (colourOf pge.pa) = some 0 := by decide
/-- The numbers below `n` in order have no repeat. -/
theorem dedup_upto (n : Nat) : dedup (upto n) = upto n := by
  induction n with
  | zero => rfl
  | succ n ih =>
    have e : upto (n + 1) = upto n ++ [n] := List.range_succ
    have h : (upto n).contains n = false := by simp [upto]
    simp only [dedup, e, List.foldl_append, List.foldl_cons, List.foldl_nil] at ih ⊢
    rw [ih, h]
    rfl
/-- A silo of `n` lines of stack 0 in reduce state, and a contribution to one more. -/
def silo (n : Nat) : State :=
  { one with mem := { reduce := (upto n).map (fun i => { pa := 128 * i, op := 0, ty := 12, parts := [0], last := i, home := 0 }) },
             accs := [(50, { acc .red with elem := { pa := 128 * n } })], dies := [(0, { inbox := [⟨50, [0, 0, 0, 0]⟩] })] }
/-- Its lines. -/
theorem silo_lines {n : Nat} (h : n ≤ 131072) : (silo n).reduceLines 0 = upto n := by
  have e : (silo n).mem.reduce.filter (fun e => bits e.pa 39 36 = 0) = (silo n).mem.reduce := by
    apply List.filter_eq_self.2
    intro x hx
    obtain ⟨i, hi, rfl⟩ := List.mem_map.1 hx
    have : i < n := by simpa [upto] using hi
    have : bits (128 * i) 39 36 = 0 := by unfold bits; omega
    simpa using this
  rw [State.reduceLines, e]
  have f : (silo n).mem.reduce.map (fun e => lineOf e.pa) = upto n := by
    simp [silo, lineOf, lineBytes, Function.comp_def, upto]
  rw [f, dedup_upto]
/-- Each has an element. -/
theorem silo_line (n ln : Nat) (h : ln ∈ upto n) : (silo n).redOn [ln] ≠ [] := by
  refine List.ne_nil_of_mem (a := { pa := 128 * ln, op := 0, ty := 12, parts := [0], last := ln, home := 0 }) ?_
  exact List.mem_filter.2 ⟨List.mem_map.2 ⟨ln, h, rfl⟩, by simp [lineOf, lineBytes]⟩
/-- ScrubWatchdogAndPower: a contribution that finds its silo full. -/
theorem witness_silo : let s := silo 131072
    (∃ ln el rest, s.oldestLine 0 = some ln ∧ s.redOn [ln] = el :: rest) ∧ s.siloFull { acc .red with elem := { pa := 128 * 131072 } } = true := by
  have h := silo_lines (Nat.le_refl 131072)
  refine ⟨?_, ?_⟩
  · have g (f : Nat → Nat) (l : List Nat) : ∀ b : Option Nat, l ≠ [] ∨ b ≠ none → ∃ x,
        l.foldl (fun b l => match b with | none => some l | some x => if f l < f x then some l else some x) b = some x ∧ (x ∈ l ∨ b = some x) := by
      induction l with
      | nil => exact fun b h => by cases b with
        | none => simp at h
        | some x => exact ⟨x, rfl, .inr rfl⟩
      | cons a l ih =>
        intro b _
        rw [List.foldl_cons]
        cases b with
        | none =>
          obtain ⟨x, e, hx⟩ := ih (some a) (.inr (by simp))
          exact ⟨x, e, .inl (by rcases hx with hx | hx <;> simp_all)⟩
        | some y =>
          obtain ⟨x, e, hx⟩ := ih (if f a < f y then some a else some y) (.inr (by split <;> simp))
          refine ⟨x, e, ?_⟩
          rcases hx with hx | hx
          · exact .inl (List.mem_cons_of_mem _ hx)
          · split at hx <;> cases hx
            · exact .inl (List.mem_cons_self ..)
            · exact .inr rfl
    obtain ⟨ln, e, hl⟩ := g (fun l => ((silo 131072).redOn [l]).foldl (fun m e => max m e.last) 0) (upto 131072) none
      (.inl (List.ne_nil_of_mem (a := 0) (List.mem_range.2 (by decide))))
    have hm : ln ∈ upto 131072 := by
      rcases hl with h | h
      · exact h
      · cases h
    obtain ⟨el, rest, hr⟩ := List.exists_cons_of_ne_nil (silo_line 131072 ln hm)
    exact ⟨ln, el, rest, by rw [State.oldestLine, h]; exact e, hr⟩
  · have hb : bits (128 * 131072) 39 36 = 0 := by decide
    have hc (n : Nat) : (upto n).contains n = false := by simp [upto]
    have hn (n : Nat) : (upto n).length = n := List.length_range
    have hl : lineOf (128 * 131072) = 131072 := by decide
    generalize hu : upto 131072 = u at h
    have hc := hc 131072
    have hn := hn 131072
    rw [hu] at hc hn
    simp only [State.siloFull, hb, h, hl, hc, hn]
    rfl

/-! ### Hypotheses of the statements on the driver's commands -/

/-- Four dies with their address-space tables apart, die 0 with the arguments of a translation command. -/
def cmds (a0 a1 : W64) (stat : W64) : State :=
  { one with dies := (upto 4).map (fun e => (e, { astBase := BitVec.ofNat 64 (e * 2 ^ 38), clock := 1, mtArg0 := a0, mtArg1 := a1, mtStat := stat, mtCmd := 4,
                                                  mtlb := if e = 0 then [{ asid := 1, page := pge }] else [] })) }
/-- TranslationCommands: a device that is not ready and one that is; idle and busy. -/
theorem witness_translation_ready : (let s : State := { cmds 0 0 0 with hub := { devStat := 4 } }; s.ready = false) ∧ (cmds 0 0 0).ready = true ∧
    ((cmds 0 0 0).die 0).mtStat.getLsbD 0 = false ∧ ((cmds 0 0 1).die 0).mtStat.getLsbD 0 = true := by decide
/-- TranslationCommands: arguments of 0 and at the ends of their fields; ranges of no page, of one, and of one on another die; a region that is valid and one that is not. -/
theorem witness_translation : 0xFFFF < 2 ^ 16 ∧ 2 ^ 57 - 1 < 2 ^ 57 ∧ ¬ 2 ^ 57 < 2 ^ 57 ∧ vaDie 0x10000 = 0 ∧ vaDie (3 * 2 ^ 44) ≠ 0 ∧ 0x10001 / 2 ^ 16 % 2 ^ 32 = 1 ∧
    (∀ e, e < nDies → paOk (((cmds 0 1 0).die e).astBase.toNat + 2048 + 16 * 63) = true) ∧
    (∀ e, e < nDies → ∀ f, f < nDies → e ≠ f → e * 2 ^ 38 + 2048 + 16 ≤ f * 2 ^ 38 + 2048 ∨ f * 2 ^ 38 + 2048 + 16 ≤ e * 2 ^ 38 + 2048) ∧
    (∀ e, e < nDies → (cmds 0 1 0).regionEntry e 1 0 % 2 = 0) ∧ (let s : State := { cmds 1 1 0 with mem := { home := [(2048, 1)] } }; s.regionEntry 0 1 0 % 2 = 1) ∧
    (cmds 0 1 0).mem.reduce = [] ∧ Memory.wf (cmds 0 1 0).mem = true := by decide
/-- TranslationCommands: the end of a command with nothing left that uses its pages. -/
theorem witness_translation_end : (cmds 0 1 1).pageUser [] 0 = false ∧ (∀ e, e < nDies → (cmds 0 1 1).queuesOpen e = true ∧ 0 < ((cmds 0 1 1).die e).clock) ∧
    ((cmds 0 1 1).die 0).mtCmd.toNat % 16 = 4 ∧ (let s : State := { cmds 0 1 1 with dies := [(0, { mtCmd := 3, mtPages := [pge, { pge with pte := 8 }] })] }
      (s.die 0).mtCmd.toNat % 16 = 3 ∧ ∀ p ∈ (s.die 0).mtPages, p.map = false ∧ ∀ q ∈ (s.die 0).mtPages, p.pte = q.pte ∨ p.pte + 8 ≤ q.pte ∨ q.pte + 8 ≤ p.pte) := by
  decide
/-- BarrierTableCommands: an entry with no resident wait and one that is waited at; an image of a new entry; addresses that are good and off alignment. -/
theorem witness_barrier_table :
    (let y : BtEntry := { gid := 5, expected := 1, arrived := 0, phase := 0 }
     let s : State := { one with dies := [(0, { btArg0 := 5, btArg1 := 0x30000, bt := [y] })] }
     s.ready = true ∧ (s.die 0).btArg1.toNat % 32 = 0 ∧ paOk (s.die 0).btArg1.toNat = true ∧ (s.die 0).bt.find? (fun z => z.gid = (s.die 0).btArg0) = some y ∧
       s.residentWait y.gid = false ∧ (BitVec.ofNat 64 (memNat s.mem.home 0x30000 8) ≠ y.gid)) ∧
    (let g := gidOf lau.num 1 0 false ((waits [wat 1024 (.bar 1 0)] [1024]).instOf 1 32)
     (waits [wat 1024 (.bar 1 0)] [1024]).residentWait g = true) ∧ 0x30001 % 32 ≠ 0 := by decide
/-- BarrierTableCommands: a full table. -/
theorem witness_barrier_table_full : let bt := List.replicate 4096 ({ gid := 5, expected := 1, arrived := 0, phase := 0 } : BtEntry)
    (∀ y ∈ bt, y.gid ≠ 0) ∧ 4096 ≤ bt.length := by
  refine ⟨fun y h => ?_, Nat.le_of_eq List.length_replicate.symm⟩
  rw [(List.mem_replicate.1 h).2]; decide
/-- A thread parked at a store, or at a trap. -/
def parked (access : Nat) (trap : Bool) : Thread :=
  { thd with stat := .parked, park := some { kind := 10, set := .lane, grp := 1, trap := trap, val := 0, rpc := 0x1004, pc := 0x1000, words := 0, access := access } }
/-- FaultCommands: the token of a parked lane, with a vector whose record translates and without; of no lane; of no team; and one with a reserved bit. -/
theorem witness_fault_command :
    (∀ a ∈ [(2, false), (4, false), (10, true)], let s : State := { one with threads := [(1024, parked a.1 a.2)], dies := [(0, { fqArg := 0x100000000, mtlb := [{ asid := 1, page := pge }], vfs := [(0, { tvec := 1, tctl := 1, trec := 0x10000 })] })] }
      s.ready = true ∧ (s.die 0).fqArg.toNat / 2 ^ 27 % 32 = 0 ∧ s.tokenTeam (tokenOf (s.die 0).fqArg) = some 1 ∧ s.named 1 (tokenOf (s.die 0).fqArg) = [1024] ∧
        (s.trapRegs 1).tvec.getLsbD 0 = true ∧ (s.translate ((s.trapRegs 1).tctl.toNat % 2 ^ 16) (s.trapRecVa 1024) true false).1.toOption = some pge) ∧
    (one.trapRegs 1).tvec.getLsbD 0 = false ∧ one.named 1 (tokenOf 0x100000000) = [] ∧ one.tokenTeam (tokenOf 7) = none ∧ 0x8000000 / 2 ^ 27 % 32 ≠ 0 := by decide
/-- DebugCommands: a debugger attached to a function, with wave 0 of its team halted and not; offsets of a thread's PC and of its registers. -/
theorem witness_debug : ∀ b ∈ [false, true], let s : State := { one with dies := [(0, { dbgVf := 1, dbgArg1 := 0xC0000 })], vfs := [(0, { feat := [(0, 0x200)] })], waves := [(32, { haltBit := b })] }
    let tok := tokenOf (s.die 0).dbgArg0
    s.ready = true ∧ s.debugged tok.vf 0 = true ∧ s.tokenTeam tok = some 1 ∧ tok.wave < 32 ∧ (tget s.waves 32).isSome = true ∧ s.liveOf 32 ≠ [] ∧
    (∀ h ∈ s.sheaves, h.trapped = []) ∧ (s.core (s.coreOf 1)).products = [] ∧ (s.wave 32).haltBit = b ∧ (s.core (s.coreOf 1)).swapDue = false ∧
    8 * ((s.die 0).dbgArg1.toNat / 8 % 2 ^ 19) = 0xC0000 ∧ (∀ n, n < 2 → (tget (s.thread 1024).regs n).isSome = true) ∧
    one.debugged 0 0 = false ∧
    (let t : State := { s with teams := [(1, { tem with place := .waiting })] }; t.isOut 1 = true ∧ s.isOut 1 = false ∧ t.tokenTeam tok = some 1 ∧ t.framePa 1 = some 0 ∧
      t.badFrame [1] = none ∧ Memory.wf t.mem = true) := by decide

/-! ### Hypotheses of the statements on the host -/

/-- A decoder that maps the first granule, which its function owns or does not. -/
def hosted (b : Hub) : State := { one with hub := { b with hdm := [(0, (0, 2 ^ 30))] } }
/-- HostMemory: a granule owned and not; a page of device bias and of host bias. -/
theorem witness_host_memory : (hosted { got := [(0, 0x80)] }).hostMay 0 0 = true ∧ (hosted {}).hostMay 0 0 = false ∧
    (let s := hosted { got := [(0, 0x80)], devBias := [0] }
     s.hub.linkUp = true ∧ s.hostDecodes 0 0 = true ∧ s.hostDecodes 0 (2 ^ 30 - 64) = true ∧ s.flipping 0 = false ∧
      tget s.hub.snoops 0 = none ∧ s.hub.flip = none ∧ s.owned [0] = false ∧ s.pinned [0] = false ∧ s.queuesOpen (dieOfPa (paOfDpa 0)) = true ∧
      s.mem.reduce = [] ∧ Memory.wf s.mem = true ∧ 0 ∈ s.hub.devBias) ∧ paOfDpa 0 = 0 ∧ 0 ∉ (hosted {}).hub.devBias ∧ (hosted {}).tilesOn 0 0 64 = [] :=
  ⟨by decide, by decide, by decide, by decide, by decide, by decide⟩
/-- HostMemory: a snoop of each kind that waits for its answer, with the host's half-line in each state. -/
theorem witness_host_snoop : ∀ x ∈ ([none, some .s, some .m] : List (Option Half)), ∀ inv ∈ [false, true],
    let s := hosted { got := [(0, 0x80)], snoops := [(0, inv)], halves := match x with | some y => [(0, y)] | none => [] }
    tget s.hub.snoops 0 = some inv ∧ tget s.hub.halves 0 = x := by decide
/-- HostWindow: a load, a store and an atomic at the head of the host channel of die 0. -/
theorem witness_host_window : ∀ k ∈ ([.load, .store, .atomic] : List AccKind), let a := { acc k with target := .host, stage := .sent }
    let s : State := { one with accs := [(50, a)], threads := [(1024, { thd with stat := .ready, pend := [(0, 50)] })], dies := [(0, { hostChan := [50] })] }
    (s.die 0).hostChan = [50] ∧ Stands s 50 a ∧ a.page.cc ≠ 3 ∧ tget (s.thread 1024).pend 0 = some 50 ∧ (s.thread 1024).stat = .ready ∧ (s.thread 1024).sup = false ∧
    s.hub.linkUp = true ∧ a.more = [] ∧ (a.loadValue (fun _ => 0) []).isSome = true ∧ ∀ e, e ∈ [1, 2, 3] → (s.die e).hostChan = [] := by decide
/-- BiasFlips: a flip in progress each way, with and without a half-line of the host in its page, and none. -/
theorem witness_bias : (hosted {}).hub.flip = none ∧
    (∀ b ∈ [false, true], let f : Flip := { toDevice := b, pages := [0], auto := false }
      let s := hosted { flip := some f, halves := [(63, .s)] }
      s.hub.flip = some f ∧ s.flipDrained f = true ∧ (∃ e ∈ s.hub.halves, e.1 / 64 ∈ f.pages ∧ tget s.hub.snoops e.1 = none) ∧ (hosted { flip := some f }).hub.halves = []) ∧
    (0 % 4096 = 0 ∧ ∃ e ∈ (hosted {}).hub.hdm, e.2.1 ≤ 0 ∧ 0 + 4096 * 1 ≤ e.2.1 + e.2.2) := by decide
/-- Attestation: a device in the field, and one in RMA. -/
theorem witness_attestation : one.hub.lcState ≠ 3 ∧ (let s : State := { one with hub := { lcState := 3 } }; s.hub.lcState = 3) := by decide

/-! ### Hypotheses of the statements on resets, the mailbox and registers -/

/-- DeviceResets: a device that runs, with no image in either slot; and with one that is accepted, if there is one: the check rests on functions that the model leaves
uninterpreted (log entry 10). -/
theorem witness_reset : (let s : State := { one with hub := { slotA := [], slotB := [] } }
      s.hub.devStat ≠ 0 ∧ s.ready = true ∧ [s.hub.slotA, s.hub.slotB].find? (imageOk s.hub.svn) = none) ∧
    ∀ img, imageOk 0 img = true → let s : State := { one with hub := { slotA := img } }; [s.hub.slotA, s.hub.slotB].find? (imageOk s.hub.svn) = some img := by
  refine ⟨⟨by decide, by decide, ?_⟩, fun img h => List.find?_cons_of_pos h⟩
  have : imageOk 0 [] = false := by simp [imageOk, at', bytesNat, imageMagic]
  simp [this]
/-- MailboxCommands: addresses of a page and past memory; an image refused; a transition that is allowed and needs no token, and one that is not; bytes of each operation. -/
theorem witness_mailbox : paOk 0 = true ∧ paOk (2 ^ 40) = false ∧ (one.mbBytes 0 16 = List.replicate 16 0) ∧ one.hub.lcState = 2 ∧
    (let s : State := { one with mem := { home := [(0, 4)] } }; bytesNat (s.mbBytes 0 4) = 4 ∧ bytesNat (s.mbBytes 4 4) = 0) ∧
    (let s : State := { one with mem := { home := [(0, 3), (4, 0x90)] } }; bytesNat (s.mbBytes 0 4) = 3 ∧ bytesNat (s.mbBytes 4 4) = 0x90) ∧
    one.tokenOk 3 [] = false := by
  refine ⟨by decide, by decide, by decide, by decide, by decide, by decide, by simp [State.tokenOk, at', bytesNat, tokenMagic]⟩
/-- FunctionResets: a function with nothing in progress, and one that holds a granule. -/
theorem witness_function_reset :
    let s : State := { one with teams := [], launches := [], hub := { got := [(0, 0x81)] }, vfs := [(1, { en := true, feat := [(0, 1)], negd := true })] }
    s.ready = true ∧ s.vfTeams 1 = [] ∧ (∀ e ∈ s.launches, e.2.vf ≠ 1) ∧ s.accs = [] ∧ s.engines = [] ∧ s.inbound = [] ∧ s.mem.reduce = [] ∧ Memory.wf s.mem = true ∧
    (s.die 0).inbox = [] ∧ s.vfOwns 1 0x1000 = true ∧ s.vfOwns 0 0x1000 = false := by decide
/-- RegisterRules: a request that is granted and one that is not; a queue that is good, with its tail word in the page. -/
theorem witness_registers :
    ((0x3FF : W64).getLsbD 0 = true ∧ 0x3FF &&& ~~~ 0x3FF#64 = 0 ∧ (0x400 : W64).getLsbD 0 = false ∧ (one.vf 0).feat = []) ∧
    (let s : State := { one with vfs := [(0, { en := true, vfAsid := 0x10001, negd := true, queues := [(0, { base := 0x10000, size := 65536, tail := 0x11000, asid := 1 })] })] }
     s.queueOk 0 (s.queue 0 0) = true ∧ (s.queue 0 0).en = false ∧ s.vaTarget 1 0x11000 = .ok (.pkg 0) ∧ (s.devRead 0 1 0x11000 8).1.toBool = true) := by
  refine ⟨by decide, by decide, by decide, rfl, by decide⟩
/-- RegistersTakeWrites: the last die, function and queue, and an offset that holds no register; a queue that is enabled and one that is not. -/
theorem witness_register_write : 3 < nDies ∧ 63 < 64 ∧ 7 < 8 ∧ 0x600000 ≤ 0x600000 ∧ 0xFFFFFF < 0x1000000 ∧ (one.queue 63 7).en = false ∧
    (let s : State := { one with vfs := [(63, { queues := [(7, { en := true })] })] }; (s.queue 63 7).en = true) := by decide

/-! ### Hypotheses of the statements on the fabric, the fetch and the step -/

/-- A message of core 0 of package 1 to function 0 of this package. -/
def flit (type len ops : Nat) (data : List W8) : Flit :=
  { hdr := (FHdr.mk type 0 1 0 0 0 len 0x10000 ops 0).bits256, data := data }
/-- A package of two, with a route to the other by port 3, and a function that takes messages of tag 0. -/
def fab (feat : W64) : State :=
  { one with hub := { fabSize := 2, fabRt := [(1, 8)] }, vfs := [(0, { en := true, vfAsid := 0x10001, fabTag := 0x10000, feat := [(0, feat)] })] }
/-- ChannelsDeliver: an access at the head of its channel, with a route and without; a performed access of another package; a request that waits. -/
theorem witness_channel :
    (let s : State := { fab 0x3FF with accs := [(50, acc .store)], chans := [(1, { q := [50] })] }
     Stands s 50 (acc .store) ∧ (s.chan 0 1).q = [50] ∧ s.usePort 0 1 = some 3) ∧
    (let s : State := { one with accs := [(50, acc .store)], chans := [(1, { q := [50] })], threads := [(1024, { thd with stat := .ready })] }
     (s.chan 0 1).q = [50] ∧ s.usePort 0 1 = none ∧ (s.thread 1024).stat = .ready ∧ (s.thread 1024).sup = false) ∧
    (let a := { acc .load with owner := .remote 1 0 7, applied := true }
     let s : State := { fab 0x3FF with accs := [(50, a)] }
     s.remoteAcc 0 1 = some (a, 7) ∧ a.op = 0 ∧ a.bad = false) ∧
    (let f := flit 1 0 0 []
     let s : State := { fab 0x3FF with inbound := [(1, [f])] }
     s.remoteAcc 0 1 = none ∧ tgetD s.inbound (chanKey 0 1) [] = [f]) := by decide
/-- RequestsQueue: a request of each kind and collective data, for a function that takes it, with the feature and without, and for none; a reserved type. -/
theorem witness_request :
    (∀ t ∈ [1, 2, 3, 4, 0x20], flitOk (flit t 1 0 (List.replicate 32 0)) t = true ∧ (fab 0x80).fabricVf (fhdr (flit t 1 0 [])) = some 0 ∧ one.fabricVf (fhdr (flit t 1 0 [])) = none) ∧
    (fab 0x80).feature 0 7 = true ∧ (fab 0).feature 0 7 = false ∧ flitReserved (fhdr (flit 0xFF 0 0 [])).type = true := by decide
/-- AnswersArrive: data and an acknowledgement for an access in flight, and either with a fault. -/
theorem witness_answer : ∀ k ∈ ([.load, .store] : List AccKind), ∀ kind ∈ [0, 3], let a := { acc k with target := .other 1, stage := .sent }
    let s : State := { one with accs := [(50, a)], chans := [(1, { flight := [50] })], threads := [(1024, { thd with stat := .ready, pend := [(0, 50)] })] }
    let f (t : Nat) : Flit := flit t 1 (kind * 2 ^ 56) (List.replicate 32 0)
    s.flightOf (fhdr (f 5)) = some a ∧ Stands s a.gid a ∧ flitOk (f 5) 5 = true ∧ flitOk (f 6) 6 = true ∧ flitOk (f 7) 7 = true ∧ (fhdr (f 5)).ops / 2 ^ 56 % 2 ^ 8 = kind ∧
    a.page.cc ≠ 3 ∧ tget (s.thread 1024).pend 0 = some 50 ∧ (s.thread 1024).stat = .ready ∧ (s.thread 1024).sup = false ∧
    (a.loadValue (fun x => (f 5).data.getD (x - a.va.toNat) 0) []).isSome = true := by decide
/-- AnswersArrive: a barrier's arrival, its release with a wait of its group and with none, and an abort of a collective in progress. -/
theorem witness_answer_group :
    (∀ t ∈ [0x10, 0x11, 0x21], flitOk (flit t 0 0 []) t = true) ∧ one.waits = [] ∧
    (let s := waits [wat 1024 (.bar 1 0), wat 1025 (.bar 1 0)] [1024, 1025]
     let g := gidOf lau.num 1 0 false (s.instOf 1 32)
     s.waitGid (wat 1024 (.bar 1 0)) = some g ∧ (fhdr (flit 0x11 0 g.toNat [])).ops = g.toNat ∧ ∃ t, exec (.barrierRelease 0) s = .next t) := by
  refine ⟨by decide, rfl, by decide, by decide, _, rfl⟩
/-- PortsAndRoutes: an access in flight on a port; and a channel whose route has moved. -/
theorem witness_port :
    (let s : State := { one with accs := [(50, acc .store)], chans := [(chanKey 0 1, { port := some 17, flight := [50] })], threads := [(1024, { thd with stat := .ready })] }
     17 < 18 ∧ 17 ∉ s.hub.portsDown ∧ Stands s 50 (acc .store) ∧ (s.thread 1024).stat = .ready ∧ (s.thread 1024).sup = false ∧ (acc .store).page.cc ≠ 3) ∧
    (let s : State := { fab 0 with chans := [(1, { port := some 0 })] }
     (s.chan 0 1).flight = [] ∧ (s.chan 0 1).port ≠ s.routePort 0 1) := by decide
/-- The sheaf with its PC in the page, which holds code. -/
def code (x : Page) (r : Nat) (tr : List LaneTrap) : State :=
  { one with sheaves := [{ shf with pc := 0x10000, refetch := r, trapped := tr }], dies := [(0, { mtlb := [{ asid := 1, page := x }] })] }
/-- FetchesAnew: code that translates, after no parity error and after one; and a page without X. -/
theorem witness_fetch :
    (∀ r ∈ [0, 1], (code { pge with x := true } r []).sheaves[0]? = some { shf with pc := 0x10000, refetch := r } ∧
      (((code { pge with x := true } r []).bring 0).fetchAt { shf with pc := 0x10000, refetch := r } true 0).1.toBool = true ∧
      ((code { pge with x := true } r []).thread 1024).stat = .inSheaf ∧ ((code { pge with x := true } r []).thread 1024).sup = false) ∧
    ∃ k, ((code pge 0 []).translate 1 0x10000 false true).1 = .error k := by
  exact ⟨by decide, error_of (by decide)⟩

/-! ### Hypotheses of the statements on the machine as a whole -/

/-- The machine after reset with `add` placed where the next step fetches. -/
def placed : State := State.reset.withFetchWord 32 0
/-- Its sheaf. -/
def placedSheaf : Sheaf := placed.sheaves.headD shf
/-- StepRunsDecoded: the turn is the sheaf's, and what stands at its PC decodes to `add`. -/
theorem witness_step : placed.ahead = [.issue 0] ∧ placed.sheaves[0]? = some placedSheaf ∧
    placed.stuck placedSheaf = false ∧ (∀ t ∈ placedSheaf.active, placed.detStalled t = false ∧ (placed.thread t).replay = false) ∧ placed.mem.reduce = [] ∧
    (∀ d ∈ placed.dies, ∀ m ∈ d.2.mtlb, 12 ≤ m.page.bits) ∧ placedSheaf.pc.toNat % lineBytes + 8 ≤ lineBytes ∧
    placed.denied placedSheaf 0 = false ∧ placed.mustWait (.add none ⟨0, false, 0, false, 0, false⟩) = false := by decide
/-- StepRunsDecoded: the translation and the bytes. -/
theorem witness_step_bytes : ∃ p, (placed.translate (placed.asidOf (placedSheaf.tids.headD 0)) placedSheaf.pc.toNat false true).1 = .ok p ∧
    placed.icache = [] ∧ (upto 4).map (fun i => placed.viewByte 0 (p.pa + (placedSheaf.pc.toNat - p.va) + i)) = [0, 0, 0, 0] ∧
    decodeBytes (List.replicate 8 0) = .instr (.add none ⟨0, false, 0, false, 0, false⟩) := by
  exact ⟨_, rfl, by decide, by decide, by decide⟩
/-- DecodeEncode, WordsAreUnique: an instruction in one word and in two. -/
theorem witness_encode : (∀ i ∈ ([.add none alu, .add (some { bare with ty := 13 }) alu] : List Instr), i.enc.isSome = true ∧ i.wellFormed = true) ∧
    decode 0 0 = .instr (.add none ⟨0, false, 0, false, 0, false⟩) := by decide
/-- StepKeepsMemory: the machine after reset, and the state in which an instruction runs. -/
theorem witness_step_keeps : (Memory.wf State.reset.mem = true ∧ State.reset.dies = []) ∧
    (Memory.wf placed.mem = true ∧ ∀ d ∈ placed.dies, memWf d.2.view = true ∧ ∀ m ∈ d.2.mtlb, 12 ≤ m.page.bits) ∧ ∃ t, step placed = .next t := by
  exact ⟨by decide, by decide, _, rfl⟩

/-! ### Hypotheses of the clauses on driver commands, the fabric and the step -/

/-- TranslationCommands: the ends of a page attribute's change and of a format's, with the entry and the format word apart from every other; a range that a die holds whole. -/
theorem witness_attribute_end :
    (let s : State := { cmds 0 1 1 with dies := (upto 4).map (fun e => (e, { astBase := BitVec.ofNat 64 (e * 2 ^ 38), clock := 1, mtCmd := 4, mtStat := 1, mtIn0 := 7, mtIn1 := 0x10001 })) }
     (∀ e, e < nDies → paOk ((s.die e).astBase.toNat + 2048 * 1 + 1024 + 4 * 1) = true) ∧ (s.die 0).mtStat.getLsbD 0 = true ∧ s.pageUser (s.die 0).mtPages (s.die 0).mtGid = false ∧
       (∀ e, e < nDies → s.queuesOpen e = true ∧ (s.die 0).mtUntil < (s.die e).clock) ∧ s.mem.reduce = [] ∧ Memory.wf s.mem = true) ∧
    (let l : List (Nat × Nat) := [(0, 0x8000), (1, 0x8008)]
     ∀ p ∈ l, ∀ q ∈ l, p = q ∨ p.2 + 8 ≤ q.2 ∨ q.2 + 8 ≤ p.2) ∧
    (let s := cmds 0x10000 0x10001 0
     (s.die 0).mt1 / 2 ^ 16 % 2 ^ 32 = 1 ∧ 4 * s.hub.fabId.toNat + 0 = 0 ∧ (s.die 0).mt0 + (1 - 1) * 2 ^ s.regionBits 0 1 (s.die 0).mt0 < 2 ^ 44) := by decide
/-- DebugCommands: each offset that a clause names; and a halted wave whose core's loft has a set to swap in. -/
theorem witness_debug_offsets :
    (∀ o ∈ [8, 0x10000, 0x20000, 0x20008, 0x20010, 0x20018, 0xC0000, 0x200000 - 8], 8 * (o / 8 % 2 ^ 19) = o) ∧
    (let s : State := { loft { swapDue := true } with waves := [(32, { haltBit := true })] }
     s.teamActive 1 = true ∧ s.teamsAt (s.coreOf 1) .loft ≠ [] ∧ (s.waves.map (·.1)).Nodup ∧
       (∀ e ∈ s.waves, e.1 ≠ 32 → tkOfW e.1 ∈ s.teamsAt (s.coreOf 1) .active → e.2.haltBit = false) ∧ (s.core (s.coreOf 1)).swapping = 0 ∧
       (s.core (s.coreOf 1)).swapDue = true ∧ (s.wave 32).haltBit = true) := by decide
/-- HostMemory: an answer with data for a half-line of which nothing holds the line. -/
theorem witness_host_answer : let s := hosted { got := [(0, 0x80)], snoops := [(0, true)], halves := [(0, .m)] }
    s.queuesOpen 0 = true ∧ s.tilesOn 0 0 64 = [] ∧ s.owned [0] = false ∧ s.pinned [0] = false ∧ (List.replicate 64 (0 : W8)).length = 64 := by decide
/-- AnswersArrive: a value of 64 bits for an even register and for an odd one. -/
theorem witness_answer_wide : ∀ r ∈ [0, 1], let a := { acc .load with target := .other 1, stage := .sent, dst := some r }
    let s : State := { one with accs := [(50, a)], chans := [(1, { flight := [50] })], threads := [(1024, { thd with stat := .ready, pend := [(r, 50)] })] }
    let f : Flit := flit 5 1 0 (List.replicate 32 0)
    s.flightOf (fhdr f) = some a ∧ flitOk f 5 = true ∧ fmtWidth ((fhdr f).ops / 2 ^ 32 % 2 ^ 5) = 64 ∧ (fhdr f).ops / 2 ^ 56 % 2 ^ 8 = 0 ∧
    tget (s.thread 1024).pend r = some 50 ∧ (s.thread 1024).stat = .ready ∧ (s.thread 1024).sup = false ∧ bitAt (s.trapRegs (tkOf 1024)).tvec.toNat 0 = false ∧
    (({ a with ty := (fhdr f).ops / 2 ^ 32 % 2 ^ 5, elem := { a.elem with width := 64 } } : Acc).loadValue (fun x => f.data.getD (x - a.va.toNat) 0) []).isSome = true := by decide
/-- AnswersArrive: an arrival at a barrier of a level bound to the domain, of a launch that is admitted here. -/
theorem witness_domain_arrival : let x : Launch := { lau with ctl := 2, lev := [0x75], ext := [1, 1, 1] }
    let g := gidOf x.num 2 0 false 0
    let s : State := { one with launches := [(1, x)], teams := [] }
    let f : Flit := flit 0x10 0 g.toNat []
    flitOk f 0x10 = true ∧ (fhdr f).ops = g.toNat ∧ x.num = g.toNat % 2 ^ 16 ∧ x.stage = .admitted ∧ g.toNat / 2 ^ 16 % 2 ^ 3 = 2 ∧ g.toNat / 2 ^ 19 % 2 ^ 8 = 0 ∧
    g.toNat / 2 ^ 28 % 2 ^ 36 = 0 ∧ x.teamLevel < 2 ∧ x.dom 2 = 5 ∧ x.gid 2 0 0 = g ∧ (s.die x.adie).bt = [] ∧ (s.die x.adie).btOut = [] ∧
    (fhdr f).src ∉ tgetD s.bars g.toNat [] := by decide
/-- StepRunsDecoded: the sheaf has its turn, and nothing keeps its instruction back. -/
theorem witness_step_turn : let a : State := { placed with agenda := [] }
    let u := (a.bring 0).noteIssue placedSheaf
    let f := ((u.modCore placedSheaf.core (fun c => { c with watch := 0 })).fetchAt placedSheaf false 0).2
    (placed.core placedSheaf.core).issued.length < 2 ∧ placedSheaf.formed ∉ (placed.core placedSheaf.core).issued ∧ (∀ x ∈ placed.sheaves, x = placedSheaf) ∧
    a.stuck placedSheaf = false ∧ u.stuck placedSheaf = false ∧ (∀ t ∈ placedSheaf.active, u.detStalled t = false) ∧
    f.relStalled placedSheaf (.add none ⟨0, false, 0, false, 0, false⟩) = [] ∧ f.mustWait (.add none ⟨0, false, 0, false, 0, false⟩) = false := by decide
/-- RegistersTakeWrites: a fault queue whose ring is full, and records that wait. -/
theorem witness_queue_full :
    let s : State := { one with dies := [(0, { faults := [engRec 1 0 0 0], fqSize := 64, fqBase := 0x30000, fqHead := 64 })] }
    s.ready = true ∧ (s.die 0).fqFull = true ∧ (s.die 0).faults.isEmpty = false ∧ (s.die 0).fqCtl.getLsbD 0 = false := by decide
end Sys2Proof.Tests
end

section
/-! SUPPORT. A well-formed instruction's own words decode to it (05 R91, R105): the laws of each instruction under
`Laws.Words`, put together through the decoder. -/

namespace Sys2Proof

theorem packMod_toNat (m : ModW) : (packMod m).toNat = 0xFF * 2 ^ 23 + (if m.l1 then
      2 ^ 22 + ((((m.ty.toNat * 2 ^ 4 + m.ord.toNat) * 2 ^ 3 + m.sco.toNat) * 2 ^ 2 + m.fl.toNat) * 2 ^ 7 + m.x.toNat) * 2 + m.xlu.toNat
    else ((((m.ty.toNat * 2 ^ 5 + m.st.toNat) * 2 ^ 3 + m.rnd.toNat) * 2 ^ 4 + m.ord.toNat) * 2 ^ 3 + m.sco.toNat) * 2 ^ 2 + m.fl.toNat) := by
  have hty := m.ty.isLt
  unfold packMod
  split
  · show (0xFF#9 ++ 1#1 ++ m.ty ++ m.ord ++ m.sco ++ m.fl ++ m.x ++ BitVec.ofBool m.xlu : BitVec (9 + 1 + 5 + 4 + 3 + 2 + 7 + 1)).toNat = _
    simp only [append_toNat, ofBool_nat, BitVec.toNat_ofNat]
    omega
  · show (0xFF#9 ++ 0#1 ++ m.ty ++ m.st ++ m.rnd ++ m.ord ++ m.sco ++ m.fl : BitVec (9 + 1 + 5 + 5 + 3 + 4 + 3 + 2)).toNat = _
    simp only [append_toNat, BitVec.toNat_ofNat]
    omega

theorem isModifier_packMod (m : ModW) : isModifier (packMod m) = true := by
  have hp := packMod_toNat m
  have hty := m.ty.isLt; have hst := m.st.isLt; have hrnd := m.rnd.isLt; have hord := m.ord.isLt; have hsco := m.sco.isLt
  have hfl := m.fl.isLt; have hx := m.x.isLt; have hxlu := Bool.toNat_le m.xlu
  have : primary (packMod m) = 0x0FF := by
    rw [primary, fld_nat, hp]
    split <;> omega
  simp [isModifier, this]

/-- The modifier word in the form that its layout gives is read back (05 R92). -/
theorem unpackMod_packMod (m : ModW) (h : modNormal m = true) : unpackMod (packMod m) = m := by
  obtain ⟨l1, ty, st, rnd, ord, sco, fl, x, xlu⟩ := m
  have hp := packMod_toNat ⟨l1, ty, st, rnd, ord, sco, fl, x, xlu⟩
  have hty := ty.isLt; have hst := st.isLt; have hrnd := rnd.isLt; have hord := ord.isLt; have hsco := sco.isLt
  have hfl := fl.isLt; have hx := x.isLt; have hxlu := Bool.toNat_le xlu
  generalize packMod _ = w at hp
  cases l1
  case true =>
    obtain ⟨rfl, rfl⟩ : st = 31 ∧ rnd = 0 := by simpa [modNormal] using h
    simp only [if_true] at hp
    rw [unpackMod, flag_of w 22 true (by rw [hp]; simp; omega), fld_of w 17 ty (by omega), fld_of w 13 ord (by omega),
      fld_of w 10 sco (by omega), fld_of w 8 fl (by omega), fld_of w 1 x (by omega), flag_of w 0 xlu (by omega), if_pos rfl]
  case false =>
    obtain ⟨rfl, rfl⟩ : x = 0 ∧ xlu = false := by simpa [modNormal] using h
    simp only [Bool.false_eq_true, if_false] at hp
    rw [unpackMod, flag_of w 22 false (by rw [hp]; simp; omega), fld_of w 17 ty (by omega), fld_of w 12 st (by omega),
      fld_of w 9 rnd (by omega), fld_of w 5 ord (by omega), fld_of w 2 sco (by omega), fld_of w 0 fl (by omega),
      if_neg Bool.false_ne_true]

theorem isModifier_packWord (p : Nat) (f : Fields) (hp : p < 512) (hm : p ≠ 0x0FF) : isModifier (packWord p f) = false := by
  simp [isModifier, primary_packWord p f hp, hm]

variable {i : Instr}

theorem decodeSuffix_packWord {p : Nat} {m : Option ModW} {f : Fields} (hw : Laws.Words.Statement i) (he : i.enc = some ⟨p, m, f⟩)
    (hf : i.wellFormed = true) : decodeSuffix m (packWord p f) = .instr i := by
  obtain ⟨hof, has, hp, -, hun⟩ := hw _ he
  simp only [decodeSuffix, primary_packWord p f hp, has, hun, hof, hf, if_true]

theorem enc_of_encode_one {w : W32} (he : encode i = [w]) : ∃ p f, i.enc = some ⟨p, none, f⟩ ∧ packWord p f = w := by
  unfold encode at he
  split at he
  next e henc =>
    obtain ⟨p, m, f⟩ := e
    cases m with
    | none => exact ⟨p, f, henc, List.singleton_inj.mp he⟩
    | some m => cases he
  next => cases he

theorem enc_of_encode_two {w w2 : W32} (he : encode i = [w, w2]) : ∃ p m f, i.enc = some ⟨p, some m, f⟩ ∧ packMod m = w ∧ packWord p f = w2 := by
  unfold encode at he
  split at he
  next e henc =>
    obtain ⟨p, m, f⟩ := e
    cases m with
    | none => cases he
    | some m =>
      simp only [List.cons.injEq, and_true] at he
      exact ⟨p, m, f, henc, he⟩
  next => cases he

/-- An instruction of one word, whatever word follows it. -/
theorem decode_of_encode_one {w : W32} (w2 : W32) (hw : Laws.Words.Statement i) (he : encode i = [w]) (hf : i.wellFormed = true) :
    decode w w2 = .instr i := by
  obtain ⟨p, f, henc, rfl⟩ := enc_of_encode_one he
  obtain ⟨-, -, hp, hm, -⟩ := hw _ henc
  rw [decode, isModifier_packWord p f hp hm, if_neg Bool.false_ne_true]
  exact decodeSuffix_packWord hw henc hf

/-- An instruction of two words, the first a modifier word. -/
theorem decode_of_encode_two {w w2 : W32} (hw : Laws.Words.Statement i) (he : encode i = [w, w2]) (hf : i.wellFormed = true) :
    decode w w2 = .instr i := by
  obtain ⟨p, m, f, henc, rfl, rfl⟩ := enc_of_encode_two he
  obtain ⟨-, -, hp, hm, -⟩ := hw _ henc
  have hn : modNormal m = true := by
    simp only [Instr.wellFormed, henc, Bool.and_eq_true] at hf
    exact hf.1
  rw [decode, isModifier_packMod, isModifier_packWord p f hp hm, if_pos rfl, if_neg Bool.false_ne_true, unpackMod_packMod m hn]
  exact decodeSuffix_packWord hw henc hf

end Sys2Proof
end

section
open Sys2Proof

/-- Settles O57: each word or pair is the encoding of its instruction, whose fields are legal; the words that stand for
none are run through the decoder. -/
theorem wordsDecode : Obligations.WordsDecode := by
  have one (w : W32) {i : Instr} (hw : Laws.Words.Statement i) (he : encode i = [w]) (hf : i.wellFormed = true) : decode w 0 = .instr i :=
    decode_of_encode_one 0 hw he hf
  exact ⟨one _ (Laws.Words.fadd _ _) rfl rfl,
    one _ (Laws.Words.fmul _ _) rfl rfl,
    decode_of_encode_two (Laws.Words.cvt _ _) rfl rfl,
    one _ (Laws.Words.ld _ _) rfl rfl,
    decode_of_encode_two (Laws.Words.atomAdd _ _) rfl rfl,
    one _ (Laws.Words.sli _ _) rfl rfl,
    one _ (Laws.Words.add _ _) rfl rfl,
    decode_of_encode_two (Laws.Words.nop _ _) rfl rfl,
    one _ (Laws.Words.add _ _) rfl rfl,
    one _ (Laws.Words.shl _ _) rfl rfl,
    one _ (Laws.Words.fma _ _) rfl rfl,
    one _ (Laws.Words.cvt _ _) rfl rfl,
    one _ (Laws.Words.ldsp _ _) rfl rfl,
    one _ (Laws.Words.fence _ _) rfl rfl,
    one _ (Laws.Words.bp _ _) rfl rfl,
    one _ (Laws.Words.call _ _) rfl rfl,
    one _ (Laws.Words.vote _ _) rfl rfl,
    one _ (Laws.Words.stkMul _ _) rfl rfl,
    one _ (Laws.Words.sadd _ _) rfl rfl,
    one _ (Laws.Words.scmp _ _) rfl rfl,
    one _ (Laws.Words.sld _ _) rfl rfl,
    one _ (Laws.Words.sliH1 _ _) rfl rfl,
    one _ (Laws.Words.uloop _ _) rfl rfl,
    one _ (Laws.Words.mma _ _) rfl rfl,
    one _ (Laws.Words.tfill _ _) rfl rfl,
    one _ (Laws.Words.bar _ _) rfl rfl,
    one _ (Laws.Words.wlpop _ _) rfl rfl,
    one _ (Laws.Words.csrr _ _) rfl rfl,
    one _ (Laws.Words.getclk _ _) rfl rfl,
    by decide, by decide, by decide, by decide, by decide⟩
end

section
/-! SUPPORT. REGISTER_WRITE by the block of BAR0 that an offset lies in (26 R426), and what the registers of a die read. -/

namespace Sys2Proof.Machine

theorem exec_registerWrite (off : Nat) (val : W64) (s : State) : exec (.registerWrite off val) s = execRegisterWrite off val s := rfl

theorem exec_registerWrite_after {off : Nat} {val : W64} {s t : State} (hoff : off < 0x1000000) (h : s.regWrite off val = .after t) :
    exec (.registerWrite off val) s = .next (if s.ready then t else s) := by
  rw [exec_registerWrite, execRegisterWrite, if_neg (Nat.not_le.mpr hoff), h]

theorem exec_registerWrite_ignored {off : Nat} {val : W64} {s : State} (hoff : off < 0x1000000) (h : s.regWrite off val = .ignored) :
    exec (.registerWrite off val) s = .next s := by
  rw [exec_registerWrite, execRegisterWrite, if_neg (Nat.not_le.mpr hoff), h]

/-! ### The block of an offset -/

/-- An offset at which a register of 64 bits may stand in a block of 1 MiB. -/
def RegOffset (o : Nat) : Prop := o < 2 ^ 20 ∧ o % 8 = 0

theorem block_offset {o : Nat} (ho : RegOffset o) (b : Nat) :
    (b * 2 ^ 20 + o) % 0x100000 = o ∧ (b * 2 ^ 20 + o) / 0x100000 = b ∧ (b * 2 ^ 20 + o) % 8 = 0 := by
  obtain ⟨hlt, hal⟩ := ho
  omega

theorem regWrite_hub (s : State) {o : Nat} (ho : RegOffset o) (val : W64) : s.regWrite (0 * 2 ^ 20 + o) val = s.hubRegWrite o val := by
  obtain ⟨hmod, hdiv, hal⟩ := block_offset ho 0
  simp only [State.regWrite, hmod, hdiv, hal, ne_eq, not_true_eq_false, if_false, if_true]

theorem regWrite_tenancy (s : State) {o : Nat} (ho : RegOffset o) (val : W64) : s.regWrite (1 * 2 ^ 20 + o) val = s.tenancyWrite o val := by
  obtain ⟨hmod, hdiv, hal⟩ := block_offset ho 1
  simp only [State.regWrite, hmod, hdiv, hal, ne_eq, not_true_eq_false, if_false, if_true, Nat.one_ne_zero]

theorem regWrite_die (s : State) {d o : Nat} (hd : d < nDies) (ho : RegOffset o) (val : W64) :
    s.regWrite ((2 + d) * 2 ^ 20 + o) val = s.dieRegWrite d o val := by
  obtain ⟨hmod, hdiv, hal⟩ := block_offset ho (2 + d)
  have h0 : 2 + d ≠ 0 := by omega
  have h1 : 2 + d ≠ 1 := by omega
  simp only [State.regWrite, hmod, hdiv, hal, h0, h1, ne_eq, not_true_eq_false, if_false, Nat.add_lt_add_left hd 2, if_true, Nat.add_sub_cancel_left]

theorem regRead_die (s : State) {d o : Nat} (hd : d < nDies) (ho : RegOffset o) : s.regRead ((2 + d) * 2 ^ 20 + o) = s.dieRegRead d o := by
  obtain ⟨hmod, hdiv, hal⟩ := block_offset ho (2 + d)
  have h0 : 2 + d ≠ 0 := by omega
  have h1 : 2 + d ≠ 1 := by omega
  simp only [State.regRead, hmod, hdiv, hal, h0, h1, ne_eq, not_true_eq_false, if_false, Nat.add_lt_add_left hd 2, if_true, Nat.add_sub_cancel_left]

theorem regWrite_none (s : State) {off : Nat} (h : off % 8 ≠ 0 ∨ 0x600000 ≤ off) (val : W64) : s.regWrite off val = .ignored := by
  unfold State.regWrite
  split
  · rfl
  · have hb : 2 + nDies ≤ off / 0x100000 := by simp only [nDies]; omega
    rw [if_neg (by omega), if_neg (by omega), if_neg (by omega)]

/-! ### A register's write in its block, run -/

theorem exec_dieRegister {s t : State} {d o : Nat} {val : W64} (hd : d < nDies) (ho : RegOffset o) (h : s.dieRegWrite d o val = .after t) :
    exec (.registerWrite ((2 + d) * 2 ^ 20 + o) val) s = .next (if s.ready then t else s) := by
  refine exec_registerWrite_after ?_ ((regWrite_die s hd ho val).trans h)
  obtain ⟨hlt, -⟩ := ho
  simp only [nDies] at hd
  omega

theorem exec_tenancyRegister {s t : State} {o : Nat} {val : W64} (ho : RegOffset o) (h : s.tenancyWrite o val = .after t) :
    exec (.registerWrite (1 * 2 ^ 20 + o) val) s = .next (if s.ready then t else s) := by
  refine exec_registerWrite_after ?_ ((regWrite_tenancy s ho val).trans h)
  obtain ⟨hlt, -⟩ := ho
  omega

theorem tenancyWrite_vf (s : State) {v o : Nat} (hv : v < 64) (ho : o < 0x100) (val : W64) : s.tenancyWrite (0x100 * v + o) val = s.vfRegWrite v o val := by
  have hdiv : (0x100 * v + o) / 0x100 = v := by omega
  have hmod : (0x100 * v + o) % 0x100 = o := by omega
  rw [State.tenancyWrite, if_pos (by omega), hdiv, hmod]

/-- A register of a function's own block. -/
theorem exec_vfRegister {s t : State} {v o a : Nat} {val : W64} (hv : v < 64) (ho : o < 0x100) (hal : o % 8 = 0) (ha : 0x100 * v + o = a)
    (h : s.vfRegWrite v o val = .after t) : exec (.registerWrite (1 * 2 ^ 20 + a) val) s = .next (if s.ready then t else s) := by
  subst ha
  exact exec_tenancyRegister ⟨by omega, by omega⟩ ((tenancyWrite_vf s hv ho val).trans h)

theorem hubRegWrite_queue (s : State) {v q o : Nat} (hv : v < 64) (hq : q < 8) (ho : o < 0x40) (val : W64) :
    s.hubRegWrite (0x8000 + 0x200 * v + 0x40 * q + o) val = s.queueReg v q o val := by
  generalize ha : 0x8000 + 0x200 * v + 0x40 * q + o = a
  have hv' : (a - 0x8000) / 0x40 / 8 = v := by omega
  have hq' : (a - 0x8000) / 0x40 % 8 = q := by omega
  have ho' : a % 0x40 = o := by omega
  have hown : (a = 0x200 || a = 0x220 || a = 0x238) = false := by simp; omega
  have herr : (0xD00 ≤ a && a < 0xD40) = false := by simp; omega
  have hin : (0x8000 ≤ a && a < 0x10000) = true := by simp; omega
  simp only [State.hubRegWrite, hown, herr, hin, Bool.false_eq_true, if_false, if_true, hv', hq', ho']

/-- A register of a host queue whose own event does not write it: it stands still while EN = 1 (18 R337). -/
theorem exec_queueRegister {s t : State} {v q o : Nat} {val : W64} (hv : v < 64) (hq : q < 8) (ho : o < 0x28) (hal : o % 8 = 0)
    (h : s.queueReg v q o val = if (s.queue v q).en then .ignored else .after t) :
    if (s.queue v q).en then exec (.registerWrite (0 * 2 ^ 20 + (0x8000 + 0x200 * v + 0x40 * q + o)) val) s = .next s
    else exec (.registerWrite (0 * 2 ^ 20 + (0x8000 + 0x200 * v + 0x40 * q + o)) val) s = .next (if s.ready then t else s) := by
  have hreg : s.regWrite (0 * 2 ^ 20 + (0x8000 + 0x200 * v + 0x40 * q + o)) val = s.queueReg v q o val :=
    (regWrite_hub s ⟨by omega, by omega⟩ val).trans (hubRegWrite_queue s hv hq (by omega) val)
  split
  case isTrue hen => exact exec_registerWrite_ignored (by omega) (hreg.trans (h.trans (if_pos hen)))
  case isFalse hen => exact exec_registerWrite_after (by omega) (hreg.trans (h.trans (if_neg hen)))

/-! ### Registers that stand in rows -/

theorem vfRegWrite_feature (s : State) (v : Nat) {k : Nat} (hk : k < 8) (val : W64) :
    s.vfRegWrite v (0x80 + 8 * k) val = .after (s.modVf v (fun x => { x with feat := tset x.feat k val })) := by
  have hrow : (0x80 + 8 * k - 0x80) / 8 = k := by omega
  simp (disch := omega) only [State.vfRegWrite, Bool.or_eq_true, Bool.and_eq_true, decide_eq_true_eq, if_neg, if_pos, hrow]

theorem dieRegWrite_trapVector (s : State) (d : Nat) {k : Nat} (hk : k < 64) (val : W64) :
    s.dieRegWrite d (0x1000 + 32 * k) val = .after (s.modDie d (fun x => { x with
      vfs := tset x.vfs k { tgetD x.vfs k {} with tvec := val &&& 0x01FFFFFFFFFFFFFD } })) := by
  have hrow : (0x1000 + 32 * k - 0x1000) / 32 = k := by omega
  have hcol : (0x1000 + 32 * k) % 32 = 0 := by omega
  simp (disch := omega) only [State.dieRegWrite, Bool.and_eq_true, decide_eq_true_eq, if_neg, if_pos, hrow, hcol]
  rfl

theorem dieRegRead_guestWays (s : State) (d : Nat) {k : Nat} (hk : k < 64) : s.dieRegRead d (0x100 + 8 * k) = (s.die d).gwmOf k := by
  have hrow : (0x100 + 8 * k - 0x100) / 8 = k := by omega
  simp (disch := omega) only [State.dieRegRead, Bool.and_eq_true, decide_eq_true_eq, if_neg, if_pos, hrow]

/-- The error registers of a die are its own, not the hub's (26 Table 26-3). -/
theorem modErr_die (s : State) {d : Nat} (hd : d < nDies) (f : ErrRegs → ErrRegs) : s.modErr d f = s.modDie d (fun x => { x with err := f x.err }) :=
  if_neg (Nat.ne_of_lt hd)

/-! ### FQCTL -/

theorem modErr_fqCtl (s : State) (e d : Nat) (f : ErrRegs → ErrRegs) : ((s.modErr e f).die d).fqCtl = (s.die d).fqCtl := by
  unfold State.modErr
  split
  · rfl
  · by_cases h : d = e
    · rw [h, die_modDie_self]
    · rw [die_modDie_other _ _ _ _ h]

theorem mgEvent_fqCtl (s : State) (e bit d : Nat) : ((s.mgEvent e bit).die d).fqCtl = (s.die d).fqCtl := by
  simp only [State.mgEvent]
  split
  · rfl
  · split
    · exact modErr_fqCtl s e d _
    · exact modErr_fqCtl s e d _

theorem fqEvent_fqCtl (s : State) (e d : Nat) : ((s.fqEvent e).die d).fqCtl = (s.die d).fqCtl := by
  simp only [State.fqEvent]
  split
  · exact mgEvent_fqCtl s e mgFQ d
  · rfl

theorem overflow_fqCtl (x : Die) : x.overflow.fqCtl = x.fqCtl ||| if x.fqFull && !x.faults.isEmpty then 4 else 0 := by
  unfold Die.overflow
  split
  · rfl
  · exact BitVec.or_zero.symm

theorem overflow_fqSize (x : Die) : x.overflow.fqSize = x.fqSize := by
  unfold Die.overflow
  split <;> rfl

theorem fqCtlWrite_fqCtl (x : Die) (val : W64) : (x.fqCtlWrite val).fqCtl = (val &&& 3 ||| (x.fqCtl &&& ~~~ val &&& 4)) |||
    if val.getLsbD 0 && !x.fqCtl.getLsbD 0 && x.fqFull && !x.faults.isEmpty then 4 else 0 := by
  simp only [Die.fqCtlWrite, Bool.and_assoc (val.getLsbD 0 && !x.fqCtl.getLsbD 0)]
  split
  case isTrue h =>
    rw [overflow_fqCtl, h, Bool.true_and]
    rfl
  case isFalse h =>
    rw [Bool.not_eq_true] at h
    rw [h]
    exact BitVec.or_zero.symm

/-- EN and IE take the written bits; OVF is cleared by a 1, or set when the queue starts full with records waiting (R368). -/
theorem fqCtlWrite_bits (x : Die) (val : W64) : (x.fqCtlWrite val).fqCtl.getLsbD 0 = val.getLsbD 0 ∧ (x.fqCtlWrite val).fqCtl.getLsbD 1 = val.getLsbD 1 ∧
    (x.fqCtlWrite val).fqCtl.getLsbD 2 = ((x.fqCtl.getLsbD 2 && !val.getLsbD 2) ||
      (val.getLsbD 0 && !x.fqCtl.getLsbD 0 && x.fqFull && !x.faults.isEmpty)) := by
  rw [fqCtlWrite_fqCtl]
  generalize (val.getLsbD 0 && !x.fqCtl.getLsbD 0 && x.fqFull && !x.faults.isEmpty) = starts
  cases starts <;> simp

theorem exec_fqCtlWrite {s : State} {d : Nat} (hd : d < nDies) (hr : s.ready = true) (val : W64) :
    ∃ t, exec (.registerWrite ((2 + d) * 2 ^ 20 + 0x920) val) s = .next t ∧ (t.die d).fqCtl = ((s.die d).fqCtlWrite val).fqCtl := by
  have h := exec_dieRegister (s := s) (val := val) hd (o := 0x920) ⟨by decide, by decide⟩ rfl
  rw [if_pos hr] at h
  exact ⟨_, h, by rw [fqEvent_fqCtl, die_modDie_self]⟩

end Sys2Proof.Machine
end

section
open Sys2Proof Sys2Proof.Machine

/-- Settles O49: an offset's block names the function that writes it, and each register of the block is one of that
function's branches. -/
theorem registersTakeWrites : Obligations.RegistersTakeWrites := by
  intro s d v q k val hd hv hq off queue dies functions tenancy queues takes
  have hoff : ∀ e ∈ dies, RegOffset e.1 := by simp [dies, RegOffset]
  have hdies : ∀ e ∈ dies, s.dieRegWrite d e.1 val = .after e.2 := by
    have herr (f : ErrRegs → ErrRegs) : RegWrite.after (s.modErr d f) = .after (s.modDie d (fun x => { x with err := f x.err })) :=
      congrArg RegWrite.after (modErr_die s hd f)
    simp only [dies, List.forall_mem_cons]
    exact ⟨rfl, rfl, rfl, rfl, rfl, rfl, rfl, rfl, rfl, rfl, rfl, rfl, rfl, rfl, herr _, herr _, herr _, List.forall_mem_nil _⟩
  have hread : ∀ e ∈ dies, e.1 ∈ ([0x018, 0x020, 0x028, 0x038, 0x040, 0x810, 0x900, 0x908, 0x930, 0x948, 0x958, 0x968] : List Nat) →
      e.2.dieRegRead d e.1 = val := by
    have reads (field : Die → W64) (f : Die → Die) : field ((s.modDie d f).die d) = field (f (s.die d)) :=
      congrArg field (die_modDie_self s d f)
    simp only [dies, List.forall_mem_cons]
    exact ⟨fun h => absurd h (by decide), fun _ => reads Die.mtArg0 _, fun _ => reads Die.mtArg1 _, fun _ => reads Die.mtArg2 _,
      fun _ => reads Die.astBase _, fun _ => reads Die.migVf _, fun h => absurd h (by decide), fun _ => reads Die.btArg0 _,
      fun _ => reads Die.fqBase _, fun _ => (reads Die.fqSize _).trans (overflow_fqSize _), fun _ => reads Die.fqArg _,
      fun _ => reads Die.dbgArg0 _, fun _ => reads Die.dbgData _, fun _ => reads Die.dbgVf _,
      fun h => absurd h (by decide), fun h => absurd h (by decide), fun h => absurd h (by decide), List.forall_mem_nil _⟩
  refine ⟨fun e he => exec_dieRegister hd (hoff e he) (hdies e he), ?_, ?_, ?_,
    fun hk => exec_vfRegister hv (by omega) (by omega) (Nat.add_assoc ..).symm (vfRegWrite_feature s v hk val),
    fun hk => exec_dieRegister hd ⟨by omega, by omega⟩ (dieRegWrite_trapVector s d hk val),
    fun hk hno => exec_registerWrite_ignored hk (regWrite_none s hno val), fun hr => ?_,
    regRead_die s hd ⟨by decide, by decide⟩, fun hg => ?_, fun e he hl => (regRead_die _ hd (hoff e he)).trans (hread e he hl)⟩
  · have hfun : ∀ e ∈ functions, e.1 < 0x100 ∧ e.1 % 8 = 0 ∧ s.vfRegWrite v e.1 val = .after e.2 := by
      simp [functions, State.vfRegWrite]
    intro e he
    obtain ⟨hlt, hal, hw⟩ := hfun e he
    exact exec_vfRegister hv hlt hal rfl hw
  · have hten : ∀ e ∈ tenancy, RegOffset e.1 ∧ s.tenancyWrite e.1 val = .after e.2 := by
      simp [tenancy, RegOffset, State.tenancyWrite]
    intro e he
    obtain ⟨ho, hw⟩ := hten e he
    exact exec_tenancyRegister ho hw
  · have hqueue : ∀ e ∈ queues, e.1 < 0x28 ∧ e.1 % 8 = 0 ∧ s.queueReg v q e.1 val = if (s.queue v q).en then .ignored else .after e.2 := by
      simp only [queues, List.forall_mem_cons]
      exact ⟨⟨by decide, trivial, rfl⟩, ⟨by decide, trivial, rfl⟩, ⟨by decide, trivial, rfl⟩, ⟨by decide, trivial, rfl⟩, List.forall_mem_nil _⟩
    intro e he
    obtain ⟨hlt, hal, hw⟩ := hqueue e he
    exact exec_queueRegister hv hq hlt hal hw
  · obtain ⟨t, ht, hctl⟩ := exec_fqCtlWrite hd hr val
    exact ⟨t, ht, hctl ▸ fqCtlWrite_bits (s.die d) val⟩
  · refine (regRead_die s hd ⟨by omega, by omega⟩).trans ?_
    rw [dieRegRead_guestWays _ _ hv, Die.gwmOf, tgetD, hg]
    rfl
end

section
/-! SUPPORT. A word is the encoding of what it decodes to (05 R91, R105): the layouts leave no bit unread, and a word is read back
from its bytes. -/

namespace Sys2Proof

/-- The laws of each instruction under `Laws.Words`, and no words for a step of the device. -/
theorem words_law (i : Instr) : Laws.Words.Statement i := by
  cases i with
  | add m f => exact Laws.Words.add m f
  | sub m f => exact Laws.Words.sub m f
  | mul m f => exact Laws.Words.mul m f
  | mulh m f => exact Laws.Words.mulh m f
  | mad m f => exact Laws.Words.mad m f
  | div m f => exact Laws.Words.div m f
  | rem m f => exact Laws.Words.rem m f
  | abs m f => exact Laws.Words.abs m f
  | min m f => exact Laws.Words.min m f
  | max m f => exact Laws.Words.max m f
  | cmp m f => exact Laws.Words.cmp m f
  | sel m f => exact Laws.Words.sel m f
  | mov m f => exact Laws.Words.mov m f
  | cvtI m f => exact Laws.Words.cvtI m f
  | and m f => exact Laws.Words.and m f
  | or m f => exact Laws.Words.or m f
  | xor m f => exact Laws.Words.xor m f
  | andn m f => exact Laws.Words.andn m f
  | shl m f => exact Laws.Words.shl m f
  | shr m f => exact Laws.Words.shr m f
  | sha m f => exact Laws.Words.sha m f
  | rot m f => exact Laws.Words.rot m f
  | clz m f => exact Laws.Words.clz m f
  | popc m f => exact Laws.Words.popc m f
  | brev m f => exact Laws.Words.brev m f
  | bfx m f => exact Laws.Words.bfx m f
  | bfi m f => exact Laws.Words.bfi m f
  | fadd m f => exact Laws.Words.fadd m f
  | fsub m f => exact Laws.Words.fsub m f
  | fmul m f => exact Laws.Words.fmul m f
  | fma m f => exact Laws.Words.fma m f
  | fdiv m f => exact Laws.Words.fdiv m f
  | fmin m f => exact Laws.Words.fmin m f
  | fmax m f => exact Laws.Words.fmax m f
  | fminn m f => exact Laws.Words.fminn m f
  | fmaxn m f => exact Laws.Words.fmaxn m f
  | fabs m f => exact Laws.Words.fabs m f
  | fneg m f => exact Laws.Words.fneg m f
  | fcmp m f => exact Laws.Words.fcmp m f
  | frcp m f => exact Laws.Words.frcp m f
  | frsq m f => exact Laws.Words.frsq m f
  | fsqrt m f => exact Laws.Words.fsqrt m f
  | fexp2 m f => exact Laws.Words.fexp2 m f
  | flog2 m f => exact Laws.Words.flog2 m f
  | fsin m f => exact Laws.Words.fsin m f
  | fcos m f => exact Laws.Words.fcos m f
  | frnd m f => exact Laws.Words.frnd m f
  | fclass m f => exact Laws.Words.fclass m f
  | cvt m f => exact Laws.Words.cvt m f
  | cvtMx m f => exact Laws.Words.cvtMx m f
  | cvtLg6 m f => exact Laws.Words.cvtLg6 m f
  | mxsc m f => exact Laws.Words.mxsc m f
  | pk m f => exact Laws.Words.pk m f
  | upk m f => exact Laws.Words.upk m f
  | ld m f => exact Laws.Words.ld m f
  | st m f => exact Laws.Words.st m f
  | ldsp m f => exact Laws.Words.ldsp m f
  | stsp m f => exact Laws.Words.stsp m f
  | ldraw m f => exact Laws.Words.ldraw m f
  | pref m f => exact Laws.Words.pref m f
  | fence m f => exact Laws.Words.fence m f
  | atomAdd m f => exact Laws.Words.atomAdd m f
  | atomMin m f => exact Laws.Words.atomMin m f
  | atomMax m f => exact Laws.Words.atomMax m f
  | atomAnd m f => exact Laws.Words.atomAnd m f
  | atomOr m f => exact Laws.Words.atomOr m f
  | atomXor m f => exact Laws.Words.atomXor m f
  | atomXchg m f => exact Laws.Words.atomXchg m f
  | atomCas m f => exact Laws.Words.atomCas m f
  | atomFadd m f => exact Laws.Words.atomFadd m f
  | atomFmax m f => exact Laws.Words.atomFmax m f
  | amaxi m f => exact Laws.Words.amaxi m f
  | redAdd m f => exact Laws.Words.redAdd m f
  | redMax m f => exact Laws.Words.redMax m f
  | redEsum m f => exact Laws.Words.redEsum m f
  | bp m f => exact Laws.Words.bp m f
  | jmp m f => exact Laws.Words.jmp m f
  | jmpReg m f => exact Laws.Words.jmpReg m f
  | call m f => exact Laws.Words.call m f
  | callReg m f => exact Laws.Words.callReg m f
  | ret m f => exact Laws.Words.ret m f
  | reform m f => exact Laws.Words.reform m f
  | exit m f => exact Laws.Words.exit m f
  | nop m f => exact Laws.Words.nop m f
  | shfl m f => exact Laws.Words.shfl m f
  | shfli m f => exact Laws.Words.shfli m f
  | vote m f => exact Laws.Words.vote m f
  | redu m f => exact Laws.Words.redu m f
  | redmaxi m f => exact Laws.Words.redmaxi m f
  | scan m f => exact Laws.Words.scan m f
  | cmpr m f => exact Laws.Words.cmpr m f
  | expd m f => exact Laws.Words.expd m f
  | slup m f => exact Laws.Words.slup m f
  | sldn m f => exact Laws.Words.sldn m f
  | bcast m f => exact Laws.Words.bcast m f
  | wfind m f => exact Laws.Words.wfind m f
  | harrow m f => exact Laws.Words.harrow m f
  | stkAdd m f => exact Laws.Words.stkAdd m f
  | stkSub m f => exact Laws.Words.stkSub m f
  | stkMul m f => exact Laws.Words.stkMul m f
  | stkDiv m f => exact Laws.Words.stkDiv m f
  | stkNeg m f => exact Laws.Words.stkNeg m f
  | stkRcp m f => exact Laws.Words.stkRcp m f
  | stkSq m f => exact Laws.Words.stkSq m f
  | stkUni m f => exact Laws.Words.stkUni m f
  | stkIsect m f => exact Laws.Words.stkIsect m f
  | stkHull m f => exact Laws.Words.stkHull m f
  | stkFrom m f => exact Laws.Words.stkFrom m f
  | stkTo m f => exact Laws.Words.stkTo m f
  | stkLdring m f => exact Laws.Words.stkLdring m f
  | sadd m f => exact Laws.Words.sadd m f
  | ssub m f => exact Laws.Words.ssub m f
  | smul m f => exact Laws.Words.smul m f
  | sand m f => exact Laws.Words.sand m f
  | sor m f => exact Laws.Words.sor m f
  | sxor m f => exact Laws.Words.sxor m f
  | sshl m f => exact Laws.Words.sshl m f
  | sshr m f => exact Laws.Words.sshr m f
  | ssha m f => exact Laws.Words.ssha m f
  | smin m f => exact Laws.Words.smin m f
  | smax m f => exact Laws.Words.smax m f
  | smov m f => exact Laws.Words.smov m f
  | scmp m f => exact Laws.Words.scmp m f
  | ssel m f => exact Laws.Words.ssel m f
  | sld m f => exact Laws.Words.sld m f
  | sst m f => exact Laws.Words.sst m f
  | sli m f => exact Laws.Words.sli m f
  | sliH1 m f => exact Laws.Words.sliH1 m f
  | sliH2 m f => exact Laws.Words.sliH2 m f
  | sliH3 m f => exact Laws.Words.sliH3 m f
  | saddImm m f => exact Laws.Words.saddImm m f
  | ubr m f => exact Laws.Words.ubr m f
  | ubrFar m f => exact Laws.Words.ubrFar m f
  | ucall m f => exact Laws.Words.ucall m f
  | uret m f => exact Laws.Words.uret m f
  | uloop m f => exact Laws.Words.uloop m f
  | gang m f => exact Laws.Words.gang m f
  | station m f => exact Laws.Words.station m f
  | unstation m f => exact Laws.Words.unstation m f
  | mma m f => exact Laws.Words.mma m f
  | mmat m f => exact Laws.Words.mmat m f
  | mdual m f => exact Laws.Words.mdual m f
  | azero m f => exact Laws.Words.azero m f
  | ald m f => exact Laws.Words.ald m f
  | ast m f => exact Laws.Words.ast m f
  | ascl m f => exact Laws.Words.ascl m f
  | aread m f => exact Laws.Words.aread m f
  | mwait m f => exact Laws.Words.mwait m f
  | tfill m f => exact Laws.Words.tfill m f
  | taff m f => exact Laws.Words.taff m f
  | tclamp m f => exact Laws.Words.tclamp m f
  | tperm m f => exact Laws.Words.tperm m f
  | tmat m f => exact Laws.Words.tmat m f
  | tread m f => exact Laws.Words.tread m f
  | stream m f => exact Laws.Words.stream m f
  | bar m f => exact Laws.Words.bar m f
  | barw m f => exact Laws.Words.barw m f
  | yield m f => exact Laws.Words.yield m f
  | wlpush m f => exact Laws.Words.wlpush m f
  | wlpop m f => exact Laws.Words.wlpop m f
  | wlquiet m f => exact Laws.Words.wlquiet m f
  | waitwp m f => exact Laws.Words.waitwp m f
  | waitseq m f => exact Laws.Words.waitseq m f
  | aflush m f => exact Laws.Words.aflush m f
  | chapp m f => exact Laws.Words.chapp m f
  | launch m f => exact Laws.Words.launch m f
  | nlaunch m f => exact Laws.Words.nlaunch m f
  | coll m f => exact Laws.Words.coll m f
  | topk m f => exact Laws.Words.topk m f
  | gath m f => exact Laws.Words.gath m f
  | trap m f => exact Laws.Words.trap m f
  | tret m f => exact Laws.Words.tret m f
  | csrr m f => exact Laws.Words.csrr m f
  | csrw m f => exact Laws.Words.csrw m f
  | brk m f => exact Laws.Words.brk m f
  | getclk m f => exact Laws.Words.getclk m f
  | _ => exact words_none _ rfl

theorem ofBool_flag (w : W32) (n : Nat) : BitVec.ofBool (flag w n) = fld w n 1 := by
  apply BitVec.eq_of_toNat_eq
  rw [ofBool_nat, flag_nat, fld_nat, Nat.pow_one]
  obtain h | h := Nat.mod_two_eq_zero_or_one (w.toNat / 2 ^ n)
  · rw [h]
    rfl
  · rw [h]
    rfl

theorem fld_append (w : W32) {lo hi n k : Nat} (h : hi = lo + n) : fld w hi k ++ fld w lo n = fld w lo (k + n) :=
  BitVec.extractLsb'_append_extractLsb'_eq_extractLsb' h

theorem fld_whole (w : W32) : fld w 0 32 = w := by
  simp [fld]

/-- What the layouts read of a word is all of its field bits (Tables 5-4, 5-8 to 5-10): where a layout marks bits 0, they are 0. -/
theorem packFields_unpackFields {p : Nat} {w : W32} {f : Fields} : unpackFields p w = some f → packFields f = fld w 0 23 := by
  fun_cases unpackFields p w
  all_goals
    intro hu
    cases hu
  all_goals simp only [packFields, ofBool_flag]
  case case2 hz => exact hz.symm
  case case7 hz =>
    obtain ⟨hhi, hlo⟩ : fld w 16 7 = 0#7 ∧ fld w 0 8 = 0#8 := by simpa using hz
    simp only [← hhi, ← hlo, fld_append]
  case case11 hz | case19 hz => simp only [← show fld w 0 5 = 0#5 from hz, fld_append]
  case case13 hz => simp only [← show fld w 16 1 = 0#1 from hz, fld_append]
  all_goals simp only [fld_append]

theorem packWord_unpackFields {w : W32} {f : Fields} (hu : unpackFields (primary w) w = some f) : packWord (primary w) f = w := by
  rw [packWord, packFields_unpackFields hu, primary, BitVec.ofNat_toNat, BitVec.setWidth_eq]
  exact (fld_append w rfl).trans (fld_whole w)

theorem packMod_unpackMod {w : W32} (h : isModifier w = true) : packMod (unpackMod w) = w := by
  have hp : fld w 23 9 = 0xFF#9 := BitVec.eq_of_toNat_eq (of_decide_eq_true h)
  have hl : fld w 22 1 = BitVec.ofBool (flag w 22) := (ofBool_flag w 22).symm
  unfold unpackMod
  split
  case isTrue hl1 =>
    rw [hl1] at hl
    simp only [packMod, if_true, ← hp, ← show fld w 22 1 = 1#1 from hl, ofBool_flag, fld_append]
    exact fld_whole w
  case isFalse hl0 =>
    rw [(Bool.not_eq_true _).mp hl0] at hl
    simp only [packMod, ← hp, ← show fld w 22 1 = 0#1 from hl, fld_append, Bool.false_eq_true, if_false]
    exact fld_whole w

/-- Where each number of a block names, with a layout's fields, nothing or what is encoded with that number and those fields, so does any
one of them. -/
theorem enc_of_block {m : Option ModW} {f : Fields} (lo n : Nat)
    (hl : (List.range' lo n).map (fun p => (Instr.ofEnc p m f).bind Instr.enc) =
      (List.range' lo n).map (fun p => (Instr.ofEnc p m f).map (fun _ => ⟨p, m, f⟩)))
    {p : Nat} (hp : lo ≤ p ∧ p < lo + n) {i : Instr} (h : Instr.ofEnc p m f = some i) : i.enc = some ⟨p, m, f⟩ := by
  have hslot := List.map_inj_left.mp hl p (List.mem_range'_1.mpr hp)
  rwa [h] at hslot

/-- The constructor that an opcode number and its layout name is encoded with that number and those fields (06 Tables 6-1, 6-2): each
layout's numbers lie in a few blocks. -/
theorem enc_of_ofEnc {p : Nat} {m : Option ModW} {w : W32} {f : Fields} {i : Instr} (hp : p < 512) (h : Instr.ofEnc p m f = some i) :
    unpackFields p w = some f → i.enc = some ⟨p, m, f⟩ := by
  fun_cases unpackFields p w
  all_goals
    intro hu
    cases hu
  all_goals simp only [Bool.or_eq_true, Bool.and_eq_true, decide_eq_true_eq] at *
  case case1 => exact enc_of_block 0x0C0 11 rfl (by omega) h
  case case2 => exact enc_of_block 0x086 35 rfl (by omega) h
  case case4 =>
    obtain _ | _ : p < 0x086 ∨ p = 0x0EC := by omega
    · exact enc_of_block 0x080 6 rfl (by omega) h
    · exact enc_of_block 0x0EC 1 rfl (by omega) h
  case case5 =>
    obtain _ | _ : p = 0x0A0 ∨ p = 0x140 := by omega
    · exact enc_of_block 0x0A0 1 rfl (by omega) h
    · exact enc_of_block 0x140 1 rfl (by omega) h
  case case6 =>
    obtain _ | _ : p ≤ 0x0A3 ∨ 0x141 ≤ p := by omega
    · exact enc_of_block 0x0A1 3 rfl (by omega) h
    · exact enc_of_block 0x141 2 rfl (by omega) h
  case case7 => exact enc_of_block 0x0A2 4 rfl (by omega) h
  case case9 =>
    obtain _ | _ | _ | _ : p < 0x040 ∨ (0x040 ≤ p ∧ p < 0x080) ∨ (0x080 ≤ p ∧ p < 0x0C0) ∨ 0x0C0 ≤ p := by omega
    · exact enc_of_block 0x000 64 rfl (by omega) h
    · exact enc_of_block 0x040 64 rfl (by omega) h
    · exact enc_of_block 0x080 64 rfl (by omega) h
    · exact enc_of_block 0x0C0 64 rfl (by omega) h
  case case10 => exact enc_of_block 0x10E 2 rfl (by omega) h
  case case11 =>
    obtain _ | _ : p < 0x120 ∨ p = 0x143 := by omega
    · exact enc_of_block 0x100 32 rfl (by omega) h
    · exact enc_of_block 0x143 1 rfl (by omega) h
  case case13 => exact enc_of_block 0x120 32 rfl (by omega) h
  case case15 => exact enc_of_block 0x144 1 rfl (by omega) h
  case case16 => exact enc_of_block 0x140 64 rfl (by omega) h
  case case17 => exact enc_of_block 0x180 32 rfl (by omega) h
  case case18 => exact enc_of_block 0x1A0 64 rfl (by omega) h
  case case19 => exact enc_of_block 0x1E0 32 rfl (by omega) h

/-- What a word that stands for an instruction is: the word of its opcode number and its fields (05 R105). -/
theorem enc_of_decodeSuffix {m : Option ModW} {w : W32} {i : Instr} (h : decodeSuffix m w = .instr i) :
    i.wellFormed = true ∧ ∃ f, i.enc = some ⟨primary w, m, f⟩ ∧ packWord (primary w) f = w := by
  unfold decodeSuffix at h
  dsimp only at h
  split at h
  case isFalse => cases h
  case isTrue ha =>
    split at h
    case h_2 => cases h
    case h_1 f hu =>
      split at h
      case h_2 => cases h
      case h_1 j hj =>
        split at h
        case isFalse => cases h
        case isTrue hw =>
          cases h
          exact ⟨hw, f, enc_of_ofEnc (BitVec.isLt _) hj hu, packWord_unpackFields hu⟩

theorem encode_of_enc_one {i : Instr} {p : Nat} {f : Fields} (h : i.enc = some ⟨p, none, f⟩) : encode i = [packWord p f] := by
  rw [encode, h]

theorem encode_of_enc_two {i : Instr} {p : Nat} {m : ModW} {f : Fields} (h : i.enc = some ⟨p, some m, f⟩) : encode i = [packMod m, packWord p f] := by
  rw [encode, h]

/-- A word is read back from its four bytes, whatever bytes follow (00 R2). -/
theorem wordOf_wordBytes (w : W32) (b : List W8) : wordOf (wordBytes w ++ b) = w := by
  show fld w 24 8 ++ fld w 16 8 ++ fld w 8 8 ++ fld w 0 8 = w
  simp only [fld_append]
  exact fld_whole w

theorem decodeBytes_wordBytes (w : W32) (b : List W8) : decodeBytes (wordBytes w ++ b) = decode w (wordOf b) := by
  rw [decodeBytes, wordOf_wordBytes]
  rfl

end Sys2Proof
end

section
open Sys2Proof

/-- Settles O58: an instruction is one word or a pair, each read back from its bytes and then by the laws of its constructor. -/
theorem decodeEncode : Obligations.DecodeEncode := by
  intro i hi hwf
  obtain ⟨⟨p, m, f⟩, he⟩ := Option.isSome_iff_exists.mp hi
  cases m with
  | none =>
    have hw := encode_of_enc_one he
    rw [hw, List.flatMap_cons, decodeBytes_wordBytes]
    exact decode_of_encode_one _ (words_law i) hw hwf
  | some m =>
    have hw := encode_of_enc_two he
    rw [hw, List.flatMap_cons, List.flatMap_cons, decodeBytes_wordBytes, wordOf_wordBytes]
    exact decode_of_encode_two (words_law i) hw hwf

/-- Settles O59: the layouts leave no bit of a word unread, so the fields read are those of one word only. -/
theorem wordsAreUnique : Obligations.WordsAreUnique := by
  intro w w2 i h
  unfold decode at h
  split
  case isTrue hw =>
    rw [if_pos hw] at h
    split at h
    case isTrue => cases h
    case isFalse =>
      obtain ⟨hwf, f, he, hp⟩ := enc_of_decodeSuffix h
      exact ⟨hwf, by rw [encode_of_enc_two he, packMod_unpackMod hw, hp]⟩
  case isFalse hw =>
    rw [if_neg hw] at h
    obtain ⟨hwf, f, he, hp⟩ := enc_of_decodeSuffix h
    exact ⟨hwf, by rw [encode_of_enc_one he, hp]⟩
end

section
/-! SUPPORT. What reads of a die's view, writes at home, the error log and translations leave as it was (07 R118, R120, 17 R323, 26
R431). -/

namespace Sys2Proof.Machine

/-- What a read, a write at home and a record in the error log leave: the threads, the sheaves, the teams and the trap registers. -/
structure State.SameRunning (s t : State) : Prop where
  threads : t.threads = s.threads
  sheaves : t.sheaves = s.sheaves
  teams : t.teams = s.teams
  vfs : ∀ e, (t.die e).vfs = (s.die e).vfs

theorem sameRunning_refl (s : State) : s.SameRunning s := ⟨rfl, rfl, rfl, fun _ => rfl⟩

theorem State.SameRunning.trans {a b c : State} (h : a.SameRunning b) (k : b.SameRunning c) : a.SameRunning c :=
  ⟨k.threads.trans h.threads, k.sheaves.trans h.sheaves, k.teams.trans h.teams, fun e => (k.vfs e).trans (h.vfs e)⟩

theorem foldl_sameRunning {α : Type} {f : State → α → State} (h : ∀ (s : State) (x : α), s.SameRunning (f s x)) (l : List α) (s : State) :
    s.SameRunning (l.foldl f s) :=
  List.foldlRecOn l f (sameRunning_refl s) (fun t ht x _ => ht.trans (h t x))

theorem sameRunning_of_sameButCaches {s t : State} (h : s.SameButCaches t) : s.SameRunning t := by
  obtain ⟨ht, hd⟩ := h
  refine ⟨?_, ?_, ?_, fun e => ?_⟩
  · rw [ht]
  · rw [ht]
  · rw [ht]
  · rw [hd e]

theorem modMem_sameRunning (s : State) (f : Mem → Mem) : s.SameRunning (s.modMem f) := ⟨rfl, rfl, rfl, fun _ => rfl⟩

theorem modHub_sameRunning (s : State) (f : Hub → Hub) : s.SameRunning (s.modHub f) := ⟨rfl, rfl, rfl, fun _ => rfl⟩

theorem modDie_sameRunning (s : State) (d : Nat) {f : Die → Die} (hf : ∀ x, (f x).vfs = x.vfs) : s.SameRunning (s.modDie d f) := by
  refine ⟨rfl, rfl, rfl, fun e => ?_⟩
  by_cases he : e = d
  · rw [he, die_modDie_self, hf]
  · rw [die_modDie_other _ _ _ _ he]

/-! ### Writes at home and reads -/

theorem homeRequests_sameRunning (s : State) (d cl : Nat) (cols : Bool) (ls : List Nat) : s.SameRunning (s.homeRequests d cl cols ls) :=
  sameRunning_of_sameButCaches (homeRequests_sameButCaches s d cl cols ls)

theorem seqRaw_sameRunning (s : State) (home : Nat) (vc : List Nat) (c : List Content) (g : Option Nat) : s.SameRunning (s.seqRaw home vc c g) := by
  unfold State.seqRaw
  dsimp only
  refine .trans ?_ (foldl_sameRunning (fun s d => modDie_sameRunning s d (by intro x; rfl)) _ _)
  refine .trans ?_ (modMem_sameRunning _ _)
  refine .trans ?_ (modDie_sameRunning _ _ (by intro x; rfl))
  exact homeRequests_sameRunning s home _ false _

theorem mergeElem_sameRunning (s : State) (home : Nat) (e : RedElem) : s.SameRunning (s.mergeElem home e) := by
  unfold State.mergeElem
  split
  · exact sameRunning_refl s
  · exact (seqRaw_sameRunning s _ _ _ _).trans (modMem_sameRunning _ _)

theorem mergeRead_sameRunning (s : State) (home a n : Nat) : s.SameRunning (s.mergeRead home a n) :=
  foldl_sameRunning (fun s e => mergeElem_sameRunning s home e) _ _

theorem leaveReduce_sameRunning (s : State) (home : Nat) (ls : List Nat) : s.SameRunning (s.leaveReduce home ls) := by
  unfold State.leaveReduce
  exact .trans (foldl_sameRunning (fun s e => mergeElem_sameRunning s home e) _ _) (modMem_sameRunning _ _)

theorem seqWrite_sameRunning (s : State) (home : Nat) (vc : List Nat) (c : List Host.Cell) (g : Option Nat) : s.SameRunning (s.seqWrite home vc c g) := by
  have h := (leaveReduce_sameRunning s home (cellLines c)).trans (seqRaw_sameRunning _ home vc [.cells c] g)
  unfold State.seqWrite
  dsimp only
  split
  · exact h
  · exact h.trans (modMem_sameRunning _ _)

theorem touchPage_sameRunning (s : State) (p : Page) (dirty : Bool) : s.SameRunning (s.touchPage p dirty) := by
  rw [State.touchPage, State.setPte]
  generalize (memGet s.mem.home p.pte ||| if dirty then 0x18 else 0x08) = n
  split
  · exact sameRunning_refl s
  · exact seqWrite_sameRunning s _ _ _ _

theorem readDone_sameRunning (s : State) (d t : Nat) (ps : List Page) (rs : List (Nat × Nat × Nat)) (ls : List Nat) (cl : Nat) (cols : Bool) :
    s.SameRunning (s.readDone d t ps rs ls cl cols) := by
  have merges := foldl_sameRunning (fun s (r : Nat × Nat × Nat) => mergeRead_sameRunning s r.1 r.2.1 r.2.2) rs s
  have requests := foldl_sameRunning (fun s (r : Nat × Nat × Nat) => homeRequests_sameRunning s r.1 cl cols (linesOf r.2.1 r.2.2)) rs
  have touches := foldl_sameRunning (fun s p => touchPage_sameRunning s p false) ps
  have leases (u : State) := modDie_sameRunning u d (f := fun x => x.setRts ls t) (fun _ => rfl)
  exact ((merges.trans (requests _)).trans (touches _)).trans (leases _)

/-! ### The error log -/

theorem modErr_sameRunning (s : State) (d : Nat) (f : ErrRegs → ErrRegs) : s.SameRunning (s.modErr d f) := by
  unfold State.modErr
  split
  · exact modHub_sameRunning s _
  · exact modDie_sameRunning s d (fun _ => rfl)

theorem physWrite_sameRunning (s : State) (pa : Nat) (b : List W8) : s.SameRunning (s.physWrite pa b) :=
  seqWrite_sameRunning s _ _ _ _

theorem logErr_sameRunning (s : State) (d : Nat) (r : ErrRec) : s.SameRunning (s.logErr d r) := by
  unfold State.logErr
  dsimp only
  split
  · exact modErr_sameRunning s d _
  · exact (modErr_sameRunning s d _).trans (physWrite_sameRunning _ _ _)
  · split
    · exact modErr_sameRunning s d _
    · split
      · exact modErr_sameRunning s d _
      · exact modErr_sameRunning s d _

theorem logFree_sameRunning (s : State) (d cls src vf addr : Nat) : s.SameRunning (s.logFree d cls src vf addr) :=
  have taken : s.SameRunning s.takeFree.2 := ⟨rfl, rfl, rfl, fun _ => rfl⟩
  taken.trans (logErr_sameRunning _ d (s.takeFree.2.mkErr cls src vf addr (lo32 s.takeFree.1).toNat))

/-! ### Translation -/

/-- A translation changes nothing of a die but the translations it holds and those it has lost (17 R323). -/
theorem mtlbFill_die (s : State) (d asid : Nat) (p : Page) (e : Nat) :
    ∃ m o, (s.mtlbFill d asid p).die e = { s.die e with mtlb := m, mtlbOld := o } := by
  have fills (x : Die) : ∃ m o, (if x.mtlb.any (fun t => t.asid = asid && t.page.va = p.va) then x
      else { x.mtlbEvict with mtlb := x.mtlbEvict.mtlb ++ [⟨asid, p, 0⟩] }) = { x with mtlb := m, mtlbOld := o } := by
    unfold Die.mtlbEvict
    split
    · exact ⟨_, _, rfl⟩
    · split <;> exact ⟨_, _, rfl⟩
  unfold State.mtlbFill
  by_cases he : e = d
  · rw [he, die_modDie_self]
    exact fills _
  · rw [die_modDie_other _ _ _ _ he]
    exact ⟨_, _, rfl⟩

theorem translate_cases (s : State) (asid va : Nat) (write fetch : Bool) :
    (∃ k, s.translate asid va write fetch = (.error k, s)) ∨ ∃ d p, s.translate asid va write fetch = (.ok p, s.mtlbFill d asid p) := by
  unfold State.translate
  split
  · exact .inl ⟨_, rfl⟩
  · split
    · exact .inl ⟨_, rfl⟩
    · split
      · exact .inl ⟨_, rfl⟩
      · split
        · exact .inl ⟨_, rfl⟩
        · exact .inr ⟨_, _, rfl⟩
  · exact .inl ⟨_, rfl⟩

theorem translate_error {s : State} {asid va kind : Nat} {write fetch : Bool} (h : (s.translate asid va write fetch).1 = .error kind) :
    s.translate asid va write fetch = (.error kind, s) := by
  obtain ⟨k, hk⟩ | ⟨d, p, hp⟩ := translate_cases s asid va write fetch
  · rw [hk] at h ⊢
    cases h
    rfl
  · rw [hp] at h
    cases h

/-- A translation looks at no sheaf. -/
theorem walkNodes_sheaves (s : State) (l : List Sheaf) (die off : Nat) : (bs : List Nat) → (node : Nat) →
    State.walkNodes { s with sheaves := l } die off bs node = s.walkNodes die off bs node
  | [], _ => rfl
  | [_], _ => rfl
  | b :: c :: r, node => by
    simp only [State.walkNodes, walkNodes_sheaves s l die off (c :: r)]
    rfl

theorem pageOf_sheaves (s : State) (l : List Sheaf) (die asid va : Nat) :
    State.pageOf { s with sheaves := l } die asid va = s.pageOf die asid va := by
  have hleaf : State.leafPte { s with sheaves := l } die asid va = s.leafPte die asid va := by
    simp only [State.leafPte, walkNodes_sheaves]
    rfl
  simp only [State.pageOf, State.walk, hleaf]
  rfl

theorem translate_sheaves (s : State) (l : List Sheaf) (asid va : Nat) (write fetch : Bool) :
    (State.translate { s with sheaves := l } asid va write fetch).1 = (s.translate asid va write fetch).1 := by
  have htarget : State.vaTarget { s with sheaves := l } asid va = s.vaTarget asid va := rfl
  simp only [State.translate, htarget, pageOf_sheaves]
  split
  · rfl
  · split
    · rfl
    · split
      · rfl
      · split
        · rfl
        · rfl
  · rfl

theorem translate_sameRunning (s : State) (asid va : Nat) (write fetch : Bool) : s.SameRunning (s.translate asid va write fetch).2 := by
  obtain ⟨k, hk⟩ | ⟨d, p, hp⟩ := translate_cases s asid va write fetch
  · rw [hk]
    exact sameRunning_refl s
  · rw [hp]
    refine ⟨rfl, rfl, rfl, fun e => ?_⟩
    obtain ⟨m, o, hd⟩ := mtlbFill_die s d asid p e
    rw [hd]

end Sys2Proof.Machine
end

section
/-! SUPPORT. The fetch of an instruction: the line it reads, and the sheaf that it leaves, corrects or parks (05 R105, 17 R309, 20
R381). -/

namespace Sys2Proof.Machine

theorem fetchLine_sameRunning (s : State) (c asid va : Nat) (again : Bool) (back : Nat) : s.SameRunning (s.fetchLine c asid va again back).2 := by
  have ht := translate_sameRunning s asid va false true
  unfold State.fetchLine
  split
  next h => rwa [h] at ht
  next h =>
    rw [h] at ht
    dsimp only
    split
    · exact ht
    · refine ht.trans ?_
      split
      · exact readDone_sameRunning ..
      · have cached (u : State) (m : Tbl (List W8)) : u.SameRunning { u with icache := m } := ⟨rfl, rfl, rfl, fun _ => rfl⟩
        exact (readDone_sameRunning ..).trans (cached _ _)

theorem fetchWord_sameRunning (s : State) (c asid va : Nat) (again : Bool) (back : Nat) : s.SameRunning (s.fetchWord c asid va again back).2 := by
  have hl := fetchLine_sameRunning s c asid va again back
  unfold State.fetchWord
  split
  next h => rwa [h] at hl
  next h => rwa [h] at hl

theorem fetchAt_sameRunning (s : State) (h : Sheaf) (again : Bool) (back : Nat) : s.SameRunning (s.fetchAt h again back).2 := by
  have hw := fetchWord_sameRunning s h.core (s.asidOf (h.tids.headD 0)) h.pc.toNat again back
  unfold State.fetchAt
  dsimp only
  split
  next he => rwa [he] at hw
  next u he =>
    rw [he] at hw
    split
    · exact hw
    · have hw2 := fetchWord_sameRunning u h.core (s.asidOf (h.tids.headD 0)) ((h.pc.toNat + 4) % 2 ^ 57) again back
      split
      next he2 =>
        rw [he2] at hw2
        exact hw.trans hw2
      next he2 =>
        rw [he2] at hw2
        exact hw.trans hw2

/-- A line fetched anew: the bytes of the die's view at a time that a relaxed load may take (07 R120, 17 R309). -/
theorem fetchLine_again {s u : State} {c asid va back : Nat} {b : List W8} {p : Page} (hp : (s.translate asid va false true).1 = .ok p)
    (h : s.fetchLine c asid va true back = (.ok b, u)) :
    ∃ T, T ≤ (s.die (dieOfCore c)).clock ∧ (s.die (dieOfCore c)).clock - loadWindow ≤ T ∧ (back = 0 → T = (s.die (dieOfCore c)).clock) ∧
      b = (upto lineBytes).map (fun i => (s.die (dieOfCore c)).byte T ((p.pa + (va - p.va)) / lineBytes * lineBytes + i)) := by
  obtain ⟨k, hk⟩ | ⟨e, q, hq⟩ := translate_cases s asid va false true
  · rw [hk] at hp
    cases hp
  · rw [hq] at hp
    cases hp
    obtain ⟨m, o, hd⟩ := mtlbFill_die s e asid p (dieOfCore c)
    simp only [State.fetchLine, hq, hd, if_true, Prod.mk.injEq, Except.ok.injEq] at h
    refine ⟨_, ?_, ?_, ?_, h.1.symm⟩
    · exact Nat.min_le_left ..
    · simp only [Die.invFloor]
      omega
    · rintro rfl
      simp only [Nat.sub_zero]
      omega

/-- The first word at a sheaf's PC is that of the line fetched. -/
theorem fetchAt_word {s u : State} {h : Sheaf} {again : Bool} {back : Nat} {w w2 : W32} (hf : s.fetchAt h again back = (.ok (w, w2), u)) :
    ∃ b v, s.fetchLine h.core (s.asidOf (h.tids.headD 0)) h.pc.toNat again back = (.ok b, v) ∧ w = wordOf (b.drop (h.pc.toNat % lineBytes)) := by
  unfold State.fetchAt State.fetchWord at hf
  dsimp only at hf
  cases hl : s.fetchLine h.core (s.asidOf (h.tids.headD 0)) h.pc.toNat again back with
  | mk r v =>
    rw [hl] at hf
    cases r with
    | error k => cases hf
    | ok b =>
      refine ⟨b, v, rfl, ?_⟩
      dsimp only at hf
      split at hf
      · cases hf
        rfl
      · split at hf
        · cases hf
        · cases hf
          rfl

theorem fetchAt_error {s : State} {h : Sheaf} {back kind : Nat}
    (ht : (s.translate (s.asidOf (h.tids.headD 0)) h.pc.toNat false true).1 = .error kind) :
    s.fetchAt h true back = (.error (kind, h.pc.toNat), s) := by
  simp only [State.fetchAt, State.fetchWord, State.fetchLine, translate_error ht]

/-- The word at an offset of a line. -/
theorem wordOf_line (f : Nat → W8) {n : Nat} (hn : n + 4 ≤ lineBytes) :
    wordOf (((upto lineBytes).map f).drop n) = wordOf ((upto 4).map (fun i => f (n + i))) := by
  have hget (i : Nat) (hi : i < 4) : (((upto lineBytes).map f).drop n).getD i 0 = f (n + i) := by
    have : n + i < lineBytes := by omega
    simp [List.getD, upto, this]
  simp only [wordOf, hget 0 (by decide), hget 1 (by decide), hget 2 (by decide), hget 3 (by decide)]
  rfl

/-- A byte of a line of code, by its place in the frame. -/
theorem line_offset {pa base va : Nat} (hpa : pa % lineBytes = 0) (hb : base % lineBytes = 0) (hle : base ≤ va) (i : Nat) :
    (pa + (va - base)) / lineBytes * lineBytes + (va % lineBytes + i) = pa + (va - base) + i := by
  simp only [lineBytes] at *
  omega

/-- A word of code lies in one line. -/
theorem word_in_line {va : Nat} (hva : va % 4 = 0) : va % lineBytes + 4 ≤ lineBytes := by
  simp only [lineBytes]
  omega

/-! ### The sheaf in front -/

theorem bring_eq {s : State} {k : Nat} {h : Sheaf} (hk : s.sheaves[k]? = some h) : s.bring k = { s with sheaves := h :: s.sheaves.eraseIdx k } := by
  rw [State.bring, hk]

theorem setFront_of_sheaves {s : State} {h x : Sheaf} {r : List Sheaf} (hs : s.sheaves = x :: r) : (s.setFront h).front = some h :=
  setFront_front s h x (by rw [State.front, hs]; rfl)

/-- All threads of a sheaf without trapped lanes leave it. -/
theorem splitSheaf_active (s : State) (h : Sheaf) (htr : h.trapped = []) (next : Nat → Va) (out : State → State) :
    s.splitSheaf h h.active next out = (out s.dropFront).cleanBins h.core := by
  have hnone : h.active.filter (fun t => !h.active.contains t) = [] := by simp
  rw [State.splitSheaf, hnone, htr]
  rfl

theorem saveSheaf_threads (s : State) (h : Sheaf) : (s.saveSheaf h).threads = s.threads := by
  unfold State.saveSheaf
  split <;> rfl

theorem saveSheaf_mem (s : State) (h : Sheaf) : (s.saveSheaf h).mem = s.mem := by
  unfold State.saveSheaf
  split <;> rfl

/-- A change of a team that keeps its executor, its die and its function keeps its trap registers. -/
theorem modTeam_trapRegs (s : State) (k : Nat) {f : Team → Team} (hf : ∀ x, (f x).core = x.core ∧ (f x).die = x.die ∧ (f x).vf = x.vf) (tk : Nat) :
    (s.modTeam k f).trapRegs tk = s.trapRegs tk := by
  unfold State.trapRegs State.dieOfTeam State.vfOf State.modTeam
  dsimp only
  by_cases htk : tk = k
  · rw [htk, tget_tmap_self]
    cases tget s.teams k with
    | none => rfl
    | some x =>
      obtain ⟨hcore, hdie, hvf⟩ := hf x
      simp only [Option.map_some, hcore, hdie, hvf]
      rfl
  · rw [tget_tmap_other _ _ _ _ htk]
    rfl

theorem saveSheaf_trapRegs (s : State) (h : Sheaf) (tk : Nat) : (s.saveSheaf h).trapRegs tk = s.trapRegs tk := by
  unfold State.saveSheaf
  split
  · rfl
  · refine modTeam_trapRegs s h.team (fun x => ?_) tk
    split
    · exact ⟨rfl, rfl, rfl⟩
    · exact ⟨rfl, rfl, rfl⟩

theorem State.SameRunning.trapRegs {s t : State} (h : s.SameRunning t) (tk : Nat) : t.trapRegs tk = s.trapRegs tk := by
  simp only [State.trapRegs, State.dieOfTeam, State.vfOf, h.teams, h.vfs]

theorem cleanBins_keeps (s : State) (c : Nat) : (s.cleanBins c).threads = s.threads ∧ (s.cleanBins c).mem = s.mem := by
  unfold State.cleanBins
  dsimp only
  refine List.foldlRecOn (motive := fun t : State => t.threads = s.threads ∧ t.mem = s.mem) _ _ ⟨rfl, rfl⟩ (fun t ht x _ => ?_)
  split
  · exact ht
  · exact ht

/-! ### Parking -/

/-- Records of a fault change the threads they park and no memory. -/
theorem parkAll_keeps (s : State) (tids : List Nat) (kind access asid va : Nat) (pc : Va) (words opa opb : W64) (opx : W32) (p : Park)
    (k : Option Kept) : (s.parkAll tids kind access asid va pc words opa opb opx p k).threads = (s.parkThreads tids { p with grp := s.next } k).threads ∧
      (s.parkAll tids kind access asid va pc words opa opb opx p k).mem = s.mem := by
  unfold State.parkAll
  exact List.foldlRecOn (motive := fun t : State => t.threads = (s.parkThreads tids { p with grp := s.next } k).threads ∧ t.mem = s.mem) _ _
    ⟨rfl, rfl⟩ (fun t ht x _ => ht)

theorem parkThreads_thread {s : State} {j : Nat} (hj : (tget s.threads j).isSome = true) {tids : List Nat} (hm : j ∈ tids) (p : Park) (k : Option Kept) :
    ((s.parkThreads tids p k).thread j).stat = .parked ∧ ((s.parkThreads tids p k).thread j).park = some p := by
  obtain ⟨t, ht⟩ := Option.isSome_iff_exists.mp hj
  simp [State.thread, State.parkThreads, State.modThreads, tgetD, tget_tmapOn, ht, hm]

theorem thread_congr {s t : State} (h : t.threads = s.threads) (j : Nat) : t.thread j = s.thread j := by
  rw [State.thread, h, State.thread]

/-- A user thread that a fault parks alone: its replay record, and no memory changed (20 R367). -/
theorem parkRecords_user {s : State} {j : Nat} (hj : (tget s.threads j).isSome = true) (hu : (s.thread j).sup = false) (kind access asid va : Nat) (pc : Va)
    (words opa opb : W64) (opx : W32) (p : Park) (k : Option Kept) :
    ((s.parkRecords [j] kind access asid va pc words opa opb opx p k).thread j).stat = .parked ∧
      ((s.parkRecords [j] kind access asid va pc words opa opb opx p k).thread j).park = some { p with grp := s.next } ∧
      (s.parkRecords [j] kind access asid va pc words opa opb opx p k).mem = s.mem := by
  have hall : s.parkRecords [j] kind access asid va pc words opa opb opx p k = s.parkAll [j] kind access asid va pc words opa opb opx p k := by
    simp [State.parkRecords, hu]
  obtain ⟨ht, hm⟩ := parkAll_keeps s [j] kind access asid va pc words opa opb opx p k
  obtain ⟨hstat, hpark⟩ := parkThreads_thread hj (List.mem_singleton_self j) { p with grp := s.next } k
  rw [hall, thread_congr ht]
  exact ⟨hstat, hpark, hm⟩

/-- A trap of a user thread whose function has no vector (20 R363). -/
theorem deliver_user {s : State} {j : Nat} (hu : (s.thread j).sup = false) (hv : bitAt (s.trapRegs (tkOf j)).tvec.toNat 0 = false) (code : Nat) (pc rpc : Va)
    (words val : W64) : s.deliver [j] code pc rpc words val = s.parkRecords [j] code 10 (s.asidOf j) 0 pc words val 0 0
      { kind := code, set := .lane, grp := 0, trap := true, val := val, rpc := rpc, pc := pc, words := words, access := 10 } none := by
  simp [State.deliver, hu, hv]

/-- The sheaf in front gone, and its chain saved: the threads stand. -/
theorem saveSheaf_dropFront_threads (s : State) (h : Sheaf) : (s.saveSheaf h).dropFront.threads = s.threads := saveSheaf_threads s h

section
variable {s : State} {h : Sheaf} {j : Nat} (ha : h.active = [j]) (htr : h.trapped = []) (hj : (tget s.threads j).isSome = true)
  (hu : (s.thread j).sup = false)
include ha htr hj hu

/-- A sheaf of one user thread that a fetch fault parks (05 R105, 01 R23). -/
theorem fetchFault_single (kind va : Nat) : ((s.fetchFault h kind va).thread j).stat = .parked ∧ (s.fetchFault h kind va).mem = s.mem ∧
    ∃ x, ((s.fetchFault h kind va).thread j).park = some x ∧ x.kind = kind ∧ x.access = 4 ∧ x.pc = h.pc := by
  have hth := saveSheaf_dropFront_threads s h
  unfold State.fetchFault
  dsimp only
  rw [splitSheaf_active _ h htr, ha]
  obtain ⟨hct, hcm⟩ := cleanBins_keeps _ h.core
  obtain ⟨hstat, hpark, hmem⟩ := parkRecords_user (s := (s.saveSheaf h).dropFront) (hth ▸ hj) (by rwa [thread_congr hth])
    kind 4 ((s.saveSheaf h).dropFront.asidOf j) va h.pc 0 0 0 0
    { kind := kind, set := .lane, grp := 0, trap := false, val := 0, rpc := h.pc, pc := h.pc, words := 0, access := 4 } none
  rw [List.headD_cons, thread_congr hct, hcm]
  exact ⟨hstat, hmem.trans (saveSheaf_mem s h), _, hpark, rfl, rfl, rfl⟩

/-- A sheaf of one user thread that a trap takes, with no vector: the thread parks (20 R363, R367). -/
theorem trapFront_single (hv : bitAt (s.trapRegs (tkOf j)).tvec.toNat 0 = false) (code : Nat) (rpc : Va) (words val : W64) :
    ((s.trapFront h h.active code rpc words val).thread j).stat = .parked ∧
      ∃ x, ((s.trapFront h h.active code rpc words val).thread j).park = some x ∧ x.kind = code ∧ x.pc = h.pc := by
  have hth := saveSheaf_dropFront_threads s h
  have hu' : ((s.saveSheaf h).dropFront.thread j).sup = false := by rwa [thread_congr hth]
  have hv' : bitAt ((s.saveSheaf h).dropFront.trapRegs (tkOf j)).tvec.toNat 0 = false := by
    rwa [show (s.saveSheaf h).dropFront.trapRegs (tkOf j) = _ from saveSheaf_trapRegs s h (tkOf j)]
  unfold State.trapFront
  dsimp only
  rw [splitSheaf_active _ h htr, ha, deliver_user hu' hv']
  obtain ⟨hct, -⟩ := cleanBins_keeps _ h.core
  obtain ⟨hstat, hpark, -⟩ := parkRecords_user (s := (s.saveSheaf h).dropFront) (hth ▸ hj) hu'
    code 10 ((s.saveSheaf h).dropFront.asidOf j) 0 h.pc words val 0 0
    { kind := code, set := .lane, grp := 0, trap := true, val := val, rpc := rpc, pc := h.pc, words := words, access := 10 } none
  rw [thread_congr hct]
  exact ⟨hstat, _, hpark, rfl, rfl⟩

end

/-! ### The step -/

section
variable {s u : State} {k back : Nat} {h : Sheaf} (hk : s.sheaves[k]? = some h)
include hk

theorem exec_fetch_error {kind va : Nat} (hf : (s.bring k).fetchAt h true back = (.error (kind, va), u)) (bad : Nat) :
    exec (.instructionFetch ⟨k, back⟩ bad) s = .next (u.fetchFault h kind va) := by
  show execInstructionFetch ⟨k, back⟩ bad s = _
  rw [bring_eq hk] at hf
  simp only [execInstructionFetch, bring_eq hk, hk, hf]

variable {w w2 : W32} (hf : (s.bring k).fetchAt h true back = (.ok (w, w2), u))
include hf

theorem exec_fetch_clean : exec (.instructionFetch ⟨k, back⟩ 0) s = .next (u.setFront { h with refetch := 0 }) := by
  show execInstructionFetch ⟨k, back⟩ 0 s = _
  rw [bring_eq hk] at hf
  simp only [execInstructionFetch, bring_eq hk, hk, hf]
  rfl

theorem exec_fetch_corrected (hr : h.refetch = 0) : exec (.instructionFetch ⟨k, back⟩ 1) s =
    .next ((u.logFree (dieOfCore h.core) clsCE 4 (u.vfOf h.team) h.core).setFront { h with refetch := 1 }) := by
  show execInstructionFetch ⟨k, back⟩ 1 s = _
  rw [bring_eq hk] at hf
  simp only [execInstructionFetch, bring_eq hk, hk, hf, hr]
  rfl

theorem exec_fetch_poisoned (hr : 1 ≤ h.refetch) : exec (.instructionFetch ⟨k, back⟩ 1) s =
    .next ((u.logFree (dieOfCore h.core) clsUCNA 4 (u.vfOf h.team) h.core).trapFront { h with refetch := 0 } h.active tInstPoison h.pc (recWords w w2) 0) := by
  show execInstructionFetch ⟨k, back⟩ 1 s = _
  rw [bring_eq hk] at hf
  simp only [execInstructionFetch, bring_eq hk, hk, hf]
  rw [if_neg Nat.one_ne_zero, if_neg (by omega)]

end

/-- What the fetch leaves of the state before the sheaf was brought to the front. -/
theorem fetchAt_bring {s u : State} {k back : Nat} {h : Sheaf} {r : Except (Nat × Nat) (W32 × W32)} (hk : s.sheaves[k]? = some h)
    (hf : (s.bring k).fetchAt h true back = (r, u)) :
    u.threads = s.threads ∧ u.sheaves = h :: s.sheaves.eraseIdx k ∧ ∀ tk, u.trapRegs tk = s.trapRegs tk := by
  have hr := fetchAt_sameRunning (s.bring k) h true back
  rw [hf, bring_eq hk] at hr
  exact ⟨hr.threads, hr.sheaves, fun tk => hr.trapRegs tk⟩

end Sys2Proof.Machine
end

section
open Sys2Proof Sys2Proof.Machine

/-- Settles O54: the fetch reads one line of the die's view, and it and the error log leave threads, sheaves and trap registers; what a
fault or a second parity error parks is read after the sheaf has ended. -/
theorem fetchesAnew : Obligations.FetchesAnew := by
  intro s k j bad back kind h p w w2 hk htids hteam hj hu htr va asid d
  have hact : h.active = [j] := by simp [Sheaf.active, htids, htr]
  have hasid : (s.bring k).asidOf (h.tids.headD 0) = s.asidOf j := by
    rw [bring_eq hk, htids]
    rfl
  have htrans : ((s.bring k).translate asid va false true).1 = (s.translate asid va false true).1 := by
    rw [bring_eq hk, translate_sheaves]
  refine ⟨fun u hf => ?_, fun herr _ => ?_⟩
  · obtain ⟨hth, hsh, htv⟩ := fetchAt_bring hk hf
    refine ⟨?_, ?_, ?_⟩
    · rintro rfl
      refine ⟨_, exec_fetch_clean hk hf, (setFront_threads ..).trans hth, setFront_of_sheaves hsh, fun _ _ hp hal hpa hpv hle => ?_⟩
      obtain ⟨b, v, hl, hw⟩ := fetchAt_word hf
      rw [hasid] at hl
      obtain ⟨T, hT, hlo, hnow, hb⟩ := fetchLine_again (htrans.trans hp) hl
      rw [bring_eq hk] at hT hlo hnow hb
      refine ⟨T, hT, hlo, hnow, ?_⟩
      rw [hw, hb, wordOf_line _ (word_in_line hal)]
      exact congrArg (fun f => wordOf ((upto 4).map f)) (funext fun i => congrArg ((s.die d).byte T) (line_offset hpa hpv hle i))
    · rintro rfl hr
      have hlog := logFree_sameRunning u d clsCE 4 (u.vfOf h.team) h.core
      exact ⟨_, exec_fetch_corrected hk hf hr, (setFront_threads ..).trans (hlog.threads.trans hth), setFront_of_sheaves (hlog.sheaves.trans hsh)⟩
    · rintro rfl hr htvec -
      have hlog := logFree_sameRunning u d clsUCNA 4 (u.vfOf h.team) h.core
      have hthreads := hlog.threads.trans hth
      exact ⟨_, exec_fetch_poisoned hk hf hr, trapFront_single (h := { h with refetch := 0 }) hact htr (hthreads ▸ hj) (by rwa [thread_congr hthreads])
        (by rwa [hlog.trapRegs, htv]) _ _ _ _⟩
  · have hf := fetchAt_error (h := h) (back := back) (by rw [hasid]; exact htrans.trans herr)
    obtain ⟨hth, -, -⟩ := fetchAt_bring hk hf
    obtain ⟨hstat, hmem, hpark⟩ := fetchFault_single hact htr (hth ▸ hj) (by rwa [thread_congr hth]) kind va
    exact ⟨_, exec_fetch_error hk hf bad, hstat, hmem.trans (by rw [bring_eq hk]), hpark⟩
end
